-- ==== Sys2Proof/Word.lean ====
section
/-! DEFINITION. The word types of the Cadempa 4832: bytes and the 16-bit and 32-bit fields of its two windows. -/

namespace Sys2Proof

/-- A byte of common memory or of a register. -/
abbrev Byte := BitVec 8

/-- A 16-bit field: a cue number, a word of an image. -/
abbrev Word16 := BitVec 16

/-- A 32-bit field: a register, an answer detail, the frame counter. -/
abbrev Word32 := BitVec 32

end Sys2Proof
end

