-- ==== Sys2Proof/Syntax.lean ====
section
/-! DEFINITION. The commands of the Cadempa 4832: one constructor of `Instr` per row of spec/opcode_table.json, with the
operands the row's rule gives it. -/

namespace Sys2Proof

/-- The three bands of a line (03 R59). -/
inductive Band where
  | lf | mf | hf
  deriving DecidableEq, Repr

/-- The works the blocks of the part have to do at one frame boundary (07 R150, 00 "Where time comes from"). The spec
leaves their order open but for the limits its rules state (log 1). -/
inductive Work where
  /-- 01 R9 steps 1 and 2: BAD NUMBER and STALE answers -/
  | refuse
  /-- 01 R9 steps 3 to 5: one take; a frame boundary has four -/
  | take
  /-- 01 R11: the gap timer, once the scan is done -/
  | gap
  /-- 02 R24, R25: one chunk of the image loader, and what follows from the last -/
  | copy
  /-- 04 R82: the completion of the computation under way -/
  | compute
  /-- 05 R103: one step of FADE, OUT or IN, and what follows from the last -/
  | fade
  /-- 05 R101: the standing claim request -/
  | claim
  /-- 05 R110, R111: one frame of a tail -/
  | tail (slot : Nat)
  /-- 03 R53: one step of an engine's scrubbing -/
  | scrub (engine : Nat)
  /-- 08 R169: one frame of the lockout timer -/
  | lockout
  /-- 07 R148: lane losses and the LANE DOWN condition -/
  | lanes
  /-- 07 R160: one step of the mode ramp -/
  | modeRamp
  /-- 07 R159: the taking of a mode request -/
  | modeTake
  /-- 07 R155: one step of the resync ramp -/
  | resyncRamp
  /-- 07 R152: the taking of a clock source and of a RESYNC -/
  | clockTake
  /-- 06 R126: an analysis -/
  | analysis
  /-- 06 R135: stage 5 of the analysis in progress, for one notch -/
  | hold (entry : Nat)
  /-- 06 R136: stage 6 of the analysis in progress, for one microphone -/
  | quiet (mic : Nat)
  /-- 06 R137: stage 7 of the analysis in progress -/
  | deviceQuiet
  /-- 06 R138: stage 8 of the analysis in progress -/
  | betaRequest
  /-- 09 R177: the meter write -/
  | meters
  /-- 04 R84: one step of a decay glide -/
  | decayGlide (engine : Nat) (band : Band)
  /-- 04 R87: one step of the epsilon glide -/
  | epsGlide
  /-- 06 R119: one step of a trim glide -/
  | trimGlide (mic : Nat)
  /-- 06 R122: one step of a fallback glide -/
  | fallbackGlide (mic : Nat)
  /-- 06 R121: one step of a notch depth glide -/
  | depthGlide (entry : Nat)
  /-- 01 R5, 06 R121, 09 R176, R180: filter coefficients, engine page and mirrors, once all other works are done -/
  | publish
  deriving DecidableEq, Repr

/-- RUNCTL's requests come in two moments: the host's write of the register, and the taking of the request by its block
at a frame boundary (01 R3, 07 R152, R159; log 4). -/
inductive RunctlEvent where
  /-- the host writes `value` to RUNCTL; the write acts whole, as R3 gives -/
  | written (value : Word32)
  /-- the block takes the request at the frame boundary now being worked -/
  | taken
  deriving DecidableEq, Repr

/-- The time between two rising edges of the word clock input, in crystal periods, as a fraction (07 R151). -/
structure Interval where
  num : Nat
  den : Nat
  deriving DecidableEq, Repr

/-- What the word clock detector saw when it judges the word clock absent (07 R151). -/
inductive AbsenceCause where
  /-- no rising edge for 4 crystal periods -/
  | silence
  /-- an interval between two rising edges -/
  | interval (i : Interval)
  deriving DecidableEq, Repr

/-- The commands: one constructor per row of spec/opcode_table.json, in the table's order. -/
inductive Instr where
  /-- POWER_ON_RESET: the reset pin is held (`held`), or released after having been held (01 R5) -/
  | powerOnReset (held : Bool)
  /-- ENGINE_RESET: a RUNCTL write with bit 31 set; `rest` is the discarded rest of the write (01 R3) -/
  | engineReset (rest : BitVec 31)
  /-- MODE_REQUEST (07 R159) -/
  | modeRequest (event : RunctlEvent)
  /-- CLOCK_SOURCE (07 R157) -/
  | clockSource (event : RunctlEvent)
  /-- RESYNC (07 R154) -/
  | resync (event : RunctlEvent)
  /-- ATTN: a 32-bit write of ATTN (09 R172) -/
  | attn (value : Word32)
  /-- ATTNMASK: a 32-bit write of ATTNMASK (09 R175) -/
  | attnmask (value : Word32)
  /-- REGISTER_WRITE: a write of `size` bytes at `offset` of the register window (01 R1) -/
  | registerWrite (offset size : Nat) (value : Word32)
  /-- COMMON_MEMORY_WRITE: a write of `size` bytes at `offset` of common memory (01 R1) -/
  | commonMemoryWrite (offset size : Nat) (value : Word32)
  /-- MARK: the scan takes the MARK cue standing in cue table slot `slot` (01 R17); likewise the next thirteen -/
  | mark (slot : Nat)
  | loadScene (slot : Nat)
  | vacateScene (slot : Nat)
  | go (slot : Nat)
  | trim (slot : Nat)
  | clearStatus (slot : Nat)
  | loadMicTable (slot : Nat)
  | setGuard (slot : Nat)
  | fixNotch (slot : Nat)
  | clearNotch (slot : Nat)
  | clearGuard (slot : Nat)
  | lock (slot : Nat)
  | unlock (slot : Nat)
  | setKey (slot : Nat)
  /-- FRAME_BOUNDARY: the frame counter advances and the blocks do their works, those of `order` first and in that order.
  The works `order` does not name follow, or, with `leave`, stay to be done by the commands that name them (log 1) -/
  | frameBoundary (order : List Work) (leave : Bool)
  /-- CUE_GAP (01 R11) -/
  | cueGap
  /-- COPY_END (02 R25) -/
  | copyEnd
  /-- COMPUTATION_COMPLETE (04 R82) -/
  | computationComplete
  /-- CLAIM (05 R101) -/
  | claim
  /-- CHANGEOVER_END (05 R105) -/
  | changeoverEnd
  /-- OUT_END (05 R107) -/
  | outEnd
  /-- HOLD_EXPIRY of the tail of a scene slot (05 R110) -/
  | holdExpiry (slot : Nat)
  /-- CLOSING_END of the tail of a scene slot (05 R112) -/
  | closingEnd (slot : Nat)
  /-- SCRUB_END of a line engine (03 R53) -/
  | scrubEnd (engine : Nat)
  /-- DECAY_GLIDE_END of an engine's band (04 R84) -/
  | decayGlideEnd (engine : Nat) (band : Band)
  /-- EPSILON_GLIDE_END (04 R87) -/
  | epsilonGlideEnd
  /-- TRIM_GLIDE_END of a microphone (06 R119) -/
  | trimGlideEnd (mic : Nat)
  /-- FALLBACK_GLIDE_END of a microphone (06 R122) -/
  | fallbackGlideEnd (mic : Nat)
  /-- NOTCH_DEPTH_GLIDE_END of a notch pool entry (06 R121) -/
  | notchDepthGlideEnd (entry : Nat)
  /-- MODE_RAMP_END (07 R162) -/
  | modeRampEnd
  /-- RESYNC_SWITCH (07 R155) -/
  | resyncSwitch
  /-- RESYNC_UP_END (07 R155) -/
  | resyncUpEnd
  /-- LOCKOUT_END (08 R169) -/
  | lockoutEnd
  /-- ANALYSIS (06 R126); with `staged`, stages 5 to 8 stay to be done by the commands that name them (log 23) -/
  | analysis (staged : Bool)
  /-- NOTCH_HOLD_EXPIRY of a pool entry (06 R135) -/
  | notchHoldExpiry (entry : Nat)
  /-- PHI_RECOVERY of a microphone (06 R136) -/
  | phiRecovery (mic : Nat)
  /-- BETA_RECOVERY (06 R137) -/
  | betaRecovery
  /-- METER_WRITE (09 R177) -/
  | meterWrite
  /-- SAMPLE_PERIOD (03 R57); `first` is the speaker whose saturation is made first (log 13) -/
  | samplePeriod (first : Nat)
  /-- INPUT_LANE_FRAME: the bits an input lane's receiver samples, in order of arrival (07 R145) -/
  | inputLaneFrame (lane : Nat) (bits : List Bool)
  /-- WORD_CLOCK_ABSENT (07 R153) -/
  | wordClockAbsent (cause : AbsenceCause)
  /-- WORD_CLOCK_PRESENT: intervals between rising edges the detector sees, in order (07 R151) -/
  | wordClockPresent (intervals : List Interval)
  /-- INTERRUPT_MESSAGE_ENABLE: the endpoint's configuration enables or disables interrupt messages (09 R175) -/
  | interruptMessageEnable (on : Bool)
  deriving DecidableEq, Repr

end Sys2Proof
end

