-- ==== Sys2Proof/Config.lean ====
section
/-! DEFINITION. What the silicon of the manual fixes: sizes, addresses, and the constant words of the arithmetic.
The manual leaves no VALUE open to an implementation, so there is no uninterpreted constant here; the orders it leaves
open are operands of the commands (log 1, log 13). -/

namespace Sys2Proof.Config

/-- The common memory window spans 512 KiB (01 R1, section 1.2). -/
def commonSize : Nat := 0x80000
/-- The register window spans 4 KiB (01 R1). -/
def registerSize : Nat := 0x1000
/-- IDENT: part code 0x4832, revision 0x01, 64 units of 8 KiB (01 R2). -/
def ident : Word32 := 0x48320140#32
/-- Where the image area begins (01 section 1.2). -/
def imageBase : Nat := 0x06000
/-- Offset of cue table slot `k` (01 section 1.3). -/
def cueSlotBase (k : Nat) : Nat := 0x01000 + 128 * k
/-- Cue table slots (01 section 1.3). -/
def cueSlots : Nat := 32
/-- Cues taken at one frame boundary at most (01 R9). -/
def takesPerBoundary : Nat := 4
/-- The gap timer's length in frame boundaries (01 R11). -/
def gapLength : Nat := 750
/-- Scene slots (02 R19). -/
def sceneSlots : Nat := 8
/-- Bytes of an image store (02 R19). -/
def imageStoreSize : Nat := 7168
/-- Bytes copied by the loader at one frame boundary (02 R24). -/
def chunkSize : Nat := 512
/-- Line engines (03 R43). -/
def lineEngines : Nat := 32
/-- Samples of one delay region (03 R43). -/
def regionSize : Nat := 32768
/-- Frame boundaries of scrubbing (03 R53). -/
def scrubSteps : Nat := 16
/-- Region samples cleared at one scrub step (03 R53). -/
def scrubChunk : Nat := 2048
/-- Coefficient of the 250 Hz section (03 R59). -/
def lowCoefficient : Int := 2110
/-- Coefficient of the 4 kHz section (03 R59). -/
def highCoefficient : Int := 26713
/-- The scale word S_n of the feedback mixer of order `n` (03 R60). -/
def mixerScale (n : Nat) : Int :=
  if n = 4 then 16384 else if n = 8 then 11585 else if n = 16 then 8192 else 5792
/-- Full level of a fade factor, a mute factor or a resync factor (00 Conventions). -/
def fullLevel : Nat := 32768
/-- Unity of a gain word (00 Conventions). -/
def unityGain : Nat := 8192
/-- Speakers (00 Conventions). -/
def speakers : Nat := 128
/-- Microphones (00 Conventions). -/
def microphones : Nat := 48
/-- Notch pool entries (06 R130). -/
def poolSize : Nat := 16
/-- Input lanes (07 R144). -/
def inputLanes : Nat := 6
/-- The sync word of a lane frame (07 R144). -/
def syncWord : Nat := 0x9E2B47
/-- Bits of a lane frame (07 R144). -/
def laneFrameBits : Nat := 216
/-- Lane frames a store holds (07 R146). -/
def storeDepth : Nat := 4
/-- Steps of a mode ramp and of a resync ramp (07 R155, R160). -/
def rampSteps : Nat := 64
/-- Good intervals after which the word clock is present (07 R151). -/
def goodIntervals : Nat := 64
/-- Sample periods of a frame (07 R150). -/
def frameLength : Nat := 64
/-- Frame boundaries from analysis to analysis (06 R125). -/
def analysisPeriod : Nat := 16
/-- Samples an analysis covers (06 R125). -/
def analysisLength : Nat := 1024
/-- Frame boundaries from meter write to meter write (09 R177). -/
def meterPeriod : Nat := 32
/-- Frames of a lockout (08 R169). -/
def lockoutFrames : Nat := 45000
/-- Glide length of a computation that carries none, and of a back-off change (04 R84, 06 R138). -/
def defaultGlide : Nat := 32
/-- Frames of a trim glide and of a fallback glide (06 R119, R122). -/
def micGlide : Nat := 16
/-- Frames of a notch depth glide (06 R121). -/
def depthGlide : Nat := 4
/-- Full scale of a lane in internal units (09 R178). -/
def fullScale : Nat := 8388608
/-- The lowest level a meter or a spectrum bin reads (06 R127, 09 R178). -/
def levelFloor : Int := -14400

end Sys2Proof.Config
end

