-- ==== Sys2Proof/Machine/State.lean ====
section
/-! DEFINITION. The state of the Cadempa 4832: every piece of state the spec names (INVENTORY.md, heading State, gives the rule
of each), the queue of commands, the state after power-on reset, and the reasons a step can stop. -/

namespace Sys2Proof.Machine

/-- Why the machine stops. The manual gives the part no fault of its own; both reasons are an operand that names
something that does not exist (log 17). -/
inductive Fault where
  /-- raised by REGISTER_WRITE at an offset past the 4 KiB of the register window, and by COMMON_MEMORY_WRITE of 8, 16 or 32
  bits that does not lie wholly in the 512 KiB of common memory: no such address exists (01 R1, section 1.2); safe -/
  | outsideWindow
  /-- raised by a command that names a cue table slot, scene slot, engine, microphone, pool entry, lane or speaker the
  part does not have (00_scope Conventions); safe -/
  | noSuchUnit
  deriving DecidableEq, Repr

/-- Why a command has no meaning. -/
inductive Refusal where
  /-- raised by `exec` alone, for a row of the opcode table with no meaning yet; safe -/
  | notModelled (mnemonic : String)
  deriving DecidableEq, Repr

/-! ### Small parts -/

/-- One value per band of a line. -/
structure Bands (α : Type) where
  lf : α
  mf : α
  hf : α
  deriving DecidableEq, Repr

/-- A stepwise move of a word (04 R84, R87; 06 R119, R121, R122; 07 R155, R160). -/
structure Glide where
  start : Int
  stop : Int
  length : Nat
  step : Nat
  deriving DecidableEq, Repr

/-- The fourteen notice sources (09 section 9.1). -/
inductive Source where
  | cueAnswered | cueGap | loadEnded | changeoverEnded | ringConfirmed | notchDisplaced | fallbackApplied
  | poolFull | laneDown | outputClip | clockHoldover | arithClamp | unlockRefused | backOffActive
  deriving DecidableEq, Repr

/-- A notice record (09 R170). `count` lies in 0..255. -/
structure Notice where
  pending : Bool
  count : Nat
  detail : Word32
  stamp : Word32
  deriving DecidableEq, Repr

/-- The attention block's notices, mask and message output (09 R170, R174, R175). `messages` counts the port interrupt
messages sent, so that the sending of one is an effect on the state (log 21). -/
structure Attention where
  notices : List Notice
  mask : BitVec 4
  messagesEnabled : Bool
  messages : Nat
  deriving DecidableEq, Repr

/-- RUNCTL as it reads (01 R3): the two fields as last written. -/
structure Runctl where
  modeBits : BitVec 2
  source : Bool
  deriving DecidableEq, Repr

/-- The cue unit (01 R8, R11, R12). `expected` is E; `held` keeps, per cue table slot, the copy of the cue taken there;
`tookNow` says that a cue was taken at the present frame boundary. -/
structure CueUnit where
  expected : Word16
  gapTimer : Nat
  held : List (Option (List Byte))
  tookNow : Bool
  deriving DecidableEq, Repr

/-! ### Scenes -/

/-- The states of a scene slot (02 R19). -/
inductive SlotState where
  | vacant | loading | ready | faulted | live | outgoing
  deriving DecidableEq, Repr

/-- The four sticky arithmetic status flags of a slot (02 R19, 04 R77). -/
structure StatusFlags where
  floor : Bool
  ceil : Bool
  tclamp : Bool
  gclamp : Bool
  deriving DecidableEq, Repr

/-- The quantization modes (02 R38, 04 R73). -/
inductive Quantization where
  | nearest | down
  deriving DecidableEq, Repr

/-- A line record (02 R38). -/
structure LineRecord where
  loopLength : Nat
  depth : Nat
  rate : Nat
  override : Bands (Option Nat)
  deriving DecidableEq, Repr

/-- A send entry; `none` is off (02 R39). -/
structure SendRecord where
  mic : Nat
  line : Nat
  gain : Option Int
  deriving DecidableEq, Repr

/-- A tap; `none` is off (02 R40). -/
structure TapRecord where
  line : Nat
  offset : Nat
  gain : Option Int
  deriving DecidableEq, Repr

/-- A speaker record (02 R40). -/
structure SpeakerRecord where
  speaker : Nat
  level : Int
  taps : List TapRecord
  deriving DecidableEq, Repr

/-- The computed part of a scene record (02 R41): per line the decay words and the T′ of each band, per send and per tap
(in image order, per speaker) the gain word. -/
structure Computed where
  decay : List (Bands Nat)
  times : List (Bands Nat)
  sendWords : List Nat
  tapWords : List (List Nat)
  deriving DecidableEq, Repr

/-- A scene record (02 R37 to R42). -/
structure SceneRecord where
  quantization : Quantization
  amin : Nat
  times : Bands Nat
  lines : List LineRecord
  sends : List SendRecord
  speakers : List SpeakerRecord
  computed : Option Computed
  engineMap : Option (List Nat)
  deriving DecidableEq, Repr

/-- A scene slot (02 R19). -/
structure Slot where
  state : SlotState
  image : List Byte
  flags : StatusFlags
  record : Option SceneRecord
  deriving DecidableEq, Repr

/-- The phases of a load (02 R23). -/
inductive LoadPhase where
  | copying | computing
  deriving DecidableEq, Repr

/-- The load record (02 R23). -/
structure LoadRecord where
  target : Nat
  cueSlot : Nat
  offset : Nat
  length : Nat
  done : Nat
  sum : Word16
  phase : LoadPhase
  deriving DecidableEq, Repr

/-! ### Coefficient unit -/

/-- An entry of the pending set (04 R80). -/
structure Request where
  slot : Nat
  glide : Option Nat
  loader : Bool
  changeover : Bool
  deriving DecidableEq, Repr

/-- The computation under way (04 R69, R70, R76). `full` says that it is the load computation of the load the image
loader holds; the end of that load, by an abort or a fault, clears it (02 R35, 04 R83). -/
structure Computation where
  slot : Nat
  start : Word32
  tau : Int
  beta : Nat
  full : Bool
  glide : Option Nat
  loader : Bool
  changeover : Bool
  deriving DecidableEq, Repr

/-- The coefficient unit (04 R69); the decay glide records stand in their engines (04 R85). -/
structure Coefficients where
  tau : Int
  epsilon : Int
  epsilonWord : Nat
  epsilonGlide : Option Glide
  requests : List Request
  underWay : Option Computation
  deriving DecidableEq, Repr

/-! ### Reflection network -/

/-- The states of a line engine (03 R44). -/
inductive EngineState where
  | free | assigned | draining | scrubbing
  deriving DecidableEq, Repr

/-- A line engine (03 R43). `region` lists the positions whose sample is not zero, in rising order; `low` and `high` are
the memories of the band split's two sections (03 R59); `glides` are its decay glide records (04 R84). -/
structure Engine where
  state : EngineState
  owner : Option Nat
  line : Option Nat
  region : List (Nat × Int)
  writePos : Nat
  loopLength : Nat
  depth : Nat
  rate : Nat
  sweep : Int
  up : Bool
  words : Bands Nat
  low : Int
  high : Int
  scrub : Option Nat
  glides : Bands (Option Glide)
  deriving DecidableEq, Repr

/-- A play record (03 R47). -/
structure Play where
  send : Nat
  output : Nat
  deriving DecidableEq, Repr

/-- What the network holds beside its engines: a play record per slot, the draining list (slot, frame counter of the
drain), a clip count per speaker (03 R47, R48, R68). -/
structure Network where
  play : List (Option Play)
  draining : List (Nat × Word32)
  clips : List Nat
  deriving DecidableEq, Repr

/-! ### Changeovers -/

/-- The changeover styles (05 R91). -/
inductive Style where
  | overlap | sequential
  deriving DecidableEq, Repr

/-- The phases of a transition record (05 R91). -/
inductive Phase where
  | prepare | claim | out | in_ | fade
  deriving DecidableEq, Repr

/-- The transition record (05 R91). -/
structure Transition where
  target : Option Nat
  source : Option Nat
  fade : Nat
  clamped : Bool
  style : Option Style
  phase : Phase
  position : Nat
  cuts : List Nat
  cueSlot : Nat
  deriving DecidableEq, Repr

/-- The stages of a tail (05 R92). -/
inductive TailStage where
  | hold (remaining : Nat)
  | closing (start step : Nat)
  deriving DecidableEq, Repr

/-- A tail entry (05 R92). -/
structure Tail where
  slot : Nat
  stage : TailStage
  deriving DecidableEq, Repr

/-! ### Microphones and ring guard -/

/-- The groups of microphones (06 R117). -/
inductive Group where
  | stage | pit | hall
  deriving DecidableEq, Repr

/-- A microphone: its mic table entry, its trim and fallback words with their glides, its guard state, and its analysis
buffer, newest sample first (06 R117, R119, R120, R122, R128, R136). -/
structure Mic where
  present : Bool
  guarded : Bool
  group : Group
  trim : Int
  trimWord : Nat
  trimGlide : Option Glide
  phi : Nat
  fallbackWord : Nat
  fallbackGlide : Option Glide
  persistence : Nat
  persistenceBin : Nat
  quiet : Nat
  buffer : List Int
  deriving DecidableEq, Repr

/-- The held coefficient words of a notch filter (06 R121). -/
structure FilterWords where
  g0 : Int
  g1 : Int
  g2 : Int
  h1 : Int
  h2 : Int
  deriving DecidableEq, Repr

/-- A notch filter (06 R121). `engaged` says that it is on its microphone. -/
structure Filter where
  engaged : Bool
  mic : Nat
  bin : Nat
  depth : Nat
  glide : Option Glide
  words : FilterWords
  u1 : Int
  u2 : Int
  v1 : Int
  v2 : Int
  deriving DecidableEq, Repr

/-- The kinds of a notch pool entry (06 R130). -/
inductive NotchKind where
  | free | floating | fixed
  deriving DecidableEq, Repr

/-- A notch pool entry with its filter (06 R121, R130). -/
structure Notch where
  kind : NotchKind
  mic : Nat
  bin : Nat
  depth : Nat
  hold : Nat
  stamp : Word32
  filter : Filter
  deriving DecidableEq, Repr

/-- The guard settings (06 R123). -/
structure GuardSettings where
  enable : Bool
  threshold : Int
  floor : Int
  persistence : Nat
  hold : Nat
  recovery : Nat
  order : Nat
  deriving DecidableEq, Repr

/-- An analysis between its stages (06 R126): the candidate bin of each microphone, the microphones with a confirmation
or a fallback step, whether any ring was confirmed, and the back-off at its start. -/
structure Progress where
  candidates : List (Option Nat)
  touched : List Nat
  confirmed : Bool
  betaStart : Nat
  deriving DecidableEq, Repr

/-- The ring guard (06 R123, R125, R130, R137). -/
structure Guard where
  settings : GuardSettings
  analyses : Word32
  beta : Nat
  deviceQuiet : Nat
  pool : List Notch
  progress : Option Progress
  deriving DecidableEq, Repr

/-! ### Lanes, clock, mode, lock, meters -/

/-- How a receiver stands in the bit stream (07 R145): hunting, with the number of bits seen (up to 24) and the last of
them as a number; or framed, with the number of bits of the lane frame received and these bits as a number. -/
inductive Framing where
  | hunting (seen bits : Nat)
  | framed (count bits : Nat)
  deriving DecidableEq, Repr

/-- A lane frame in a store (07 R146). -/
structure LaneFrame where
  good : Bool
  samples : List Int
  deriving DecidableEq, Repr

/-- An input lane (07 R145 to R148). -/
structure InputLane where
  locked : Bool
  count : Nat
  framing : Framing
  store : List LaneFrame
  lastGood : Option (List Int)
  lost : Bool
  deriving DecidableEq, Repr

/-- The output side (07 R149): the samples formed in the last sample period, and those the frames of the present sample
period carry. -/
structure OutputLanes where
  formed : List Int
  sent : List Int
  deriving DecidableEq, Repr

/-- The clock states (07 R152). -/
inductive ClockState where
  | internal | following | holdover | held | resync
  deriving DecidableEq, Repr

/-- The destinations of a resynchronization (07 R155). -/
inductive Destination where
  | wordClock | crystal
  deriving DecidableEq, Repr

/-- The clock (07 R151, R152, R155, R156). `turnUp` says that an up ramp starts at the next frame boundary (R156);
`newSource` and `newResync` are RUNCTL's requests not yet taken. -/
structure Clock where
  external : Bool
  state : ClockState
  destination : Option Destination
  factor : Nat
  ramp : Option Glide
  turnUp : Bool
  present : Bool
  good : Nat
  newSource : Option Bool
  newResync : Bool
  deriving DecidableEq, Repr

/-- The engine modes (07 R159). -/
inductive EngineMode where
  | stopped | active | dry
  deriving DecidableEq, Repr

/-- Mode control (07 R159). `rampStops` says that the ramp's target was set by a STOPPED request (R162); `request` is
RUNCTL's request not yet taken. -/
structure ModeControl where
  mode : EngineMode
  factor : Nat
  ramp : Option Glide
  rampStops : Bool
  halted : Bool
  request : Option EngineMode
  deriving DecidableEq, Repr

/-- The show lock (08 R164). `lockout` is 0 while the timer is stopped. -/
structure ShowLock where
  key : Option (List Byte)
  locked : Bool
  failures : Nat
  lockout : Nat
  deriving DecidableEq, Repr

/-- The collections of the meters (09 R177). -/
structure Meters where
  micPeaks : List Nat
  micSquares : List Nat
  speakerPeaks : List Nat
  periods : Nat
  deriving DecidableEq, Repr

/-! ### The state -/

/-- The state of the part and its queue of commands. `changed` has the bit `a` set when the page field or mirror entry at the
address `a` has changed, or is to be written unchanged, since the engine last wrote the page and the mirrors (01 R5, 07 R159, 09
R176, R180; log 10). -/
structure State where
  ram : List Host.Cell
  runctl : Runctl
  cues : CueUnit
  slots : List Slot
  loader : Option LoadRecord
  coef : Coefficients
  engines : List Engine
  net : Network
  trans : Option Transition
  tails : List Tail
  mics : List Mic
  guard : Guard
  lanes : List InputLane
  outputs : OutputLanes
  clock : Clock
  mode : ModeControl
  lock : ShowLock
  att : Attention
  meters : Meters
  frame : Word32
  framePos : Nat
  resetHeld : Bool
  todo : List Work
  shown : List (Nat × List Byte)
  changed : Nat
  pending : List Instr
  deriving DecidableEq, Repr

/-! ### The state after power-on reset -/

/-- The index of a source in the attention word (09 section 9.1). -/
def Source.index : Source → Nat
  | .cueAnswered => 0 | .cueGap => 1 | .loadEnded => 2 | .changeoverEnded => 3 | .ringConfirmed => 4
  | .notchDisplaced => 5 | .fallbackApplied => 6 | .poolFull => 7 | .laneDown => 8 | .outputClip => 9
  | .clockHoldover => 10 | .arithClamp => 11 | .unlockRefused => 12 | .backOffActive => 13

/-- The level (0 URGENT, 1 GUARD, 2 SCENE, 3 INFO) and whether a source is a condition source, by source number
(09 section 9.1). -/
def sourceTable : List (Nat × Bool) :=
  [(3, false), (3, false), (2, false), (2, false), (1, false), (1, false), (1, false), (1, true), (0, true),
   (0, false), (0, true), (2, false), (3, false), (1, true)]

/-- A notice record after either reset (09 R170). -/
def Notice.reset : Notice := ⟨false, 0, 0, 0⟩
/-- No flag set (02 R19). -/
def StatusFlags.clear : StatusFlags := ⟨false, false, false, false⟩
/-- A slot after either reset (02 R19, R36); the image store has no reset value (log 6). -/
def Slot.reset : Slot := ⟨.vacant, [], .clear, none⟩
/-- The cue unit after power-on reset (01 R7, R8, R11); also after an engine reset, which lets every slot go (R18). -/
def CueUnit.reset : CueUnit := ⟨1, 0, List.replicate Config.cueSlots none, false⟩
/-- The coefficient unit after either reset (04 R69). -/
def Coefficients.reset : Coefficients := ⟨0, 0, Config.unityGain, none, [], none⟩
/-- An engine as either reset and the end of a scrub leave it (03 R43, R53, R54); the fields a claim sets read 0 until
then (log 6). -/
def Engine.free : Engine :=
  { state := .free, owner := none, line := none, region := [], writePos := 0, loopLength := 0, depth := 0, rate := 0
    sweep := 0, up := true, words := ⟨0, 0, 0⟩, low := 0, high := 0, scrub := none, glides := ⟨none, none, none⟩ }
/-- The network after either reset (03 R47, R48, R54, R68). -/
def Network.reset : Network :=
  ⟨List.replicate Config.sceneSlots none, [], List.replicate Config.speakers 0⟩
/-- A microphone after either reset (06 R117, R122, R128, R136, R143); the analysis buffer is empty (log 23). -/
def Mic.reset : Mic :=
  { present := false, guarded := false, group := .hall, trim := 0, trimWord := Config.unityGain, trimGlide := none
    phi := 0, fallbackWord := Config.unityGain, fallbackGlide := none, persistence := 0, persistenceBin := 0
    quiet := 0, buffer := [] }
/-- A filter on no microphone (06 R121, log 6). -/
def Filter.off : Filter := ⟨false, 0, 0, 0, none, ⟨0, 0, 0, 0, 0⟩, 0, 0, 0, 0⟩
/-- A FREE pool entry after either reset (06 R130, log 6). -/
def Notch.reset : Notch := ⟨.free, 0, 0, 0, 0, 0, .off⟩
/-- The guard settings after either reset (06 R123). -/
def GuardSettings.reset : GuardSettings := ⟨false, 1200, -4800, 4, 470, 235, 0⟩
/-- The ring guard after either reset (06 R123, R125, R130, R137, R143). -/
def Guard.reset : Guard := ⟨.reset, 0, 0, 0, List.replicate Config.poolSize .reset, none⟩
/-- An input lane after power-on reset (07 R145). -/
def InputLane.reset : InputLane := ⟨false, 0, .hunting 0 0, [], none, false⟩
/-- The output samples before the first sample period (log 6). -/
def OutputLanes.reset : OutputLanes := ⟨List.replicate Config.speakers 0, List.replicate Config.speakers 0⟩
/-- The clock after power-on reset (07 R151, R152, R155). -/
def Clock.reset : Clock := ⟨false, .internal, none, Config.fullLevel, none, false, false, 0, none, false⟩
/-- Mode control after either reset (07 R159). -/
def ModeControl.reset : ModeControl := ⟨.stopped, 0, none, false, true, none⟩
/-- The show lock after either reset (08 R164). -/
def ShowLock.reset : ShowLock := ⟨none, false, 0, 0⟩
/-- The attention block after power-on reset (01 R4, 09 R170); interrupt messages disabled (PRESUMED, log 21). -/
def Attention.reset : Attention := ⟨List.replicate 14 .reset, 0, false, 0⟩
/-- The empty collections (09 R177). -/
def Meters.reset : Meters :=
  ⟨List.replicate Config.microphones 0, List.replicate Config.microphones 0, List.replicate Config.speakers 0, 0⟩

/-- The engine page and mirror entries as the end of power-on reset writes them, in the order of `view`
(Machine/Publish.lean): all zero but E = 1 and the owner bytes of the line engine table (01 R5, 09 R176, R180). -/
def resetShown : List (Nat × List Byte) :=
  [(0x000, [1, 0]), (0x002, [0]), (0x004, [0, 0]), (0x006, [0]), (0x007, [0])]
  ++ (List.range Config.inputLanes).map (fun i => (0x008 + i, [0]))
  ++ [(0x00E, [0]), (0x00F, [0]), (0x010, [0]), (0x012, [0, 0]), (0x014, [0, 0, 0, 0])]
  ++ (List.range 14).flatMap (fun s =>
      [(0x100 + 16 * s, [0]), (0x101 + 16 * s, [0]), (0x104 + 16 * s, [0, 0, 0, 0]), (0x108 + 16 * s, [0, 0, 0, 0])])
  ++ (List.range Config.sceneSlots).map (fun k => (0x02000 + 8 * k, List.replicate 8 0))
  ++ (List.range Config.lineEngines).map (fun e => (0x02040 + 2 * e, [0, 255]))
  ++ [(0x02080, List.replicate 32 0)]
  ++ (List.range Config.poolSize).map (fun n => (0x020A0 + 16 * n, List.replicate 16 0))
  ++ (List.range Config.microphones).map (fun m => (0x021A0 + 8 * m, List.replicate 8 0))
  ++ [(0x02320, List.replicate 6 0)]

/-- The bytes of common memory that are not 0 after power-on reset: R5 sets every byte to 0, and the release of the pin
writes E, the level and kind bytes of the notice records (09 R176) and the owner bytes of the line engine table
(09 R180). -/
def resetCells : List Host.Cell :=
  [(0, 1)]
  ++ ((sourceTable.zipIdx).flatMap (fun (t, s) =>
      [(0x102 + 16 * s, BitVec.ofNat 8 t.1), (0x103 + 16 * s, if t.2 then (1 : Byte) else 0)])).filter (fun c => c.2 != 0)
  ++ (List.range Config.lineEngines).map (fun e => (0x02041 + 2 * e, (255 : Byte)))

/-- The machine right after power-on reset, the pin released (01 R3 to R8, 09 R170, R176, R180 and the rules above). -/
def State.reset : State :=
  { ram := resetCells
    runctl := ⟨0, false⟩
    cues := .reset
    slots := List.replicate Config.sceneSlots .reset
    loader := none
    coef := .reset
    engines := List.replicate Config.lineEngines .free
    net := .reset
    trans := none
    tails := []
    mics := List.replicate Config.microphones .reset
    guard := .reset
    lanes := List.replicate Config.inputLanes .reset
    outputs := .reset
    clock := .reset
    mode := .reset
    lock := .reset
    att := .reset
    meters := .reset
    frame := 0
    framePos := 0
    resetHeld := false
    todo := []
    shown := resetShown
    changed := 0
    pending := [] }

end Sys2Proof.Machine
end

