-- ==== Sys2Proof/Machine/Numeric.lean ====
section
/-! DEFINITION. The exact arithmetic behind gain words, decay words, levels, spectra and filter coefficients.

A word that a rule gives as the rounding of ONE power of ten is found by comparing whole numbers (R73, R74). A word that a
rule gives as the rounding of a sum, a logarithm or a trigonometric expression is found from intervals with whole-number
ends that enclose the exact real value, at a precision that is doubled until both ends round to the same word (log 15). -/

namespace Sys2Proof.Machine

/-- The greatest number below `acc + 2 ^ bits` and not below `acc` that passes `ok`, for an `ok` that holds below some
bound and fails from it on. -/
def bitSearch (ok : Nat → Bool) : Nat → Nat → Nat
  | 0, acc => acc
  | b + 1, acc => bitSearch ok b (if ok (acc + 2 ^ b) then acc + 2 ^ b else acc)

/-! ### Words of one power of ten -/

/-- A cdB is a 2000th of a decade of amplitude: the powers of ten of the rules are 2000th roots (00 Conventions). -/
def rootOrder : Nat := 2000

/-- floor(65536 × 10^(-a/2000)): the greatest g with g^2000 × 10^a ≤ 65536^2000. -/
def decayFloor (a : Nat) : Nat := bitSearch (fun g => g ^ rootOrder * 10 ^ a ≤ 65536 ^ rootOrder) 17 0

/-- 65536 × 10^(-a/2000) to the nearest whole number, a value exactly halfway to the even neighbour (04 R73). -/
def decayNearest (a : Nat) : Nat :=
  let g := decayFloor a
  let twice := (2 * g + 1) ^ rootOrder * 10 ^ a
  let full := 131072 ^ rootOrder
  if twice < full then g + 1 else if twice = full && g % 2 = 1 then g + 1 else g

/-- The decay word of an attenuation of `a` cdB under a quantization mode (04 R73). -/
def decayWord (q : Quantization) (a : Nat) : Nat :=
  min 65535 (match q with
    | .nearest => decayNearest a
    | .down => decayFloor a)

/-- round-half-up(8192 × 10^(c/2000)): the greatest g with 2g - 1 ≤ 16384 × 10^(c/2000) (04 R74; 06 R117, R122). -/
def gainWord (c : Int) : Nat :=
  let up := 10 ^ c.toNat
  let down := 10 ^ (-c).toNat
  bitSearch (fun g => (2 * g - 1) ^ rootOrder * down ≤ 16384 ^ rootOrder * up) 18 0

/-- The gain word of a gain that may be off (04 R74). -/
def gainWordOf : Option Int → Nat
  | none => 0
  | some c => gainWord c

/-! ### Intervals

`⟨lo, hi⟩` at precision `p` encloses the real numbers from lo / 2^p to hi / 2^p. Every operation rounds its ends outward. -/

/-- An interval of reals with whole-number ends. -/
structure Ival where
  lo : Int
  hi : Int
  deriving DecidableEq, Repr

/-- Division of whole numbers toward plus infinity. -/
def ceilDiv (a b : Int) : Int := -((-a) / b)

def Ival.ofInt (p : Nat) (v : Int) : Ival := ⟨v * 2 ^ p, v * 2 ^ p⟩
def Ival.add (a b : Ival) : Ival := ⟨a.lo + b.lo, a.hi + b.hi⟩
def Ival.neg (a : Ival) : Ival := ⟨-a.hi, -a.lo⟩
def Ival.sub (a b : Ival) : Ival := a.add b.neg
def Ival.scale (a : Ival) (v : Int) : Ival := if 0 ≤ v then ⟨a.lo * v, a.hi * v⟩ else ⟨a.hi * v, a.lo * v⟩
def Ival.divNat (a : Ival) (n : Nat) : Ival := ⟨a.lo / n, ceilDiv a.hi n⟩
/-- One unit of the precision more on either side: the room for the rest of a series. -/
def Ival.widen (a : Ival) : Ival := ⟨a.lo - 1, a.hi + 1⟩
def Ival.mul (p : Nat) (a b : Ival) : Ival :=
  let x := a.lo * b.lo
  let y := a.lo * b.hi
  let z := a.hi * b.lo
  let w := a.hi * b.hi
  ⟨(min (min x y) (min z w)) / 2 ^ p, ceilDiv (max (max x y) (max z w)) (2 ^ p)⟩
/-- The quotient by an interval of positive numbers. -/
def Ival.div (p : Nat) (a b : Ival) : Ival :=
  let n := a.lo * 2 ^ p
  let m := a.hi * 2 ^ p
  ⟨min (n / b.lo) (n / b.hi), max (ceilDiv m b.lo) (ceilDiv m b.hi)⟩

/-- A power, by repeated squaring; `fuel` bounds the exponent's bits. -/
def Ival.pow (p : Nat) (t : Ival) : (fuel n : Nat) → Ival
  | 0, _ => .ofInt p 1
  | f + 1, n =>
    let h := Ival.pow p t f (n / 2)
    let s := h.mul p h
    if n % 2 = 1 then s.mul p t else s

/-- The whole part of the k-th root, for a root below 2 ^ bits. -/
def rootFloor (k n bits : Nat) : Nat := bitSearch (fun x => x ^ k ≤ n) bits 0

/-- The k-th root of an interval of numbers from 0 to below 32. -/
def Ival.root (p k : Nat) (a : Ival) : Ival :=
  ⟨rootFloor k (a.lo.toNat * 2 ^ (p * (k - 1))) (p + 6), rootFloor k (a.hi.toNat * 2 ^ (p * (k - 1))) (p + 6) + 1⟩

/-- 10^(1/2000): four square roots and three fifth roots of 10. -/
def tenRoot (p : Nat) : Ival :=
  let a := ((((Ival.ofInt p 10).root p 2).root p 2).root p 2).root p 2
  ((a.root p 5).root p 5).root p 5

/-- 10^(e/2000), from `t` enclosing 10^(1/2000). -/
def tenPow (p : Nat) (t : Ival) (e : Int) : Ival :=
  let r := t.pow p 11 (e % 2000).toNat
  let q := e / 2000
  if 0 ≤ q then r.scale (10 ^ q.toNat) else r.divNat (10 ^ (-q).toNat)

/-! ### Logarithms rounded to a whole cdB -/

/-- The threshold 10^((2n-1)/2000) from which on 1000 × log10 rounds to `n` or more, `n` counted from -16384. -/
def levelThreshold (p : Nat) (t : Ival) (n : Nat) : Ival := tenPow p t (2 * ((n : Int) - 16384) - 1)

/-- The levels that both ends of an interval round to; `t` encloses 10^(1/2000). -/
def levelEnds (p : Nat) (t x : Ival) : Int × Int :=
  ((bitSearch (fun n => (levelThreshold p t n).hi ≤ x.lo) 15 0 : Int) - 16384,
   (bitSearch (fun n => (levelThreshold p t n).lo ≤ x.hi) 15 0 : Int) - 16384)

/-- 1000 × log10 of a real enclosed by `enc p` at every precision `p`, rounded half up to a whole number and limited below
at -16384 (06 R127, 09 R178). No such value lies exactly halfway: 10^(odd/2000) is no sum of powers 10^(even/2000), no
rational and no cyclotomic number (log 15). -/
def roundLevel (enc : Nat → Ival) : (fuel p : Nat) → Int
  | 0, p => (levelEnds p (tenRoot p) (enc p)).1
  | f + 1, p =>
    let e := levelEnds p (tenRoot p) (enc p)
    if e.1 = e.2 then e.1 else roundLevel enc f (2 * p)

/-- `roundLevel` from 64 bits on, doubled up to 24 times. -/
def levelOf (enc : Nat → Ival) : Int := roundLevel enc 24 64

/-- The fraction `n / d` enclosed. -/
def ratio (n d : Nat) (p : Nat) : Ival := ⟨(n * 2 ^ p : Int) / d, ceilDiv (n * 2 ^ p) d⟩

/-- The sum of 10^(c/1000) over a list, divided by `d`. -/
def powerMean (cs : List Int) (d p : Nat) : Ival :=
  let t := tenRoot p
  (cs.foldl (fun (acc : Ival) c => acc.add (tenPow p t (2 * c))) ⟨0, 0⟩).divNat d

/-- round-half-away(1000 × log10(P)), P the sum of 10^(c/1000) over the gains; 0 for no gain (04 R75). The greatest gain is
taken out of the sum: it adds itself to the logarithm. A value never lies exactly halfway, so half away and half up agree
(log 15). -/
def normalization (cs : List Int) : Int :=
  let m := cs.foldl max (cs.headD 0)
  if cs.isEmpty then 0 else m + levelOf (powerMean (cs.map (· - m)) 1)

/-- 2000 × log10(peak / 8388608), rounded half up and limited below at -14400 (09 R178, R179). -/
def peakLevel (peak : Nat) : Int :=
  if peak = 0 then Config.levelFloor else max Config.levelFloor (levelOf (ratio (peak ^ 2) (Config.fullScale ^ 2)))

/-- 1000 × log10(S / (k × 8388608²)), rounded half up and limited below at -14400 (09 R178). -/
def rmsLevel (squares periods : Nat) : Int :=
  if squares = 0 then Config.levelFloor
  else max Config.levelFloor (levelOf (ratio squares (periods * Config.fullScale ^ 2)))

/-! ### π, ln 2 and the trigonometric series -/

/-- Σ over k of (±1)^k / ((2k+1) q^(2k+1)), q at least 3: the arc tangent of 1/q with alternating signs, its hyperbolic
form without. -/
def inverseSeries (p : Nat) (alternate : Bool) (q : Nat) : (fuel k qpow : Nat) → Ival → Ival
  | 0, _, _, acc => acc.widen
  | f + 1, k, qpow, acc =>
    let t : Int := 2 ^ p / ((2 * k + 1) * qpow)
    let term : Ival := ⟨t, t + 1⟩
    inverseSeries p alternate q f (k + 1) (qpow * q * q)
      (acc.add (if alternate && k % 2 = 1 then term.neg else term))

/-- π = 16 atan(1/5) - 4 atan(1/239). -/
def piIval (p : Nat) : Ival :=
  ((inverseSeries p true 5 p 0 5 ⟨0, 0⟩).scale 16).sub ((inverseSeries p true 239 p 0 239 ⟨0, 0⟩).scale 4)

/-- ln 2 = 2 artanh(1/3). -/
def ln2Ival (p : Nat) : Ival := (inverseSeries p false 3 p 0 3 ⟨0, 0⟩).scale 2

/-- The power series Σ ± x^n / n! in steps of two from the term `term` = x^n / n! on; the omitted rest is below one unit
for |x| ≤ 4. -/
def factorialSeries (p : Nat) (alternate : Bool) (square : Ival) : (fuel n : Nat) → (term acc : Ival) → Ival
  | 0, _, _, acc => acc.widen
  | f + 1, n, term, acc =>
    let next := (term.mul p square).divNat ((n + 1) * (n + 2))
    let next := if alternate then next.neg else next
    factorialSeries p alternate square f (n + 2) next (acc.add next)

def sinIval (p : Nat) (x : Ival) : Ival := factorialSeries p true (x.mul p x) (p / 2 + 16) 1 x x
def cosIval (p : Nat) (x : Ival) : Ival :=
  factorialSeries p true (x.mul p x) (p / 2 + 16) 0 (.ofInt p 1) (.ofInt p 1)
def sinhIval (p : Nat) (x : Ival) : Ival := factorialSeries p false (x.mul p x) (p / 2 + 16) 1 x x

/-! ### Notch filter coefficients (06 R121) -/

/-- The five real coefficients of a notch at bin `bin` with depth `d` cdB, enclosed at precision `p`. -/
def notchReals (bin d p : Nat) : Ival × Ival × Ival × Ival × Ival :=
  let one := Ival.ofInt p 1
  let w := ((piIval p).scale (2 * bin)).divNat 1024
  let s := sinIval p w
  let c := cosIval p w
  let y := ((ln2Ival p).divNat 20).mul p (w.div p s)
  let alpha := s.mul p (sinhIval p y)
  -- r = 10^(-d/4000)
  let r := (tenPow p (tenRoot p) (-(d : Int))).root p 2
  let ar := alpha.mul p r
  let aOverR := alpha.div p r
  let n0 := one.add aOverR
  let m := (c.scale (-2)).div p n0
  ((one.add ar).div p n0, m, (one.sub ar).div p n0, m, (one.sub aOverR).div p n0)

/-- The whole number nearest to v / 2^q, a value exactly halfway going to the even neighbour. -/
def roundEven (v : Int) (q : Nat) : Int :=
  let f := v / 2 ^ q
  let rest := 2 * (v - f * 2 ^ q)
  if rest < 2 ^ q then f else if 2 ^ q < rest then f + 1 else if f % 2 = 0 then f else f + 1

/-- The words both ends of an interval round to, as multiples of 2^-30. -/
def wordEnds (p : Nat) (x : Ival) : Int × Int := (roundEven x.lo (p - 30), roundEven x.hi (p - 30))

/-- The held coefficient words, at the first precision that decides all five (06 R121, log 15). -/
def notchWordsFrom (bin d : Nat) : (fuel p : Nat) → FilterWords
  | fuel, p =>
    let (a, b, c, e, f) := notchReals bin d p
    let (a, b, c, e, f) := (wordEnds p a, wordEnds p b, wordEnds p c, wordEnds p e, wordEnds p f)
    match fuel with
    | 0 => ⟨a.1, b.1, c.1, e.1, f.1⟩
    | n + 1 =>
      if a.1 = a.2 && b.1 = b.2 && c.1 = c.2 && e.1 = e.2 && f.1 = f.2 then ⟨a.1, b.1, c.1, e.1, f.1⟩
      else notchWordsFrom bin d n (2 * p)

/-- The held coefficient words of a notch filter at a bin and a current depth (06 R121). -/
def notchWords (bin d : Nat) : FilterWords := notchWordsFrom bin d 8 96

/-! ### Spectrum (06 R127) -/

/-- A complex number enclosed. -/
structure Cval where
  re : Ival
  im : Ival
  deriving DecidableEq, Repr

def Cval.add (a b : Cval) : Cval := ⟨a.re.add b.re, a.im.add b.im⟩
def Cval.sub (a b : Cval) : Cval := ⟨a.re.sub b.re, a.im.sub b.im⟩
def Cval.mul (p : Nat) (a b : Cval) : Cval :=
  ⟨(a.re.mul p b.re).sub (a.im.mul p b.im), (a.re.mul p b.im).add (a.im.mul p b.re)⟩

/-- Every other entry of a list, from the first on. -/
def evens {α : Type} : List α → List α
  | [] => []
  | [a] => [a]
  | a :: _ :: rest => a :: evens rest

/-- The powers 1, z, z², … of z, `n` of them. -/
def powers (p : Nat) (z : Cval) : (n : Nat) → Cval → List Cval
  | 0, _ => []
  | n + 1, w => w :: powers p z n (w.mul p z)

/-- The discrete Fourier sums Σ x_i z^(k i) of 2^n values, for k from 0 to 2^n - 1, from the powers of the root of unity
z, by halves: the values of even and of odd index. -/
def fourier (p : Nat) : (n : Nat) → (roots xs : List Cval) → List Cval
  | 0, _, xs => xs
  | n + 1, roots, xs =>
    let e := fourier p n (evens roots) (evens xs)
    let o := fourier p n (evens roots) (evens xs.tail)
    let t := List.zipWith (Cval.mul p) roots o
    List.zipWith Cval.add e t ++ List.zipWith Cval.sub e t

/-- exp(-2πi k / 1024) for k from 0 to 511. -/
def unitRoots (p : Nat) : List Cval :=
  let w := (piIval p).divNat 512
  powers p ⟨cosIval p w, (sinIval p w).neg⟩ 512 ⟨.ofInt p 1, .ofInt p 0⟩

/-- The windowed samples w_i x_i, w_i = 0.5 - 0.5 cos(2π i / 1024), oldest first (06 R127). -/
def windowed (p : Nat) (roots : List Cval) (xs : List Int) : List Cval :=
  let cosines := roots.map (·.re) ++ roots.map (·.re.neg)
  List.zipWith (fun c x => ⟨(((Ival.ofInt p 1).sub c).scale x).divNat 2, .ofInt p 0⟩) cosines xs

/-- (C_k² + S_k²) / 2^62 of bins 2 to 426, enclosed, from 1024 samples, oldest first (06 R127). -/
def binPowers (xs : List Int) (p : Nat) : List Ival :=
  let roots := unitRoots p
  let bins := fourier p 10 roots (windowed p roots xs)
  ((bins.drop 2).take 425).map fun z => ((z.re.mul p z.re).add (z.im.mul p z.im)).divNat (2 ^ 62)

/-- The levels that both ends of an interval round to, limited below at -14400; `floor` encloses the threshold of -14399, below
which the limit acts, and `t` encloses 10^(1/2000). -/
def binEnds (p : Nat) (t floor x : Ival) : Int × Int :=
  if x.hi < floor.lo then (Config.levelFloor, Config.levelFloor)
  else
    let e := levelEnds p t x
    (max Config.levelFloor e.1, max Config.levelFloor e.2)

/-- The levels of bins 2 to 426, rounded half up and limited below at -14400, refined until every bin is decided
(06 R127). -/
def spectrumFrom (xs : List Int) : (fuel p : Nat) → List Int
  | fuel, p =>
    let t := tenRoot p
    let ends := (binPowers xs p).map (binEnds p t (levelThreshold p t (16384 - 14399)))
    match fuel with
    | 0 => ends.map (·.1)
    | n + 1 => if ends.all fun e => e.1 = e.2 then ends.map (·.1) else spectrumFrom xs n (2 * p)

/-- The 425 bin levels of 1024 samples (06 R127). Silence has no energy in any bin. -/
def spectrum (xs : List Int) : List Int :=
  if xs.all (· = 0) then List.replicate 425 Config.levelFloor else spectrumFrom xs 20 128

/-- The first bin, counted from `bin`, with the highest level, and that level (06 R127 step 2). -/
def peakBin : (levels : List Int) → (bin best : Nat) → (level : Int) → Nat × Int
  | [], _, best, level => (best, level)
  | l :: rest, bin, best, level => if level < l then peakBin rest (bin + 1) bin l else peakBin rest (bin + 1) best level

/-- The power mean of the bins' levels in cdB, rounded half up (06 R127 step 3). -/
def meanLevel (levels : List Int) : Int := levelOf (powerMean levels 425)

/-- The candidate bin of 1024 samples under a threshold and a floor, if any (06 R127 steps 1 to 5). -/
def candidateBin (threshold floor : Int) (xs : List Int) : Option Nat :=
  let levels := spectrum xs
  let (bin, level) := peakBin levels 2 2 (Config.levelFloor - 1)
  if threshold ≤ level - meanLevel levels && floor ≤ level then some bin else none

end Sys2Proof.Machine
end

