-- ==== Sys2Proof/Machine/Flags.lean ====
section
/-! DEFINITION. The flags the part shows: a slot's status flags as a byte, the attention word, the attention output and
its messages, and the rules by which a notice record moves. -/

namespace Sys2Proof.Machine

/-- A flag as a bit. -/
def bit (b : Bool) : Nat := if b then 1 else 0

/-! ### Arithmetic status flags (04 R77) -/

/-- The status flags as the byte of the scene slot table (01 Formats, Mirrors). -/
def StatusFlags.byte (f : StatusFlags) : Nat :=
  bit f.floor + 2 * bit f.ceil + 4 * bit f.tclamp + 8 * bit f.gclamp

/-- The flags of either: a flag already set stays set (04 R77). -/
def StatusFlags.add (f g : StatusFlags) : StatusFlags :=
  ⟨f.floor || g.floor, f.ceil || g.ceil, f.tclamp || g.tclamp, f.gclamp || g.gclamp⟩

/-- The flags of `g` that were clear in `f` (04 R77). -/
def StatusFlags.newly (f g : StatusFlags) : StatusFlags :=
  ⟨!f.floor && g.floor, !f.ceil && g.ceil, !f.tclamp && g.tclamp, !f.gclamp && g.gclamp⟩

/-! ### Notice records (09 R170 to R173) -/

/-- An occurrence of an event source, and the start of a condition (09 R171, R173): the count stays at 255. -/
def Notice.occur (detail frame : Word32) (n : Notice) : Notice :=
  ⟨true, min 255 (n.count + 1), detail, frame⟩

/-- An occurrence of OUTPUT CLIP: one that finds the source pending keeps detail and frame counter (09 R171). -/
def Notice.occurKeeping (detail frame : Word32) (n : Notice) : Notice :=
  if n.pending then { n with count := min 255 (n.count + 1) } else n.occur detail frame

/-- A host clear of an event source (09 R172). -/
def Notice.clear (n : Notice) : Notice := { n with pending := false, count := 0 }

/-- The end of a condition (09 R173). -/
def Notice.finish (n : Notice) : Notice := { n with pending := false }

/-! ### Attention word and output (01 R4, 09 R174, R175) -/

/-- The notice record of a source number. -/
def Attention.notice (a : Attention) (i : Nat) : Notice := a.notices.getD i .reset

/-- A level is pending while one of its sources is, masked or not (09 R174). -/
def Attention.levelPending (a : Attention) (level : Nat) : Bool :=
  (List.range 14).any fun i => ((sourceTable.getD i (4, false)).1 == level) && (a.notice i).pending

/-- The attention output: a pending level is enabled in ATTNMASK (09 R175). -/
def Attention.asserted (a : Attention) : Bool :=
  (List.range 4).any fun level => a.mask.getLsbD level && a.levelPending level

/-- The output follows a change as it arrives: from deasserted to asserted sends one message when messages are enabled
(09 R175). -/
def Attention.follow (before after : Attention) : Attention :=
  if !before.asserted && after.asserted && after.messagesEnabled then { after with messages := after.messages + 1 }
  else after

/-- A change of one notice record, with the output following it. -/
def Attention.change (a : Attention) (i : Nat) (f : Notice → Notice) : Attention :=
  a.follow { a with notices := a.notices.modify i f }

/-- The number of the lowest-numbered pending source, or 31 (01 R4). -/
def Attention.lowest (a : Attention) : Nat :=
  match (List.range 14).find? fun i => (a.notice i).pending with
  | some i => i
  | none => 31

/-- ATTN as it reads (01 R4, 09 R174). -/
def Attention.word (a : Attention) : Word32 :=
  BitVec.ofNat 32
    (((List.range 14).map fun i => bit (a.notice i).pending * 2 ^ i).sum
      + ((List.range 4).map fun l => bit (a.levelPending l) * 2 ^ (16 + l)).sum
      + a.lowest * 2 ^ 24)

/-- A source number that the host may clear (01 R4, 09 section 9.1). -/
def isEventSource (i : Nat) : Bool := match sourceTable[i]? with
  | some t => !t.2
  | none => false

/-- The clears of a write of ATTN (01 R4, 09 R172). -/
def Attention.hostClear (a : Attention) (value : Word32) : Attention :=
  a.follow { a with notices := a.notices.mapIdx fun i n =>
    if value.getLsbD i && isEventSource i then n.clear else n }

end Sys2Proof.Machine
end

