-- ==== Sys2Proof/WellFormed.lean ====
section
/-! DEFINITION. Which commands name things the part has: every index within the numbering of 00_scope's Conventions, every
register write at an offset of the window and every memory write of 8, 16 or 32 bits within common memory (01 R1), a lane frame
of 216 bits (07 R144), an interval that is a number. -/

namespace Sys2Proof

/-- The index a work names is one the part has. -/
def Work.wellFormed : Work → Bool
  | .tail slot => slot < Config.sceneSlots
  | .scrub engine => engine < Config.lineEngines
  | .decayGlide engine _ => engine < Config.lineEngines
  | .hold entry => entry < Config.poolSize
  | .depthGlide entry => entry < Config.poolSize
  | .quiet mic => mic < Config.microphones
  | .trimGlide mic => mic < Config.microphones
  | .fallbackGlide mic => mic < Config.microphones
  | .refuse | .take | .gap | .copy | .compute | .fade | .claim | .lockout | .lanes | .modeRamp | .modeTake
  | .resyncRamp | .clockTake | .analysis | .deviceQuiet | .betaRequest | .meters | .epsGlide | .publish => true

/-- 8, 16 and 32 bits (01 R1). -/
def accessSize (size : Nat) : Bool := size == 1 || size == 2 || size == 4

/-- An access of `size` bytes at `offset` lies wholly in a window of `window` bytes. -/
def inWindow (window offset size : Nat) : Bool := accessSize size && offset + size ≤ window

/-- An interval is a fraction with a denominator. -/
def Interval.wellFormed (i : Interval) : Bool := i.den != 0

/-- A command the part can receive. -/
def Instr.wellFormed : Instr → Bool
  | .registerWrite offset _ _ => offset < Config.registerSize
  | .commonMemoryWrite offset size _ => inWindow Config.commonSize offset size
  | .mark slot | .loadScene slot | .vacateScene slot | .go slot | .trim slot | .clearStatus slot
  | .loadMicTable slot | .setGuard slot | .fixNotch slot | .clearNotch slot | .clearGuard slot
  | .lock slot | .unlock slot | .setKey slot => slot < Config.cueSlots
  | .frameBoundary order _ => order.all Work.wellFormed
  | .holdExpiry slot | .closingEnd slot => slot < Config.sceneSlots
  | .scrubEnd engine | .decayGlideEnd engine _ => engine < Config.lineEngines
  | .trimGlideEnd mic | .fallbackGlideEnd mic | .phiRecovery mic => mic < Config.microphones
  | .notchDepthGlideEnd entry | .notchHoldExpiry entry => entry < Config.poolSize
  | .samplePeriod first => first < Config.speakers
  | .inputLaneFrame lane bits => lane < Config.inputLanes && bits.length == Config.laneFrameBits
  | .wordClockAbsent (.interval i) => i.wellFormed
  | .wordClockPresent intervals => intervals.all Interval.wellFormed
  | .powerOnReset _ | .engineReset _ | .modeRequest _ | .clockSource _ | .resync _ | .attn _ | .attnmask _
  | .cueGap | .copyEnd | .computationComplete | .claim | .changeoverEnd | .outEnd | .epsilonGlideEnd
  | .modeRampEnd | .resyncSwitch | .resyncUpEnd | .lockoutEnd | .analysis _ | .betaRecovery | .meterWrite
  | .wordClockAbsent .silence | .interruptMessageEnable _ => true

end Sys2Proof
end

