-- ==== Sys2Proof/Machine/Ops.lean ====
section
/-! DEFINITION. The named operations over the state that every meaning uses: updates of one field, sparse memories in
canonical form, little-endian fields, notices, answers to cues, register reads, glides and fades, and the works of a
frame boundary. -/

namespace Sys2Proof.Machine

/-- The outcome of a command. -/
abbrev Outcome := Host.Outcome State Fault Refusal

/-! ### What the page and the mirrors show of the blocks (01 R5, 02 R20, 06 R143, 09 R176, R180) -/

/-- The scene's line count: the number of its line records (02 R38). -/
def SceneRecord.lineCount (r : SceneRecord) : Nat := r.lines.length
/-- The line count of a slot's scene. -/
def Slot.lineCount (k : Slot) : Nat := match k.record with
  | some r => r.lineCount
  | none => 0
/-- The largest effective time of a record's computed part (02 R20, 04 R90). -/
def Computed.longest (c : Computed) : Nat := c.times.foldl (fun m t => max m (max t.lf (max t.mf t.hf))) 0
/-- T′ max of a slot. -/
def Slot.longest (k : Slot) : Nat := match k.record.bind (·.computed) with
  | some c => c.longest
  | none => 0
/-- The line count and T′ max that a slot's entry shows: 0 unless a scene can play from the slot (02 R20). -/
def Slot.shownSizes (k : Slot) : Nat × Nat := match k.state with
  | .ready | .live | .outgoing => (k.lineCount, k.longest)
  | .vacant | .loading | .faulted => (0, 0)
/-- What a slot's entry shows (02 R20). -/
def Slot.mirrored (k : Slot) : SlotState × StatusFlags × Nat × Nat := (k.state, k.flags, k.shownSizes)
/-- What the transition record's entry shows: all of it but whether F was clamped (05 R91). -/
def Transition.mirrored (t : Transition) : Transition := { t with clamped := false }
/-- What a line engine's entry shows (03 R43). -/
def Engine.mirrored (e : Engine) : EngineState × Option Nat := (e.state, e.owner)
/-- What a pool entry's mirror shows (06 R143). -/
def Notch.mirrored (n : Notch) : NotchKind × Nat × Nat × Nat × Nat × Word32 :=
  (n.kind, n.mic, n.bin, n.depth, n.hold, n.stamp)
/-- What a microphone's guard entry shows (06 R143). -/
def Mic.mirrored (m : Mic) : Nat × Nat × Nat × Nat := (m.persistence, m.persistenceBin, m.phi, m.quiet)

/-- The address bits of the entries that differ, the first at `a`, one every `stride` bytes. -/
def changedFrom {α : Type} [DecidableEq α] (stride : Nat) : (a : Nat) → (old new : List α) → Nat
  | a, x :: old, y :: new => (if x = y then 0 else 2 ^ a) ||| changedFrom stride (a + stride) old new
  | _, _, _ => 0

/-- The fields of the engine page that two states of the show lock show differently (08 R164). -/
def ShowLock.changes (old new : ShowLock) : Nat :=
  changedFrom 1 0x00E [old.locked, old.key.isSome] [new.locked, new.key.isSome]
    ||| changedFrom 2 0x010 [old.failures, old.lockout] [new.failures, new.lockout]

/-- The fields of the notice records that two states of the attention block show differently (09 R176). -/
def Attention.changes (old new : Attention) : Nat :=
  changedFrom 16 0x100 (old.notices.map (·.pending)) (new.notices.map (·.pending))
    ||| changedFrom 16 0x101 (old.notices.map (·.count)) (new.notices.map (·.count))
    ||| changedFrom 16 0x104 (old.notices.map (·.detail)) (new.notices.map (·.detail))
    ||| changedFrom 16 0x108 (old.notices.map (·.stamp)) (new.notices.map (·.stamp))

/-- The mirror entries that two states of the guard show differently: the pool and beta (06 R143, 09 R177). -/
def Guard.changes (old new : Guard) : Nat :=
  changedFrom 16 0x020A0 (old.pool.map Notch.mirrored) (new.pool.map Notch.mirrored)
    ||| changedFrom 0 0x02320 [old.beta] [new.beta]

/-! ### Updates of one field

An update of a block whose values the page or the mirrors show, and whose values can come back within a frame boundary, notes
what it changes: a field or an entry that changed is written, be its value the one that stands (01 R5, 09 R176, R180;
log 10). -/

def State.setRam (s : State) (v : List Host.Cell) : State := { s with ram := v }
def State.setRunctl (s : State) (v : Runctl) : State := { s with runctl := v }
def State.setCues (s : State) (v : CueUnit) : State := { s with cues := v }
def State.setSlots (s : State) (v : List Slot) : State :=
  { s with slots := v, changed := s.changed ||| changedFrom 8 0x02000 (s.slots.map Slot.mirrored) (v.map Slot.mirrored) }
def State.setLoader (s : State) (v : Option LoadRecord) : State := { s with loader := v }
def State.setCoef (s : State) (v : Coefficients) : State :=
  { s with coef := v, changed := s.changed ||| changedFrom 0 0x02320 [(s.coef.tau, s.coef.epsilon)] [(v.tau, v.epsilon)] }
def State.setEngines (s : State) (v : List Engine) : State :=
  { s with
    engines := v
    changed := s.changed ||| changedFrom 2 0x02040 (s.engines.map Engine.mirrored) (v.map Engine.mirrored) }
def State.setNet (s : State) (v : Network) : State := { s with net := v }
def State.setTrans (s : State) (v : Option Transition) : State :=
  { s with trans := v, changed := s.changed ||| changedFrom 0 0x02080 [s.trans.map Transition.mirrored] [v.map Transition.mirrored] }
def State.setTails (s : State) (v : List Tail) : State := { s with tails := v }
def State.setMics (s : State) (v : List Mic) : State :=
  { s with mics := v, changed := s.changed ||| changedFrom 8 0x021A0 (s.mics.map Mic.mirrored) (v.map Mic.mirrored) }
def State.setGuard (s : State) (v : Guard) : State :=
  { s with guard := v, changed := s.changed ||| s.guard.changes v }
def State.setLanes (s : State) (v : List InputLane) : State := { s with lanes := v }
def State.setOutputs (s : State) (v : OutputLanes) : State := { s with outputs := v }
def State.setClock (s : State) (v : Clock) : State := { s with clock := v }
def State.setMode (s : State) (v : ModeControl) : State := { s with mode := v }
def State.setLock (s : State) (v : ShowLock) : State :=
  { s with lock := v, changed := s.changed ||| s.lock.changes v }
def State.setAtt (s : State) (v : Attention) : State :=
  { s with att := v, changed := s.changed ||| s.att.changes v }
def State.setMeters (s : State) (v : Meters) : State := { s with meters := v }
def State.setFrame (s : State) (v : Word32) : State := { s with frame := v }
def State.setFramePos (s : State) (v : Nat) : State := { s with framePos := v }
def State.setResetHeld (s : State) (v : Bool) : State := { s with resetHeld := v }
def State.setTodo (s : State) (v : List Work) : State := { s with todo := v }
def State.setShown (s : State) (v : List (Nat × List Byte)) : State := { s with shown := v }
def State.setChanged (s : State) (v : Nat) : State := { s with changed := v }
def State.setPending (s : State) (v : List Instr) : State := { s with pending := v }

/-- The page field at the address `a` is to be written at this frame boundary, whether its value changes or not (07 R159). -/
def State.markField (s : State) (a : Nat) : State := s.setChanged (s.changed ||| 2 ^ a)

/-! ### Sparse memories

A memory is the list of its (address, value) pairs, addresses strictly rising and no value equal to what an unlisted
address reads as, so that equal memories are equal lists. Common memory and the delay regions are such lists. -/

/-- The value at an address; `d` is what an unlisted address reads as. -/
def sparseRead {α : Type} (d : α) : List (Nat × α) → Nat → α
  | [], _ => d
  | (k, v) :: rest, a => if a = k then v else if a < k then d else sparseRead d rest a

/-- A write keeps the form: writing `d` removes the entry. -/
def sparseWrite {α : Type} [DecidableEq α] (d : α) : List (Nat × α) → Nat → α → List (Nat × α)
  | [], a, v => if v = d then [] else [(a, v)]
  | (k, w) :: rest, a, v =>
    if a < k then (if v = d then (k, w) :: rest else (a, v) :: (k, w) :: rest)
    else if a = k then (if v = d then rest else (a, v) :: rest)
    else (k, w) :: sparseWrite d rest a v

/-- The addresses from `lo` up to but not including `hi` become unlisted. -/
def sparseClear {α : Type} (lo hi : Nat) (m : List (Nat × α)) : List (Nat × α) :=
  m.filter fun c => c.1 < lo || hi ≤ c.1

/-- The canonical form, for addresses from `lo` on. -/
def sparseWf {α : Type} [DecidableEq α] (d : α) : Nat → List (Nat × α) → Bool
  | _, [] => true
  | lo, (k, v) :: rest => decide (lo ≤ k) && decide (v ≠ d) && sparseWf d (k + 1) rest

/-- Common memory is in canonical form; an unlisted byte reads 0 (01 R5: power-on reset sets every byte to 0; log 7). -/
def Memory.wf (ram : List Host.Cell) : Bool := sparseWf (0 : Byte) 0 ram

/-- A byte of common memory. -/
def readByte (ram : List Host.Cell) (a : Nat) : Byte := sparseRead 0 ram a

/-- `n` bytes of common memory from `a` on. -/
def readBytes (ram : List Host.Cell) (a n : Nat) : List Byte := (List.range n).map fun i => readByte ram (a + i)

/-- Writes bytes from `a` on. -/
def writeBytes : List Host.Cell → Nat → List Byte → List Host.Cell
  | ram, _, [] => ram
  | ram, a, b :: rest => writeBytes (sparseWrite 0 ram a b) (a + 1) rest

/-! ### Little-endian fields (00 Conventions) -/

/-- The `n` little-endian bytes of a number. -/
def leBytes : Nat → Nat → List Byte
  | 0, _ => []
  | n + 1, v => BitVec.ofNat 8 v :: leBytes n (v / 256)

/-- The number little-endian bytes spell. -/
def leNat : List Byte → Nat
  | [] => 0
  | b :: rest => b.toNat + 256 * leNat rest

/-- The unsigned fields of 8, 16 and 32 bits at an offset of a copied slot or image. -/
def u8 (bs : List Byte) (i : Nat) : Nat := (bs.getD i 0).toNat
def u16 (bs : List Byte) (i : Nat) : Nat := u8 bs i + 256 * u8 bs (i + 1)
def u32 (bs : List Byte) (i : Nat) : Nat := u16 bs i + 65536 * u16 bs (i + 2)
/-- The signed 16-bit field at an offset. -/
def s16 (bs : List Byte) (i : Nat) : Int := if u16 bs i < 32768 then u16 bs i else (u16 bs i : Int) - 65536
/-- The 16-bit two's complement of a number. -/
def twos16 (v : Int) : Nat := (v % 65536).toNat

/-- The 16-bit little-endian words of a byte list, summed mod 65536; a last odd byte counts as a word's low byte. -/
def wordSum : List Byte → Word16
  | [] => 0
  | [b] => BitVec.ofNat 16 b.toNat
  | b :: c :: rest => BitVec.ofNat 16 (b.toNat + 256 * c.toNat) + wordSum rest

/-! ### Clamps, saturation, glides and fades -/

/-- A parameter set to the nearest limit of its range, and whether that changed it (01 R16). -/
def clamp (lo hi v : Int) : Int × Bool := if v < lo then (lo, true) else if hi < v then (hi, true) else (v, false)

/-- Saturation to the 32-bit range (00 Conventions, Sample formats). -/
def sat32 (v : Int) : Int := if v < -2147483648 then -2147483648 else if 2147483647 < v then 2147483647 else v

/-- The value of a glide at step `j`: start + trunc((stop - start) × j / length) (04 R84, R87; 06 R119; 07 R160). -/
def Glide.value (g : Glide) (j : Nat) : Int := g.start + ((g.stop - g.start) * j).tdiv g.length

/-- One step of a glide: the value reached, and the glide that remains. -/
def Glide.next (g : Glide) : Int × Option Glide :=
  (g.value (g.step + 1), if g.length ≤ g.step + 1 then none else some { g with step := g.step + 1 })

/-- A glide of `length` steps from its start. -/
def Glide.begin (start stop : Int) (length : Nat) : Glide := ⟨start, stop, length, 0⟩

/-- The rising fade value at position `p` of a fade of `g` frames (05 R103). -/
def rise (p g : Nat) : Nat := (65536 * p + g) / (2 * g)
/-- The falling fade value (05 R103). -/
def fall (p g : Nat) : Nat := 32768 - rise p g
/-- The output fade at closing step `j` from `o0` (05 R111). -/
def closingFade (o0 j : Nat) : Nat := o0 - (2 * o0 * j + 8) / 16

/-! ### Notices -/

/-- An event source's occurrence, handed to the attention block (09 R171). -/
def State.raise (s : State) (source : Source) (detail : Nat) : State :=
  s.setAtt (s.att.change source.index
    (if source = .outputClip then Notice.occurKeeping (BitVec.ofNat 32 detail) s.frame
     else Notice.occur (BitVec.ofNat 32 detail) s.frame))

/-- A condition's start (09 R173). -/
def State.startCondition (s : State) (source : Source) (detail : Nat) : State :=
  s.setAtt (s.att.change source.index (Notice.occur (BitVec.ofNat 32 detail) s.frame))

/-- A condition's end (09 R173). -/
def State.endCondition (s : State) (source : Source) : State :=
  s.setAtt (s.att.change source.index Notice.finish)

/-- Tells the attention block of the start or the end of a condition that holds or not, when that differs from what it
was told last. -/
def State.judge (s : State) (source : Source) (holds : Bool) (detail : Nat) : State :=
  if holds && !(s.att.notice source.index).pending then s.startCondition source detail
  else if !holds && (s.att.notice source.index).pending then s.endCondition source
  else s

/-! ### Scene slots -/

/-- A slot by its number. -/
def State.slot (s : State) (k : Nat) : Slot := s.slots.getD k .reset
/-- A change of one slot. -/
def State.onSlot (s : State) (k : Nat) (f : Slot → Slot) : State := s.setSlots (s.slots.modify k f)
/-- The LIVE slot, if any; at most one is (05 R93). -/
def State.live (s : State) : Option Nat := s.slots.findIdx? fun k => k.state == .live
/-- The LOADING slot, if any; at most one is (02 R22). -/
def State.loading (s : State) : Option Nat := s.slots.findIdx? fun k => k.state == .loading
/-- A change of a slot's scene record. -/
def Slot.onRecord (f : SceneRecord → SceneRecord) (k : Slot) : Slot := { k with record := k.record.map f }

/-! ### Answers to cues (01 R14, R15) -/

/-- The outcomes of a cue (01 R14). -/
inductive Answer where
  | done | check | unknown | stale | badNumber | locked | mode | range | notVacant | notReady | busy | full | image
  | aborted | superseded | key
  deriving DecidableEq, Repr

/-- The outcome codes (01 R14). -/
def Answer.code : Answer → Nat
  | .done => 0x00 | .check => 0x01 | .unknown => 0x02 | .stale => 0x03 | .badNumber => 0x04 | .locked => 0x05
  | .mode => 0x06 | .range => 0x07 | .notVacant => 0x08 | .notReady => 0x09 | .busy => 0x0A | .full => 0x0B
  | .image => 0x0C | .aborted => 0x0D | .superseded => 0x0E | .key => 0x0F

/-- CLAMPED, bit 31 of the answer detail (01 R15). -/
def clampedBit (clamped : Bool) : Nat := bit clamped * 2 ^ 31

/-- The status flags of a slot number; 0 when there is no such slot (01 R15). -/
def State.flagsOf (s : State) (k : Nat) : Nat := if k < Config.sceneSlots then (s.slot k).flags.byte else 0

/-- The flags a cue's answer reports, with REPORT set: of the slot named in the body, of GO's target, of the LIVE slot for
TRIM; 0 when the cue concerns no slot (01 R15). `bs` is the cue as copied, or as the scan reads it. -/
def State.reportedFlags (s : State) (bs : List Byte) : Nat :=
  if (u8 bs 2).testBit 0 then
    if u8 bs 1 = 0x11 || u8 bs 1 = 0x21 || u8 bs 1 = 0x23 then s.flagsOf (u8 bs 12)
    else if u8 bs 1 = 0x22 then match s.live with
      | some k => s.flagsOf k
      | none => 0
    else 0
  else 0

/-- The answer detail: the fields handed with the answer, and the status flags under REPORT unless the outcome is CHECK
or UNKNOWN (01 R15). -/
def State.answerDetail (s : State) (bs : List Byte) (o : Answer) (fields : Nat) : Nat :=
  if o = .check || o = .unknown then fields else fields ||| s.reportedFlags bs

/-- Writes an answer into cue table slot `k`: answer word, detail, state ANSWERED, in that order (01 R14). -/
def answerWrite (ram : List Host.Cell) (k kind : Nat) (o : Answer) (detail : Nat) : List Host.Cell :=
  writeBytes (writeBytes (writeBytes ram (Config.cueSlotBase k + 6) (leBytes 2 (256 * kind + o.code)))
    (Config.cueSlotBase k + 8) (leBytes 4 detail)) (Config.cueSlotBase k) [3]

/-- Answers the cue `bs` of cue table slot `k` with an outcome and the fields of its detail, raises CUE ANSWERED, and lets
go of the slot (01 R12, R14, R15). -/
def State.answer (s : State) (k : Nat) (bs : List Byte) (o : Answer) (fields : Nat) : State :=
  ((s.setRam (answerWrite s.ram k (u8 bs 1) o (s.answerDetail bs o fields))).setCues
    { s.cues with held := s.cues.held.set k none }).raise .cueAnswered
      (k + 256 * o.code + 65536 * u16 bs 4)

/-- Answers the cue held as taken in cue table slot `k`; nothing when none is held (01 R12). -/
def State.answerHeld (s : State) (k : Nat) (o : Answer) (fields : Nat) : State :=
  match s.cues.held.getD k none with
  | some bs => s.answer k bs o fields
  | none => s

/-! ### Works of a frame boundary (log 1) -/

/-- Does the work `w` by `f` if it is still to be done at this frame boundary. -/
def State.onDue (s : State) (w : Work) (f : State → State) : State :=
  if w ∈ s.todo then f (s.setTodo (s.todo.erase w)) else s

/-- Withdraws the work `w` from this frame boundary. -/
def State.dropWork (s : State) (w : Work) : State := s.setTodo (s.todo.filter (· != w))

/-! ### Guards of the meanings -/

/-- While the reset pin is held the part takes no command but the pin's (log 5). -/
def State.released (s : State) (f : State → State) : Outcome := .next (if s.resetHeld then s else f s)

/-- A command that names a unit by its number. -/
def State.forUnit (s : State) (exists_ : Bool) (f : State → State) : Outcome :=
  if exists_ then s.released f else .fault .noSuchUnit

/-! ### Reads (01 R1 to R4) -/

/-- RUNCTL as it reads (01 R3). -/
def Runctl.word (r : Runctl) : Word32 := BitVec.ofNat 32 (r.modeBits.toNat + 16 * bit r.source)

/-- The current value of the register at an aligned offset; the rest of the window reads 0 (01 R1). -/
def State.register (s : State) (offset : Nat) : Word32 :=
  if offset = 0 then Config.ident
  else if offset = 4 then s.runctl.word
  else if offset = 8 then s.att.word
  else if offset = 12 then s.att.mask.setWidth 32
  else 0

/-- A byte of the register window as the host reads it (01 R1). -/
def State.registerByte (s : State) (offset : Nat) : Byte :=
  (s.register (offset - offset % 4) >>> (8 * (offset % 4))).setWidth 8

/-- A host read of `size` bytes of the register window (01 R1). R1 gives reads within one register; of a read that spans two
registers the model gives each byte as its own register has it (DESIGN CHOICE, log 18). -/
def State.readRegister (s : State) (offset size : Nat) : Nat :=
  leNat ((List.range size).map fun i => s.registerByte (offset + i))

/-- A host read of `size` bytes of common memory (01 R1). -/
def State.readCommon (s : State) (offset size : Nat) : Nat := leNat (readBytes s.ram offset size)

end Sys2Proof.Machine
end

