-- ==== Sys2Proof/Machine/Operands.lean ====
section
/-! DEFINITION. Reading operands: the header and body fields of a cue (01 Formats, Cue slot header and Cue bodies), the
judgement of a cue number (01 R8), the check byte (01 R13), the cue kinds, RUNCTL's fields (01 R3), and a lane frame's
bits (07 R144). -/

namespace Sys2Proof.Machine

/-! ### Cue kinds (01 R13) -/

/-- The fourteen cue kinds. -/
inductive CueKind where
  | mark | loadScene | vacateScene | go | trim | clearStatus | loadMicTable | setGuard | fixNotch | clearNotch
  | clearGuard | lock | unlock | setKey
  deriving DecidableEq, Repr

/-- The kind a kind byte names (01 R13). -/
def cueKindOf (code : Nat) : Option CueKind :=
  if code = 0x01 then some .mark else if code = 0x11 then some .loadScene
  else if code = 0x12 then some .vacateScene else if code = 0x21 then some .go
  else if code = 0x22 then some .trim else if code = 0x23 then some .clearStatus
  else if code = 0x31 then some .loadMicTable else if code = 0x32 then some .setGuard
  else if code = 0x33 then some .fixNotch else if code = 0x34 then some .clearNotch
  else if code = 0x35 then some .clearGuard else if code = 0x41 then some .lock
  else if code = 0x42 then some .unlock else if code = 0x43 then some .setKey
  else none

/-- The seven protected kinds (01 R13, 08 R165). -/
def CueKind.isProtected : CueKind → Bool
  | .loadScene | .vacateScene | .loadMicTable | .setGuard | .fixNotch | .clearNotch | .setKey => true
  | .mark | .go | .trim | .clearStatus | .clearGuard | .lock | .unlock => false

/-! ### Cue slots -/

/-- The 128 bytes of a cue table slot as they stand in common memory (01 section 1.3). -/
def cueBytes (ram : List Host.Cell) (k : Nat) : List Byte := readBytes ram (Config.cueSlotBase k) 128

/-- The state byte of a cue table slot (01 R7). -/
def cueState (ram : List Host.Cell) (k : Nat) : Nat := (readByte ram (Config.cueSlotBase k)).toNat

/-- The cue number of a cue table slot (01 Formats). -/
def cueNumber (ram : List Host.Cell) (k : Nat) : Word16 :=
  BitVec.ofNat 16 (leNat (readBytes ram (Config.cueSlotBase k + 4) 2))

/-- The sum of the check byte: bytes 1 to 127, bytes 6 to 11 counted as 0, mod 256 (01 R13 step 1). -/
def checkSum (bs : List Byte) : Nat :=
  (((bs.take 128).mapIdx fun i b => if i = 0 || (6 ≤ i && i ≤ 11) then 0 else b.toNat).sum) % 256

/-- The key of a LOCK, UNLOCK or SET KEY body: 12 bytes at offset 12 (01 Formats). -/
def keyBytes (bs : List Byte) : List Byte := (bs.drop 12).take 12

/-! ### Cue numbers (01 R8) -/

/-- A number is behind E. -/
def isBehind (expected c : Word16) : Bool := c ≠ 0 && 1 ≤ (expected - c).toNat && (expected - c).toNat ≤ 32767

/-- A number is ahead of E: neither a bad number, nor expected, nor behind. -/
def isAhead (expected c : Word16) : Bool := c ≠ 0 && c ≠ expected && !isBehind expected c

/-- E advanced by 1; 65535 is followed by 1. -/
def nextNumber (expected : Word16) : Word16 := if expected = 65535 then 1 else expected + 1

/-! ### RUNCTL (01 R3) -/

/-- The mode request of RUNCTL's bits 1 and 0; 3 is taken as STOPPED. -/
def requestedMode (value : Word32) : EngineMode :=
  if value.setWidth 2 = 1#2 then .active else if value.setWidth 2 = 2#2 then .dry else .stopped

/-! ### Lane frames (07 R144) -/

/-- A 24-bit two's complement number. -/
def signed24 (v : Nat) : Int := if v < 8388608 then v else (v : Int) - 16777216

/-- The eight samples of a lane frame whose 216 bits, first bit most significant, read as a number. -/
def frameSamples (bits : Nat) : List Int :=
  (List.range 8).map fun p => signed24 (bits / 2 ^ (24 * (7 - p)) % 16777216)

/-- The 216 bits of a lane frame, most significant bit first (07 R144). -/
def numberBits : Nat → Nat → List Bool
  | 0, _ => []
  | n + 1, v => numberBits n (v / 2) ++ [v % 2 == 1]

end Sys2Proof.Machine
end

