-- ==== Sys2Proof/Machine/Coefficients.lean ====
section
/-! DEFINITION. The coefficient unit (04): the stages of a computation, its requests, start, results and pick, the decay
and epsilon glides. -/

namespace Sys2Proof.Machine

/-- A band's value. -/
def Bands.get {α : Type} (x : Bands α) : Band → α
  | .lf => x.lf
  | .mf => x.mf
  | .hf => x.hf

/-- A band's value replaced. -/
def Bands.put {α : Type} (x : Bands α) (b : Band) (v : α) : Bands α :=
  match b with
  | .lf => { x with lf := v }
  | .mf => { x with mf := v }
  | .hf => { x with hf := v }

/-- One value per band. -/
def Bands.ofFn {α : Type} (f : Band → α) : Bands α := ⟨f .lf, f .mf, f .hf⟩

/-- The three bands in the order of the rules. -/
def allBands : List Band := [.lf, .mf, .hf]

/-! ### The stages (04 R70 to R75) -/

/-- The time factor k = 1000 + tau - beta (04 R70). -/
def timeFactor (tau : Int) (beta : Nat) : Nat := (1000 + tau - beta).toNat

/-- Stage 1: the effective time, and whether it was clamped (04 R71). -/
def effectiveTime (t k : Nat) : Nat × Bool :=
  let v := t * k / 1000
  if v < 100 then (100, true) else if 12000 < v then (12000, true) else (v, false)

/-- Stage 2: the attenuation of one pass in cdB, and whether FLOOR or CEIL acted (04 R72). -/
def attenuation (amin loopLength time : Nat) : Nat × Bool × Bool :=
  let a := (250 * loopLength + time) / (2 * time)
  if a < amin then (amin, true, false) else if 9600 < a then (9600, false, true) else (a, false, false)

/-- The target time of a line in a band: its override, or the header's time (02 R38). -/
def targetTime (r : SceneRecord) (l : LineRecord) (b : Band) : Nat := (l.override.get b).getD (r.times.get b)

/-- Stages 1 to 3 for one line and band: decay word, effective time, flags (04 R71 to R73). -/
def bandResult (r : SceneRecord) (l : LineRecord) (k : Nat) (b : Band) : Nat × Nat × StatusFlags :=
  let t := effectiveTime (targetTime r l b) k
  let a := attenuation r.amin l.loopLength t.1
  (decayWord r.quantization a.1, t.1, ⟨a.2.1, a.2.2, t.2, false⟩)

/-- Stages 1 to 3 for a line. -/
def lineResult (r : SceneRecord) (k : Nat) (l : LineRecord) : Bands (Nat × Nat × StatusFlags) :=
  .ofFn (bandResult r l k)

/-- The flags the stages of a line set. -/
def lineFlags (x : Bands (Nat × Nat × StatusFlags)) : StatusFlags := (x.lf.2.2.add x.mf.2.2).add x.hf.2.2

/-- Tap normalization of one speaker record: the words of its taps, and whether GCLAMP acted (04 R75). -/
def speakerWords (sp : SpeakerRecord) : List Nat × Bool :=
  let n := normalization (sp.taps.filterMap (·.gain))
  let gains := sp.taps.map fun t => t.gain.map fun c => clamp (-9600) 1200 (c - n + sp.level)
  (gains.map fun g => match g with
    | some c => gainWord c.1
    | none => 0,
   gains.any fun g => match g with
    | some c => c.2
    | none => false)

/-- The results of a computation (04 R76): the computed part and the flags its stages set. With `full` it is a load
computation; otherwise the send and tap words are left as they stand. -/
def computeRecord (r : SceneRecord) (full : Bool) (tau : Int) (beta : Nat) : Computed × StatusFlags :=
  let lines := r.lines.map (lineResult r (timeFactor tau beta))
  let flags := lines.foldl (fun f x => f.add (lineFlags x)) StatusFlags.clear
  let decay := lines.map fun x => Bands.ofFn fun b => (x.get b).1
  let times := lines.map fun x => Bands.ofFn fun b => (x.get b).2.1
  if full then
    let taps := r.speakers.map speakerWords
    (⟨decay, times, r.sends.map fun e => gainWordOf e.gain, taps.map (·.1)⟩,
     flags.add ⟨false, false, false, taps.any (·.2)⟩)
  else match r.computed with
    | some c => ({ c with decay := decay, times := times }, flags)
    | none => (⟨decay, times, [], []⟩, flags)

/-! ### Requests and starts (04 R79 to R81) -/

/-- A computation starts with the tau and beta that stand (04 R70, R81). One that starts on a LOADING slot is a load
computation, also when the entry taken is a superseded GO's and the load still copies; it then uses the record as it is at its
completion (DESIGN CHOICE, log 30). -/
def State.startComputation (s : State) (q : Request) : State :=
  let c : Computation :=
    { slot := q.slot, start := s.frame, tau := s.coef.tau, beta := s.guard.beta
      full := (s.slot q.slot).state == .loading, glide := q.glide, loader := q.loader, changeover := q.changeover }
  s.setCoef { s.coef with underWay := some c }

/-- A request merged into an entry of its slot (04 R80). -/
def Request.merge (q e : Request) : Request :=
  { e with glide := q.glide.or e.glide, loader := e.loader || q.loader, changeover := e.changeover || q.changeover }

/-- A request entered in the pending set (04 R80). -/
def enterRequest (q : Request) (set : List Request) : List Request :=
  if set.any (·.slot == q.slot) then set.map fun e => if e.slot == q.slot then q.merge e else e
  else set ++ [q]

/-- A request: started at once when no computation is under way, entered in the set otherwise (04 R80, R81). -/
def State.request (s : State) (q : Request) : State :=
  match s.coef.underWay with
  | none => s.startComputation q
  | some _ => s.setCoef { s.coef with requests := enterRequest q s.coef.requests }

/-- The target of the transition record (04 R81). -/
def State.transitionTarget (s : State) : Option Nat := s.trans.bind (·.target)

/-- The request a pick takes from a set: the LIVE slot's, the transition target's, the LOADING slot's (04 R81). -/
def State.firstRequest (s : State) (set : List Request) : Option Request :=
  let at_ (k : Option Nat) := set.find? fun e => some e.slot == k
  ((at_ s.live).or (at_ s.transitionTarget)).or (at_ s.loading)

/-- A pick: entries that serve no one are dropped, and the first request in the order is taken (04 R81). An entry of a LOADING
slot is kept, whoever made it (log 30). -/
def State.pick (s : State) : State :=
  let kept := s.coef.requests.filter fun e =>
    some e.slot == s.live || some e.slot == s.transitionTarget || some e.slot == s.loading
  match s.firstRequest kept with
  | none => s.setCoef { s.coef with requests := kept }
  | some q => (s.setCoef { s.coef with requests := kept.filter (·.slot != q.slot) }).startComputation q

/-- The slot that is LIVE is requested, if there is one (04 R79). -/
def State.requestLive (s : State) (glide : Nat) : State :=
  match s.live with
  | some k => s.request ⟨k, some glide, false, false⟩
  | none => s

/-- No changeover waits for a computation any longer: its GO was superseded or ended (05 R96, 04 R83). -/
def State.forgetChangeover (s : State) : State :=
  s.setCoef { s.coef with
    requests := s.coef.requests.map fun e => { e with changeover := false }
    underWay := s.coef.underWay.map fun c => { c with changeover := false } }

/-- A computation of a slot whose load has ended: no load's computation, and the loader is not told (04 R83). -/
def Computation.disown (slot : Nat) (c : Computation) : Computation :=
  if c.slot = slot then { c with full := false, loader := false } else c

/-- The load of a slot has ended with a fault: a computation of the slot that began under it is discarded, even where a later
load has made the slot LOADING again by its completion (04 R83). -/
def State.forgetComputation (s : State) (slot : Nat) : State :=
  s.setCoef { s.coef with underWay := s.coef.underWay.map (Computation.disown slot) }

/-- The load of a slot is aborted: its pending request is removed and a computation of it serves no one (02 R35, 04 R83). -/
def State.forgetLoad (s : State) (slot : Nat) : State :=
  s.setCoef { s.coef with
    requests := s.coef.requests.filter fun e => e.slot != slot
    underWay := s.coef.underWay.map (Computation.disown slot) }

/-! ### Glides (04 R84, R87) -/

/-- A change of one engine. -/
def State.onEngine (s : State) (e : Nat) (f : Engine → Engine) : State := s.setEngines (s.engines.modify e f)

/-- One step of a decay glide of an engine. -/
def Engine.stepGlide (b : Band) (e : Engine) : Engine :=
  match e.glides.get b with
  | none => e
  | some g => { e with words := e.words.put b g.next.1.toNat, glides := e.glides.put b g.next.2 }

/-- The decay glide's step of this frame boundary, if still due. -/
def State.stepDecayGlide (s : State) (e : Nat) (b : Band) : State :=
  s.onDue (.decayGlide e b) fun s => s.onEngine e (Engine.stepGlide b)

/-- A new decay glide of an engine's band toward `stop`, from the word the engine holds (04 R84). -/
def Engine.startGlide (b : Band) (stop length : Nat) (e : Engine) : Engine :=
  { e with glides := e.glides.put b (some (.begin (e.words.get b) stop length)) }

/-- The glides of one engine of a LIVE slot toward the words of its line (04 R84). -/
def State.glideEngine (s : State) (length : Nat) (decay : List (Bands Nat)) (e j : Nat) : State :=
  allBands.foldl (fun (s : State) b =>
    (s.stepDecayGlide e b).onEngine e (Engine.startGlide b ((decay.getD j ⟨0, 0, 0⟩).get b) length)) s

/-- The glides of all engines of a LIVE slot (04 R84). -/
def State.glideSlot (s : State) (k length : Nat) (decay : List (Bands Nat)) : State :=
  match (s.slot k).record.bind (·.engineMap) with
  | some es => es.zipIdx.foldl (fun (s : State) e => s.glideEngine length decay e.1 e.2) s
  | none => s

/-- One step of the epsilon glide (04 R87). -/
def Coefficients.stepEpsilon (c : Coefficients) : Coefficients :=
  match c.epsilonGlide with
  | none => c
  | some g => { c with epsilonWord := g.next.1.toNat, epsilonGlide := g.next.2 }

/-- The epsilon glide's step of this frame boundary, if still due. -/
def State.stepEpsilon (s : State) : State := s.onDue .epsGlide fun s => s.setCoef s.coef.stepEpsilon

/-! ### Results (04 R77, R83, R90) -/

/-- The flags of a kept completion are added to the slot's, and ARITH CLAMP is raised for newly set ones (04 R77). -/
def State.addFlags (s : State) (k : Nat) (f : StatusFlags) : State :=
  let new := (s.slot k).flags.newly f
  let s' := s.onSlot k fun x => { x with flags := x.flags.add f }
  if new.byte = 0 then s' else s'.raise .arithClamp (k + 256 * new.byte)

/-- The results of the computation `c` are kept: written into the record, flags added (04 R83). -/
def State.keepResults (s : State) (c : Computation) (r : SceneRecord) : State :=
  (s.onSlot c.slot (Slot.onRecord fun r' => { r' with computed := some (computeRecord r c.full c.tau c.beta).1 })).addFlags
    c.slot (computeRecord r c.full c.tau c.beta).2

/-- The results of the computation `c` are applied according to the state of its slot (04 R83). -/
def State.applyResults (s : State) (c : Computation) : State :=
  match (s.slot c.slot).record with
  | none => s
  | some r => match (s.slot c.slot).state with
    | .loading => if c.full then s.keepResults c r else s
    | .ready => s.keepResults { c with full := false } r
    | .live => (s.keepResults { c with full := false } r).glideSlot c.slot (c.glide.getD Config.defaultGlide)
        (computeRecord r false c.tau c.beta).1.decay
    | .outgoing | .vacant | .faulted => s

end Sys2Proof.Machine
end

