-- ==== Sys2Proof/Machine/Network.lean ====
section
/-! DEFINITION. The reflection network (03): claim, drain, release and scrubbing of line engines, the per-sample work of a
scene, and the speaker outputs with their clips. -/

namespace Sys2Proof.Machine

/-! ### Engine table (03 R44, R47 to R54) -/

/-- The FREE engines in ascending order. -/
def freeEngines (es : List Engine) : List Nat :=
  (es.zipIdx.filter fun e => e.1.state == .free).map (·.2)

/-- The number of engines in a state. -/
def countEngines (st : EngineState) (es : List Engine) : Nat := es.countP fun e => e.state == st

/-- A FREE engine claimed for line `j` of a slot's scene (03 R49 steps 2 to 4). -/
def Engine.claimFor (slot j : Nat) (l : LineRecord) (words : Bands Nat) (e : Engine) : Engine :=
  { e with state := .assigned, owner := some slot, line := some j, loopLength := l.loopLength, depth := l.depth
           rate := l.rate, sweep := 0, up := j % 2 == 0, words := words }

/-- The engines `map` are claimed for the slot's lines, the j-th for line j (03 R49). -/
def claimEngines (slot : Nat) (r : SceneRecord) (map : List Nat) (es : List Engine) : List Engine :=
  es.mapIdx fun i e => match map.findIdx? (· == i) with
    | some j => e.claimFor slot j (r.lines.getD j ⟨0, 0, 0, ⟨none, none, none⟩⟩)
        (((r.computed.map (·.decay)).getD []).getD j ⟨0, 0, 0⟩)
    | none => e

/-- A change of a slot's play record. -/
def State.onPlay (s : State) (k : Nat) (f : Play → Play) : State :=
  s.setNet { s.net with play := s.net.play.modify k (·.map f) }

/-- The play record of a slot. -/
def State.playOf (s : State) (k : Nat) : Option Play := s.net.play.getD k none

/-- A claim for the slot `k`, whose scene record is `r`, with the two starting fades (03 R49). The caller has seen that
enough engines are FREE. -/
def State.claimSlot (s : State) (k : Nat) (r : SceneRecord) (play : Play) : State :=
  let map := (freeEngines s.engines).take r.lineCount
  ((s.setEngines (claimEngines k r map s.engines)).onSlot k
    (Slot.onRecord fun r => { r with engineMap := some map })).setNet
    { s.net with play := s.net.play.set k (some play) }

/-- Whether a slot owns engines. -/
def State.ownsEngines (s : State) (k : Nat) : Bool := s.engines.any fun e => e.owner == some k

/-- An engine of the drained slot becomes DRAINING (03 R51). -/
def Engine.drain (k : Nat) (e : Engine) : Engine :=
  if e.owner = some k && e.state = .assigned then { e with state := .draining } else e

/-- A drain of the slot `k` (03 R51); nothing when none of its engines is ASSIGNED. -/
def State.drainSlot (s : State) (k : Nat) : State :=
  if s.engines.any fun e => e.owner == some k && e.state == .assigned then
    ((s.setEngines (s.engines.map (Engine.drain k))).setNet
      { s.net with draining := s.net.draining ++ [(k, s.frame)] }).onPlay k fun p => { p with send := 0 }
  else s

/-- An engine of the released slot becomes SCRUBBING and loses its glide records (03 R52, 04 R85). -/
def Engine.release (k : Nat) (e : Engine) : Engine :=
  if e.owner = some k then
    { e with state := .scrubbing, owner := none, line := none, scrub := some 0, glides := ⟨none, none, none⟩ }
  else e

/-- A release of the slot `k` (03 R52); nothing when it owns no engine. -/
def State.releaseSlot (s : State) (k : Nat) : State :=
  if s.ownsEngines k then
    ((s.setEngines (s.engines.map (Engine.release k))).onSlot k
      (Slot.onRecord fun r => { r with engineMap := none })).setNet
      { s.net with play := s.net.play.set k none, draining := s.net.draining.filter fun d => d.1 != k }
  else s

/-- One step of scrubbing; the sixteenth leaves the engine FREE (03 R53). -/
def Engine.scrubStep (e : Engine) : Engine :=
  match e.scrub with
  | none => e
  | some k =>
    if k + 1 < Config.scrubSteps then
      { e with region := sparseClear (Config.scrubChunk * k) (Config.scrubChunk * (k + 1)) e.region, scrub := some (k + 1) }
    else .free

/-- One step of an engine's scrubbing. -/
def State.scrubStep (s : State) (e : Nat) : State := s.onEngine e Engine.scrubStep

/-! ### One line, one sample (03 R45, R58, R59, R61, R62) -/

/-- The sample at distance `d` behind the write position (03 R45). -/
def Engine.behind (e : Engine) (d : Int) : Int :=
  sparseRead 0 e.region (((e.writePos : Int) - d) % Config.regionSize).toNat

/-- The interpolated line output y (03 R58). -/
def Engine.lineRead (e : Engine) : Int :=
  let delta := 65536 * (e.loopLength : Int) + e.sweep
  let i := delta / 65536
  let f := delta % 65536
  (e.behind i * (65536 - f) + e.behind (i + 1) * f) / 65536

/-- A first-order section's new memory, which is its output (03 R59). -/
def sectionStep (z y c : Int) : Int := z + (y - z) * c / 65536

/-- The absorbed value, and the new memories of the 250 Hz and the 4 kHz section (03 R59). -/
def Engine.absorb (e : Engine) (y : Int) : Int × Int × Int :=
  let low := sectionStep e.low y Config.lowCoefficient
  let pass := sectionStep e.high y Config.highCoefficient
  let high := y - pass
  let mid := y - low - high
  (sat32 ((low * e.words.lf + mid * e.words.mf + high * e.words.hf) / 65536), low, pass)

/-- H(j, i) of the Sylvester construction (03 R60). -/
def hadamard (j i : Nat) : Int :=
  if ((List.range 5).countP fun b => (j &&& i).testBit b) % 2 = 0 then 1 else -1

/-- The feedback value of line `j` from the absorbed values (03 R60). -/
def mixLine (absorbed : List Int) (j : Nat) : Int :=
  sat32 (Config.mixerScale absorbed.length * ((absorbed.mapIdx fun i a => hadamard j i * a).sum) / 32768)

/-- The write at w, before the advance, with the new band memories (03 R57 step 4, R61). -/
def Engine.writeLine (v u low high : Int) (e : Engine) : Engine :=
  { e with region := sparseWrite 0 e.region e.writePos (sat32 (v + u)), low := low, high := high }

/-- The sweep's move (03 R62). -/
def Engine.sweepStep (e : Engine) : Engine :=
  let bound : Int := 65536 * e.depth
  if e.up then
    if bound < e.sweep + e.rate then { e with sweep := bound, up := false } else { e with sweep := e.sweep + e.rate }
  else
    if e.sweep - e.rate < -bound then { e with sweep := -bound, up := true } else { e with sweep := e.sweep - e.rate }

/-- The advance of the write position and the sweep (03 R57 steps 6 and 7, R61). -/
def Engine.advance (e : Engine) : Engine :=
  { e with writePos := (e.writePos + 1) % Config.regionSize }.sweepStep

/-! ### One scene, one sample (03 R57, R63, R65, R66) -/

/-- The send input of line `j` (03 R63): `xs` are the conditioned samples, `fade` the send fade, `e` the epsilon word. -/
def sendInput (r : SceneRecord) (words : List Nat) (xs : List Int) (fade e j : Nat) : Int :=
  let total := (List.zipWith (fun (x : SendRecord) (g : Nat) =>
    if x.line = j then xs.getD x.mic 0 * g / 8192 else 0) r.sends words).sum
  sat32 (total * fade / 32768 * e / 8192)

/-- The sum of a speaker record's taps (03 R65, R66 step 1); `lines` are the scene's engines in line order. -/
def tapSum (lines : List Engine) (taps : List TapRecord) (words : List Nat) : Int :=
  (List.zipWith (fun (t : TapRecord) (g : Nat) => (lines.getD t.line .free).behind t.offset * g / 8192) taps words).sum

/-- Steps 1 to 5 of R57 for a scene: its engines after the write, in line order. -/
def writeScene (r : SceneRecord) (c : Computed) (play : Play) (e : Nat) (xs : List Int) (lines : List Engine) :
    List Engine :=
  let absorbed := lines.map fun en => en.absorb en.lineRead
  let values := absorbed.map (·.1)
  (List.zipWith Prod.mk lines absorbed).mapIdx fun j p =>
    p.1.writeLine (mixLine values j)
      (if p.1.state = .assigned then sendInput r c.sendWords xs play.send e j else 0) p.2.2.1 p.2.2.2

/-- The faded scene sums of a scene, added to the speaker totals (03 R66 steps 1 to 3). -/
def addSpeakers (r : SceneRecord) (c : Computed) (play : Play) (lines : List Engine) (totals : List Int) : List Int :=
  (List.zipWith (fun (sp : SpeakerRecord) words => (sp.speaker, tapSum lines sp.taps words * play.output / 32768))
    r.speakers c.tapWords).foldl (fun (t : List Int) x => t.modify x.1 (· + x.2)) totals

/-- The engines of a map put back into the engine table. -/
def putEngines (es : List Engine) (map : List Nat) (lines : List Engine) : List Engine :=
  (List.zipWith Prod.mk map lines).foldl (fun (t : List Engine) x => t.set x.1 x.2) es

/-- One sample period of one scene: the engine table and the speaker totals after it (03 R57). A slot without an engine
map plays nothing. -/
def scenePeriod (e : Nat) (xs : List Int) (acc : List Engine × List Int) (slot : Slot × Option Play) :
    List Engine × List Int :=
  match slot.1.record, slot.2 with
  | some r, some play => match r.engineMap, r.computed with
    | some map, some c =>
      let lines := writeScene r c play e xs (map.map fun i => acc.1.getD i .free)
      (putEngines acc.1 map (lines.map Engine.advance), addSpeakers r c play lines acc.2)
    | _, _ => acc
  | _, _ => acc

/-- One sample period of every playing scene (03 R57): engine table and speaker totals. -/
def networkPeriod (s : State) (xs : List Int) : List Engine × List Int :=
  (List.zipWith Prod.mk s.slots s.net.play).foldl (scenePeriod s.coef.epsilonWord xs)
    (s.engines, List.replicate Config.speakers 0)

/-! ### Speaker outputs (03 R66 to R68) -/

/-- The output mute factor q = floor(m × r / 32768) (07 R161). -/
def State.muteFactor (s : State) : Nat := s.mode.factor * s.clock.factor / Config.fullLevel

/-- Saturation to the lane's symmetric range (03 R67). -/
def satSpeaker (v : Int) : Int := if v < -8388607 then -8388607 else if 8388607 < v then 8388607 else v

/-- A clip of a speaker: its count rises, and leaving 0 raises OUTPUT CLIP (03 R68). -/
def State.clip (s : State) (sp : Nat) : State :=
  let s' := s.setNet { s.net with clips := s.net.clips.modify sp fun c => min 65535 (c + 1) }
  if s.net.clips.getD sp 0 = 0 then s'.raise .outputClip sp else s'

/-- The speakers in the order their saturations are made: from `first` on, around (log 13). -/
def speakerOrder (first : Nat) : List Nat := (List.range Config.speakers).map fun i => (first + i) % Config.speakers

/-- The network's work of one sample period: nothing and outputs of 0 while halted (03 R56, R57, R66 to R68). -/
def State.networkStep (s : State) (first : Nat) (xs : List Int) : State :=
  if s.mode.halted then s.setOutputs { s.outputs with formed := List.replicate Config.speakers 0 }
  else
    let r := networkPeriod s xs
    let muted := r.2.map fun (t : Int) => t * (s.muteFactor : Int) / 32768
    let s' := (s.setEngines r.1).setOutputs { s.outputs with formed := muted.map satSpeaker }
    ((speakerOrder first).filter fun sp => muted.getD sp 0 != satSpeaker (muted.getD sp 0)).foldl State.clip s'

end Sys2Proof.Machine
end

