-- ==== Sys2Proof/Machine/Scenes.lean ====
section
/-! DEFINITION. Scene slots and image loading (02): LOAD SCENE, the image loader, validation, the scene record, VACATE
SCENE. -/

namespace Sys2Proof.Machine

/-! ### Validation (02 R26 to R31)

A fault is its field code and record index; `len` is the image length of the cue. -/

/-- A validation step's result. -/
abbrev Checked (α : Type) := Except (Nat × Nat) α

/-- The `n` bytes from `pos` on end before the check word (02 R26). -/
def fits (len pos n : Nat) : Bool := pos + n ≤ len - 2

/-- A time outside 100–12000 ms. -/
def badTime (t : Nat) : Bool := t < 100 || 12000 < t

/-- A gain in range, or off (02 R29, R30). -/
def gainField (v : Int) : Option (Option Int) :=
  if v = -32768 then some none else if -9600 ≤ v ∧ v ≤ 1200 then some (some v) else none

/-- The header's checks, in order (02 R27); the line count. -/
def checkHeader (img : List Byte) (len : Nat) : Checked Unit :=
  if img.take 4 ≠ [0x43, 0x53, 0x43, 0x31] then .error (0x02, 0)
  else if u32 img 4 ≠ len then .error (0x03, 0)
  else if u8 img 8 ≠ 4 && u8 img 8 ≠ 8 && u8 img 8 ≠ 16 && u8 img 8 ≠ 32 then .error (0x04, 0)
  else if 1 < u8 img 9 then .error (0x05, 0)
  else if u16 img 10 < 5 || 300 < u16 img 10 then .error (0x06, 0)
  else if badTime (u16 img 12) || badTime (u16 img 14) || badTime (u16 img 16) then .error (0x07, 0)
  else if 256 < u16 img 18 then .error (0x0B, 0)
  else if 128 < u16 img 20 then .error (0x0E, 0)
  else if 1024 < u16 img 22 then .error (0x12, 0)
  else .ok ()

/-- The override times of a line record whose flags byte is `flags`, from `pos` on, in LF, MF, HF order (02 R28). -/
def overrideTimes (img : List Byte) (flags pos : Nat) : Bands (Option Nat) :=
  let a := bit (flags.testBit 0)
  let b := bit (flags.testBit 1)
  ⟨if flags.testBit 0 then some (u16 img pos) else none,
   if flags.testBit 1 then some (u16 img (pos + 2 * a)) else none,
   if flags.testBit 2 then some (u16 img (pos + 2 * a + 2 * b)) else none⟩

/-- One line record at `pos`: the record and the position after it (02 R28). -/
def checkLine (img : List Byte) (len j pos : Nat) : Checked (LineRecord × Nat) :=
  if !fits len pos 7 then .error (0x03, 0)
  else
    let loop := u16 img pos
    let depth := u16 img (pos + 2)
    let flags := u8 img (pos + 6)
    let k := bit (flags.testBit 0) + bit (flags.testBit 1) + bit (flags.testBit 2)
    let times := overrideTimes img flags (pos + 7)
    if loop < 256 || 30720 < loop then .error (0x08, j)
    else if min 512 (loop / 4) < depth then .error (0x09, j)
    else if 8 ≤ flags then .error (0x0A, j)
    else if !fits len (pos + 7) (2 * k) then .error (0x03, 0)
    else if (times.lf.any badTime) || (times.mf.any badTime) || (times.hf.any badTime) then .error (0x0A, j)
    else .ok (⟨loop, depth, u16 img (pos + 4), times⟩, pos + 7 + 2 * k)

/-- `n` line records from line `j` on (02 R28). -/
def checkLines (img : List Byte) (len : Nat) : (n j pos : Nat) → Checked (List LineRecord × Nat)
  | 0, _, pos => .ok ([], pos)
  | n + 1, j, pos => do
    let (l, pos) ← checkLine img len j pos
    let (rest, pos) ← checkLines img len n (j + 1) pos
    return (l :: rest, pos)

/-- `n` send entries from entry `i` on, after the entries `seen` (02 R29). -/
def checkSends (img : List Byte) (len lines : Nat) : (n i pos : Nat) → (seen : List SendRecord) →
    Checked (List SendRecord × Nat)
  | 0, _, pos, _ => .ok ([], pos)
  | n + 1, i, pos, seen =>
    if !fits len pos 4 then .error (0x03, 0)
    else
      let mic := u8 img pos
      let line := u8 img (pos + 1)
      if 47 < mic || lines ≤ line then .error (0x0B, i)
      else if seen.any fun e => e.mic == mic && e.line == line then .error (0x0C, i)
      else match gainField (s16 img (pos + 2)) with
        | none => .error (0x0D, i)
        | some g => do
          let e : SendRecord := ⟨mic, line, g⟩
          let (rest, pos) ← checkSends img len lines n (i + 1) (pos + 4) (e :: seen)
          return (e :: rest, pos)

/-- `n` taps from `pos` on; `i` counts the taps of the image (02 R30 step 6). -/
def checkTaps (img : List Byte) (lines : List LineRecord) : (n i pos : Nat) → Checked (List TapRecord)
  | 0, _, _ => .ok []
  | n + 1, i, pos =>
    let line := u8 img pos
    let offset := u16 img (pos + 1)
    match lines[line]? with
    | none => .error (0x10, i)
    | some l =>
      if l.loopLength < offset then .error (0x10, i)
      else match gainField (s16 img (pos + 3)) with
        | none => .error (0x11, i)
        | some g => do
          let rest ← checkTaps img lines n (i + 1) (pos + 5)
          return ⟨line, offset, g⟩ :: rest

/-- `n` speaker records from record `r` on, after the speakers `seen`; `taps` counts the taps before them (02 R30). The
result holds the number of taps after them. -/
def checkSpeakers (img : List Byte) (len : Nat) (lines : List LineRecord) :
    (n r pos taps : Nat) → (seen : List Nat) → Checked (List SpeakerRecord × Nat × Nat)
  | 0, _, pos, taps, _ => .ok ([], pos, taps)
  | n + 1, r, pos, taps, seen =>
    if !fits len pos 4 then .error (0x03, 0)
    else
      let speaker := u8 img pos
      let t := u8 img (pos + 1)
      let level := s16 img (pos + 2)
      if 127 < speaker || seen.contains speaker then .error (0x0E, r)
      else if t < 1 || 8 < t then .error (0x0F, r)
      else if level < -9600 || 1200 < level then .error (0x11, r)
      else if !fits len (pos + 4) (5 * t) then .error (0x03, 0)
      else do
        let list ← checkTaps img lines t taps (pos + 4)
        let (rest, pos, taps) ← checkSpeakers img len lines n (r + 1) (pos + 4 + 5 * t) (taps + t) (speaker :: seen)
        return (⟨speaker, level, list⟩ :: rest, pos, taps)

/-- Validation of an image store: the first fault, or the scene record built from it (02 R26 to R32, R37 to R41). -/
def validate (img : List Byte) (len : Nat) : Checked SceneRecord := do
  checkHeader img len
  let n := u8 img 8
  let (lines, pos) ← checkLines img len n 0 24
  let (sends, pos) ← checkSends img len n (u16 img 18) 0 pos []
  let (speakers, pos, taps) ← checkSpeakers img len lines (u16 img 20) 0 pos 0 []
  if taps ≠ u16 img 22 then .error (0x12, 0)
  else if pos ≠ len - 2 then .error (0x03, 0)
  else return { quantization := if u8 img 9 = 0 then .nearest else .down
                amin := u16 img 10
                times := ⟨u16 img 12, u16 img 14, u16 img 16⟩
                lines := lines, sends := sends, speakers := speakers
                computed := none, engineMap := none }

/-! ### LOAD SCENE (02 R21, R22) -/

/-- An image that does not lie wholly within the image area, or whose length is odd or below 26 (02 R21 step 2). -/
def badImage (offset length : Nat) : Bool :=
  offset < Config.imageBase || Config.commonSize < offset + length || length % 2 = 1 || length < 26

/-- LOAD SCENE past the cue unit's checks (02 R21, R22). -/
def cueLoadScene (k : Nat) (bs : List Byte) (s : State) : State :=
  let slot := u8 bs 12
  let offset := u32 bs 13
  let length := u32 bs 17
  if 7 < slot then s.answer k bs .range 0
  else if badImage offset length then s.answer k bs .range 0
  else if (s.slot slot).state ≠ .vacant then s.answer k bs .notVacant 0
  else if s.loader.isSome then s.answer k bs .busy 0
  else ((s.onSlot slot fun x => { x with state := .loading, flags := .clear, image := [] }).setLoader
      (some { target := slot, cueSlot := k, offset := offset, length := length, done := 0, sum := 0
              phase := .copying })).dropWork .copy

/-! ### The image loader (02 R24, R25, R32, R33) -/

/-- The end of a load: the LOAD SCENE is answered, LOAD ENDED raised, and the loader idles (02 R25, R33, R35). -/
def State.endLoad (s : State) (l : LoadRecord) (o : Answer) (fields : Nat) : State :=
  ((s.answerHeld l.cueSlot o fields).raise .loadEnded (l.target + 256 * o.code)).setLoader none

/-- A load that faults (02 R25); a computation that began under it is no later load's (04 R83). -/
def State.faultLoad (s : State) (l : LoadRecord) (code index : Nat) : State :=
  ((s.onSlot l.target fun x => { x with state := .faulted, record := none, image := [] }).forgetComputation l.target).endLoad
    l .image (256 * code + 65536 * index)

/-- One chunk copied (02 R24). -/
def copyChunk (ram : List Host.Cell) (l : LoadRecord) (image : List Byte) : LoadRecord × List Byte :=
  let n := min Config.chunkSize (l.length - l.done)
  let bytes := readBytes ram (l.offset + l.done) n
  ({ l with done := l.done + n, sum := l.sum + wordSum bytes }, (image ++ bytes).take Config.imageStoreSize)

/-- The copy has reached the image length: check word, validation, and the request of the load's computation (02 R25,
R32). -/
def State.endCopy (s : State) (l : LoadRecord) : State :=
  if l.sum ≠ 0 then s.faultLoad l 0x01 0
  else match validate (s.slot l.target).image l.length with
    | .error f => s.faultLoad l f.1 f.2
    | .ok r => ((s.onSlot l.target fun x => { x with record := some r }).setLoader
        (some { l with phase := .computing })).request ⟨l.target, none, true, false⟩

/-- The loader's work at a frame boundary (02 R24, R25). -/
def State.loaderStep (s : State) : State :=
  match s.loader with
  | none => s
  | some l => match l.phase with
    | .computing => s
    | .copying =>
      let c := copyChunk s.ram l (s.slot l.target).image
      let s' := (s.onSlot l.target fun x => { x with image := c.2 }).setLoader (some c.1)
      if c.1.done = c.1.length then s'.endCopy c.1 else s'

/-- The loader is told that its computation has completed (02 R33). -/
def State.completeLoad (s : State) : State :=
  match s.loader with
  | none => s
  | some l => (s.onSlot l.target fun x => { x with state := .ready }).endLoad l .done 0

/-! ### VACATE SCENE (02 R34, R35) -/

/-- The load of a LOADING slot is aborted (02 R35). -/
def State.abortLoad (s : State) (slot : Nat) : State :=
  match s.loader with
  | none => s
  | some l => ((s.onSlot slot fun x => { x with state := .vacant, record := none }).forgetLoad slot).endLoad l .aborted 0

/-- VACATE SCENE past the cue unit's checks (02 R34). Of a LOADING slot, the LOAD SCENE is answered before the VACATE SCENE, so
that the last detail of CUE ANSWERED is the VACATE's: R35 does not say which is taken last (DESIGN CHOICE, log 33). -/
def cueVacateScene (k : Nat) (bs : List Byte) (s : State) : State :=
  let slot := u8 bs 12
  if 7 < slot then s.answer k bs .range 0
  else match (s.slot slot).state with
    | .live | .outgoing => s.answer k bs .busy 0
    | .ready =>
      if s.transitionTarget = some slot then s.answer k bs .busy 0
      else (s.onSlot slot fun x => { x with state := .vacant, record := none }).answer k bs .done 0
    | .faulted => (s.onSlot slot fun x => { x with state := .vacant }).answer k bs .done 0
    | .vacant => s.answer k bs .done 0
    | .loading => (s.abortLoad slot).answer k bs .done 0

/-- CLEAR STATUS past the cue unit's checks (04 R78). -/
def cueClearStatus (k : Nat) (bs : List Byte) (s : State) : State :=
  let slot := u8 bs 12
  if 7 < slot then s.answer k bs .range 0
  else (s.onSlot slot fun x => { x with flags := .clear }).answer k bs .done 0

end Sys2Proof.Machine
end

