-- ==== Sys2Proof/Machine/Changeover.lean ====
section
/-! DEFINITION. Changeovers (05): GO, the plan, the claim, fades, the end of a changeover, tails and cuts, the abort by
STOPPED. -/

namespace Sys2Proof.Machine

/-! ### Small parts -/

/-- Makes sure the claim request is weighed at this frame boundary too (05 R101: it stands from the frame boundary at
which CLAIM is entered), once, before the publication. -/
def State.standClaim (s : State) : State :=
  s.setTodo ((s.todo.filter fun w => w != .claim && w != .publish) ++ [.claim, .publish])

/-- A slot's new state. -/
def State.setSlotState (s : State) (k : Nat) (st : SlotState) : State := s.onSlot k fun x => { x with state := st }

/-- The source, if there is one, becomes OUTGOING (05 R93). -/
def State.retire (s : State) (source : Option Nat) : State :=
  match source with
  | some k => s.setSlotState k .outgoing
  | none => s

/-- The fades of a slot, if there is one, are set (05 R103). -/
def State.fadeSlot (s : State) (k : Option Nat) (f : Play → Play) : State :=
  match k with
  | some k => s.onPlay k f
  | none => s

/-- The tail entry of a slot. -/
def State.tailOf (s : State) (k : Nat) : Option Tail := s.tails.find? fun t => t.slot == k

/-- A tail in HOLD. -/
def Tail.holding (t : Tail) : Bool := match t.stage with
  | .hold _ => true
  | .closing _ _ => false

/-- Every microphone's persistence count becomes 0; the bins keep their values (06 R129). -/
def State.clearPersistence (s : State) : State := s.setMics (s.mics.map fun m => { m with persistence := 0 })

/-- The length of the OUT phase (05 R106). -/
def Transition.outLength (t : Transition) : Nat := max 1 (t.fade / 2)
/-- The length of the IN phase (05 R108). -/
def Transition.inLength (t : Transition) : Nat := max 1 (t.fade - t.outLength)

/-! ### Tails and cuts (05 R110 to R113) -/

/-- A tail starts closing from the slot's output fade; one already closing is left as it is. Its next step is at the next
frame boundary (05 R111). -/
def State.startClosing (s : State) (k : Nat) : State :=
  let o0 := ((s.playOf k).map (·.output)).getD 0
  (s.setTails (s.tails.map fun t => if t.slot = k && t.holding then { t with stage := .closing o0 0 } else t)).dropWork
    (.tail k)

/-- A plan's cut of a draining slot: a tail in HOLD starts closing and joins the record's cut list (05 R113). -/
def State.cutSlot (s : State) (k : Nat) : State :=
  if (s.tailOf k).any (·.holding) then
    (s.startClosing k).setTrans (s.trans.map fun t => { t with cuts := t.cuts ++ [k] })
  else s

/-- The end of a tail's closing: the slot is released, becomes READY, and loses its entry (05 R112). -/
def State.endTail (s : State) (k : Nat) : State :=
  ((s.releaseSlot k).setSlotState k .ready).setTails (s.tails.filter fun t => t.slot != k)

/-- One frame of a slot's tail (05 R110, R111). -/
def State.tailStep (s : State) (k : Nat) : State :=
  match s.tailOf k with
  | none => s
  | some t => match t.stage with
    | .hold n =>
      if n ≤ 1 then s.startClosing k
      else s.setTails (s.tails.map fun x => if x.slot = k then { x with stage := .hold (n - 1) } else x)
    | .closing o0 j =>
      let s' := (s.setTails (s.tails.map fun x => if x.slot = k then { x with stage := .closing o0 (j + 1) } else x)).onPlay
        k fun p => { p with output := closingFade o0 (j + 1) }
      if 8 ≤ j + 1 then s'.endTail k else s'

/-- The drain of the source at the end of its changeover, with its tail entry (05 R105 step 1, R110). -/
def State.drainSource (s : State) (k : Nat) : State :=
  (s.drainSlot k).setTails (s.tails ++ [⟨k, .hold ((3 * (s.slot k).longest + 3) / 4)⟩])

/-! ### Claim (05 R101, R102) -/

/-- The claim of the target `k` with its record `r`, and what changes with it (05 R102). -/
def State.claimTarget (s : State) (t : Transition) (k : Nat) (r : SceneRecord) : State :=
  let overlap := t.style == some .overlap
  let s := (s.claimSlot k r ⟨0, if overlap then Config.fullLevel else 0⟩).setSlotState k .live
  let s := if overlap then s.retire t.source else s
  s.setTrans (some { t with phase := if overlap then .fade else .in_, position := 0 })

/-- The standing claim request: made when the target's n engines are FREE (03 R49, 05 R101). -/
def State.tryClaim (s : State) : State :=
  match s.trans with
  | some t => match t.phase, t.target with
    | .claim, some k => match (s.slot k).record with
      | some r => if r.lineCount ≤ countEngines .free s.engines then s.claimTarget t k r else s
      | none => s
    | _, _ => s
  | none => s

/-! ### The plan (05 R98 to R100, R106) -/

/-- The DRAINING engines whose slot's tail is closing (05 R98, CL). -/
def State.closingEngines (s : State) : Nat :=
  s.engines.countP fun e => e.state == .draining &&
    (match e.owner with
     | some k => (s.tailOf k).any fun t => !t.holding
     | none => false)

/-- The walk along the draining list: slots in HOLD are cut until `r` reaches `n` (05 R99). -/
def cutWalk (n : Nat) : List Nat → Nat → State → State
  | [], _, s => s
  | k :: rest, r, s =>
    if n ≤ r then s
    else if (s.tailOf k).any (·.holding) then cutWalk n rest (r + (s.slot k).lineCount) (s.cutSlot k)
    else cutWalk n rest r s

/-- The plan, made when the PREPARE computation completes (05 R97, R98). -/
def State.plan (s : State) : State :=
  match s.trans with
  | some t => match t.phase, t.target with
    | .prepare, some k => match (s.slot k).record with
      | some r =>
        let n := r.lineCount
        let free := countEngines .free s.engines
        let scrub := countEngines .scrubbing s.engines
        let drain := countEngines .draining s.engines
        if n ≤ free then s.claimTarget { t with style := some .overlap } k r
        else if n ≤ free + scrub + drain then
          (cutWalk n (s.net.draining.map (·.1)) (free + scrub + s.closingEngines)
            (s.setTrans (some { t with style := some .overlap, phase := .claim }))).standClaim
        else
          ((s.net.draining.map (·.1)).foldl State.cutSlot
            (s.setTrans (some { t with style := some .sequential, phase := .out, position := 0 }))).retire t.source
      | none => s
    | _, _ => s
  | none => s

/-! ### Fades and ends (05 R103 to R109) -/

/-- The guard's persistence clear, the answer and the notice of a changeover's end, and the removal of its record (05 R105
steps 2 to 5). -/
def State.finishChangeover (s : State) (t : Transition) : State :=
  let style := if t.style = some .sequential then 1 else 0
  (((s.answerHeld t.cueSlot .done (clampedBit t.clamped)).raise .changeoverEnded
    (t.target.getD 255 + 256 * t.source.getD 255 + 65536 * style)).clearPersistence).setTrans none

/-- The end of a changeover (05 R105). -/
def State.endChangeover (s : State) (t : Transition) : State :=
  match t.phase, t.source with
  | .fade, some src => (s.drainSource src).finishChangeover t
  | _, _ => s.finishChangeover t

/-- The end of OUT: the source is released and READY, and the record enters CLAIM (05 R107). -/
def State.endOut (s : State) (t : Transition) : State :=
  let s := match t.source with
    | some src => (s.releaseSlot src).setSlotState src .ready
    | none => s
  (s.setTrans (some { t with phase := .claim, position := 0 })).standClaim

/-- One step of FADE, OUT or IN (05 R103, R104, R106, R108, R109). -/
def State.fadeStep (s : State) : State :=
  match s.trans with
  | none => s
  | some t =>
    let p := t.position + 1
    let t' := { t with position := p }
    let s' := s.setTrans (some t')
    match t.phase with
    | .fade =>
      let s' := (s'.fadeSlot t.target fun x => { x with send := rise p t.fade }).fadeSlot t.source fun x =>
        { x with send := fall p t.fade }
      if t.fade ≤ p then s'.endChangeover t' else s'
    | .out =>
      let s' := s'.fadeSlot t.source fun _ => ⟨fall p t.outLength, fall p t.outLength⟩
      if t.outLength ≤ p then s'.endOut t' else s'
    | .in_ =>
      let s' := s'.fadeSlot t.target fun _ => ⟨rise p t.inLength, rise p t.inLength⟩
      if t.inLength ≤ p then s'.endChangeover t' else s'
    | .prepare | .claim => s

/-! ### GO (05 R94 to R96, R109) -/

/-- The old GO is answered SUPERSEDED and its record removed (05 R96 steps 1 to 3). -/
def State.supersede (s : State) (t : Transition) : State :=
  ((s.answerHeld t.cueSlot .superseded (clampedBit t.clamped)).setTrans none).forgetChangeover

/-- A GO is accepted: the transition record is created (05 R95, R109). -/
def State.acceptGo (s : State) (k : Nat) (target : Option Nat) (fade : Nat) (clamped : Bool) : State :=
  let t : Transition :=
    { target := target, source := s.live, fade := fade, clamped := clamped, style := none, phase := .prepare
      position := 0, cuts := [], cueSlot := k }
  match target with
  | some slot => (s.setTrans (some t)).request ⟨slot, none, false, true⟩
  | none => (s.setTrans (some { t with style := some .overlap, phase := .fade })).retire s.live

/-- GO meets an existing record: superseded, or in the way (05 R94 step 6). -/
def Transition.mayBeSuperseded (t : Transition) : Bool :=
  match t.phase, t.style with
  | .prepare, _ => true
  | .claim, some .overlap => true
  | _, _ => false

/-- GO past the cue unit's checks (05 R94). -/
def cueGo (k : Nat) (bs : List Byte) (s : State) : State :=
  let named := u8 bs 12
  let f := clamp 1 30000 (u16 bs 13)
  let clamped := clampedBit f.2
  if 7 < named ∧ named ≠ 255 then s.answer k bs .range clamped
  else if named ≠ 255 ∧ s.live = some named then s.answer k bs .done clamped
  else if named = 255 ∧ s.live = none then s.answer k bs .done clamped
  else if named ≠ 255 ∧ (s.slot named).state ≠ .ready then s.answer k bs .notReady clamped
  else
    let target := if named = 255 then none else some named
    match s.trans with
    | none => s.acceptGo k target f.1.toNat f.2
    | some t =>
      if t.mayBeSuperseded then (s.supersede t).acceptGo k target f.1.toNat f.2
      else s.answer k bs .busy clamped

/-! ### Abort by STOPPED (05 R114) -/

/-- A slot that owns engines is released and becomes READY. -/
def State.stopSlot (s : State) (k : Nat) : State :=
  if s.ownsEngines k then (s.releaseSlot k).setSlotState k .ready else s

/-- The GO of a record is answered ABORTED and the record removed (05 R114 step 1). -/
def State.abortTransition (s : State) : State :=
  match s.trans with
  | some t => ((s.answerHeld t.cueSlot .aborted (clampedBit t.clamped)).setTrans none).forgetChangeover
  | none => s

/-- Mode control tells the changeover unit that a STOPPED ramp has ended (05 R114). -/
def State.stopChangeovers (s : State) : State :=
  ((List.range Config.sceneSlots).foldl State.stopSlot s.abortTransition).setTails []

end Sys2Proof.Machine
end

