-- ==== Sys2Proof/Machine/Conditioning.lean ====
section
/-! DEFINITION. Microphone conditioning (06 R117 to R122): the mic table and its cue, trim and fallback words, notch
filters, and the conditioned sample of each microphone. -/

namespace Sys2Proof.Machine

/-- A microphone by its number. -/
def State.mic (s : State) (m : Nat) : Mic := s.mics.getD m .reset
/-- A change of one microphone. -/
def State.onMic (s : State) (m : Nat) (f : Mic → Mic) : State := s.setMics (s.mics.modify m f)

/-! ### Trim and fallback words (06 R119, R122) -/

/-- One step of a trim glide. -/
def Mic.stepTrim (m : Mic) : Mic :=
  match m.trimGlide with
  | none => m
  | some g => { m with trimWord := g.next.1.toNat, trimGlide := g.next.2 }

/-- One step of a fallback glide. -/
def Mic.stepFallback (m : Mic) : Mic :=
  match m.fallbackGlide with
  | none => m
  | some g => { m with fallbackWord := g.next.1.toNat, fallbackGlide := g.next.2 }

/-- The trim glide's step of this frame boundary, if still due. -/
def State.stepTrimGlide (s : State) (m : Nat) : State := s.onDue (.trimGlide m) fun s => s.onMic m Mic.stepTrim

/-- The fallback glide's step of this frame boundary, if still due. -/
def State.stepFallbackGlide (s : State) (m : Nat) : State :=
  s.onDue (.fallbackGlide m) fun s => s.onMic m Mic.stepFallback

/-- A new value of phi: a change starts the fallback word's glide from the word that the glide in progress leaves at this
frame boundary (06 R122). -/
def State.setPhi (s : State) (m v : Nat) : State :=
  if (s.mic m).phi = v then s
  else (s.stepFallbackGlide m).onMic m fun x =>
    { x with phi := v, fallbackGlide := some (.begin x.fallbackWord (gainWord (-(v : Int))) Config.micGlide) }

/-! ### LOAD MIC TABLE (06 R118, R119) -/

/-- The group a group byte names (01 Formats). -/
def groupOf (b : Nat) : Group := if b = 0 then .stage else if b = 1 then .pit else .hall

/-- The checks of microphone `m`'s record (06 R118 step 5). -/
def checkMic (img : List Byte) (m : Nat) : Checked Unit :=
  if 4 ≤ u8 img (4 + 4 * m) then .error (0x13, m)
  else if 2 < u8 img (5 + 4 * m) then .error (0x14, m)
  else if s16 img (6 + 4 * m) < -2400 || 2400 < s16 img (6 + 4 * m) then .error (0x15, m)
  else .ok ()

/-- The checks of a mic table image: check word, tag, the 48 records (06 R118 steps 3 to 5). -/
def checkMicTable (img : List Byte) : Checked Unit :=
  if wordSum img ≠ 0 then .error (0x01, 0)
  else if img.take 4 ≠ [0x4D, 0x49, 0x43, 0x54] then .error (0x02, 0)
  else (List.range Config.microphones).forM (checkMic img)

/-- Microphone `m` takes its new entry, and its trim word starts its glide (06 R119). -/
def Mic.takeEntry (img : List Byte) (m : Nat) (x : Mic) : Mic :=
  { x with present := (u8 img (4 + 4 * m)).testBit 0, guarded := (u8 img (4 + 4 * m)).testBit 1
           group := groupOf (u8 img (5 + 4 * m)), trim := s16 img (6 + 4 * m)
           trimGlide := some (.begin x.trimWord (gainWord (s16 img (6 + 4 * m))) Config.micGlide) }

/-- LOAD MIC TABLE past the cue unit's checks (06 R118, R119). -/
def cueLoadMicTable (k : Nat) (bs : List Byte) (s : State) : State :=
  let offset := u32 bs 12
  if offset < Config.imageBase || Config.commonSize < offset + 198 then s.answer k bs .range 0
  else
    let img := readBytes s.ram offset 198
    match checkMicTable img with
    | .error f => s.answer k bs .image (256 * f.1 + 65536 * f.2)
    | .ok () =>
      let s' := (List.range Config.microphones).foldl State.stepTrimGlide s
      (s'.setMics (s'.mics.mapIdx (Mic.takeEntry img))).answer k bs .done 0

/-! ### Notch filters (06 R121) -/

/-- One sample through a notch filter: the output and the filter after it. -/
def Filter.step (u : Int) (f : Filter) : Int × Filter :=
  let v := sat32 ((f.words.g0 * u + f.words.g1 * f.u1 + f.words.g2 * f.u2 - f.words.h1 * f.v1 - f.words.h2 * f.v2)
    / 1073741824)
  (v, { f with u1 := u, u2 := f.u1, v1 := v, v2 := f.v1 })

/-- One step of a filter's depth glide; the filter of a FREE entry leaves the chain at depth 0. -/
def Notch.stepDepth (n : Notch) : Notch :=
  match n.filter.glide with
  | none => n
  | some g =>
    if n.kind = .free && g.next.1 = 0 then
      { n with filter := { n.filter with depth := 0, glide := none, engaged := false } }
    else { n with filter := { n.filter with depth := g.next.1.toNat, glide := g.next.2 } }

/-- The coefficients of a filter on a microphone, formed from its centre bin and current depth as they stand. -/
def Notch.formWords (n : Notch) : Notch :=
  if n.filter.engaged then { n with filter := { n.filter with words := notchWords n.filter.bin n.filter.depth } } else n

/-- The filter's depth glides toward `depth` over 4 frames. -/
def Filter.glideTo (depth : Nat) (f : Filter) : Filter :=
  { f with glide := some (.begin f.depth depth Config.depthGlide) }

/-- An entry is taken for a notch: its filter moves to the new microphone and bin with depth 0 and zero memories, or stays
when it is still on that microphone at that bin, and glides to the depth (06 R121, log 16). -/
def Notch.place (kind : NotchKind) (mic bin depth hold : Nat) (stamp : Word32) (n : Notch) : Notch :=
  let stays := n.filter.engaged && n.filter.mic == mic && n.filter.bin == bin
  let f : Filter := if stays then n.filter else { Filter.off with engaged := true, mic := mic, bin := bin }
  ⟨kind, mic, bin, depth, hold, stamp, f.glideTo depth⟩

/-- A new depth of an entry in use, its filter gliding to it. -/
def Notch.setDepth (depth : Nat) (n : Notch) : Notch :=
  if n.depth = depth then n else { n with depth := depth, filter := n.filter.glideTo depth }

/-- An entry becomes FREE; its filter glides to 0, or leaves the chain at once when its depth is 0 (06 R121, R130). -/
def Notch.release (n : Notch) : Notch :=
  ⟨.free, 0, 0, 0, 0, 0,
   if n.filter.depth = 0 then { n.filter with glide := none, engaged := false } else n.filter.glideTo 0⟩

/-! ### The conditioned samples (06 R120) -/

/-- A microphone's sample through the filters on it, in ascending entry order. -/
def notchChain (m : Nat) : List Notch → Int → Int × List Notch
  | [], x => (x, [])
  | n :: rest, x =>
    if n.filter.engaged && n.filter.mic == m then
      let r := n.filter.step x
      let t := notchChain m rest r.1
      (t.1, { n with filter := r.2 } :: t.2)
    else
      let t := notchChain m rest x
      (t.1, n :: t.2)

/-- A microphone's conditioned sample and the pool after it: trim, notches, fallback. The sample of a microphone that is
absent, or whose lane is not LOCKED, is 0 (06 R117, R120, 03 R63, 09 R178; log 8). -/
def conditionMic (m : Nat) (x : Mic) (locked : Bool) (sample : Int) (pool : List Notch) : Int × List Notch :=
  let heard := x.present && locked
  let x0 := if heard then sample else 0
  let x1 := sat32 (x0 * x.trimWord / 8192)
  let x2 := notchChain m pool x1
  (if heard then sat32 (x2.1 * x.fallbackWord / 8192) else 0, x2.2)

/-- The conditioned samples of the microphones from `m` on. -/
def conditionMics (locked : Nat → Bool) (samples : List Int) : (m : Nat) → List Mic → List Notch → List Int × List Notch
  | _, [], pool => ([], pool)
  | m, x :: rest, pool =>
    let r := conditionMic m x (locked m) (samples.getD m 0) pool
    let t := conditionMics locked samples (m + 1) rest r.2
    (r.1 :: t.1, t.2)

/-- Conditioning of one sample period: `samples` are the 48 samples the lanes hand over (07 R147). The analysis buffers
take the conditioned samples (06 R120). The result holds the conditioned samples. -/
def State.condition (s : State) (samples : List Int) : List Int × State :=
  let r := conditionMics (fun m => (s.lanes.getD (m / 8) .reset).locked) samples 0 s.mics s.guard.pool
  (r.1, (s.setMics (List.zipWith (fun (x : Mic) v => { x with buffer := v :: x.buffer }) s.mics r.1)).setGuard
    { s.guard with pool := r.2 })

/-- The 1024 samples an analysis covers, oldest first; periods before the buffer's first read 0 (log 23). -/
def Mic.window (x : Mic) : List Int :=
  let b := x.buffer.take Config.analysisLength
  (b ++ List.replicate (Config.analysisLength - b.length) 0).reverse

end Sys2Proof.Machine
end

