-- ==== Sys2Proof/Machine/Guard.lean ====
section
/-! DEFINITION. The ring guard (06 R123 to R143): settings, analyses, persistence, the notch pool and its arbiter, fallback
steps, release and recovery, and the cues of the chapter. -/

namespace Sys2Proof.Machine

/-! ### Ranking and age (06 R123, R130) -/

/-- The groups of an order code, first-ranked first; codes 6 and 7 are taken as 0. -/
def ranking (order : Nat) : List Group :=
  if order = 1 then [.stage, .hall, .pit] else if order = 2 then [.pit, .stage, .hall]
  else if order = 3 then [.pit, .hall, .stage] else if order = 4 then [.hall, .stage, .pit]
  else if order = 5 then [.hall, .pit, .stage] else [.stage, .pit, .hall]

/-- A group's place in the ranking: 0 ranks highest. -/
def rankOf (order : Nat) (g : Group) : Nat := (ranking order).findIdx (· == g)

/-- Two bins are within ±1. -/
def near (a b : Nat) : Bool := a ≤ b + 1 && b ≤ a + 1

/-- An entry in use. -/
def Notch.inUse (n : Notch) : Bool := n.kind != .free

/-- How old a notch is: analyses since its set stamp, mod 2^32. -/
def Guard.age (g : Guard) (n : Notch) : Nat := (g.analyses - n.stamp).toNat

/-- A pool entry by its number. -/
def State.entry (s : State) (n : Nat) : Notch := s.guard.pool.getD n .reset

/-- The number of FIXED entries. -/
def Guard.fixedCount (g : Guard) : Nat := g.pool.countP fun n => n.kind == .fixed

/-! ### Changes of the pool, of phi and of beta (06 R130, R134, R137) -/

/-- The depth glide's step of this frame boundary, if still due. -/
def State.stepDepthGlide (s : State) (n : Nat) : State :=
  s.onDue (.depthGlide n) fun s => s.setGuard { s.guard with pool := s.guard.pool.modify n Notch.stepDepth }

/-- A change of one pool entry. A depth glide in progress steps first (06 R121); POOL FULL follows the change (R130). -/
def State.changeEntry (s : State) (n : Nat) (f : Notch → Notch) : State :=
  let s := s.stepDepthGlide n
  let g := { s.guard with pool := s.guard.pool.modify n f }
  (s.setGuard g).judge .poolFull (g.pool.all Notch.inUse) g.fixedCount

/-- A new value of beta; BACK-OFF ACTIVE follows it (06 R137, log 12). -/
def State.setBeta (s : State) (v : Nat) : State :=
  (s.setGuard { s.guard with beta := v }).judge .backOffActive (0 < v) v

/-- The microphone had a confirmation or a fallback step in the analysis in progress, if any (06 R136). -/
def State.touch (s : State) (m : Nat) : State :=
  (s.onMic m fun x => { x with quiet := 0 }).setGuard
    { s.guard with progress := s.guard.progress.map fun p => { p with touched := m :: p.touched } }

/-- A fallback step on a microphone (06 R134). -/
def State.fallbackStep (s : State) (m : Nat) : State :=
  let phi := min ((s.mic m).phi + 300) 1800
  ((((s.setPhi m phi).setBeta (min (s.guard.beta + 20) 300)).touch m)).raise .fallbackApplied (m + 65536 * phi)

/-! ### Finding entries (06 R130, R132, R133, R139) -/

/-- The first entry that passes a test, with its number. -/
def Guard.findEntry (g : Guard) (p : Notch → Bool) : Option Nat := g.pool.findIdx? p

/-- The notch in use on a microphone within ±1 of a bin: the one at the bin, else at the bin below, else above. -/
def Guard.nearNotch (g : Guard) (m bin : Nat) : Option Nat :=
  let at_ (b : Nat) := g.findEntry fun n => n.inUse && n.mic == m && n.bin == b
  ((at_ bin).or (if bin = 0 then none else at_ (bin - 1))).or (at_ (bin + 1))

/-- Whether notch `a` is given up before notch `b`: a lower-ranked group, then the older; entries come in ascending
number, so that at equal age the lower number stays chosen (06 R130, R133). -/
def State.victimBefore (s : State) (a b : Notch) : Bool :=
  let ra := rankOf s.guard.settings.order (s.mic a.mic).group
  let rb := rankOf s.guard.settings.order (s.mic b.mic).group
  rb < ra || (ra == rb && s.guard.age b < s.guard.age a)

/-- The victim among the FLOATING notches whose group's rank is at least `rank` (06 R133, R139). -/
def State.victim (s : State) (rank : Nat) : Option Nat :=
  ((s.guard.pool.zipIdx).foldl (fun (best : Option (Notch × Nat)) n =>
    if n.1.kind = .floating && decide (rank ≤ rankOf s.guard.settings.order (s.mic n.1.mic).group) then
      match best with
      | none => some n
      | some b => if s.victimBefore n.1 b.1 then some n else some b
    else best) none).map (·.2)

/-- The victim's entry is given up: NOTCH DISPLACED is raised and its microphone takes a fallback step (06 R133, R139). -/
def State.displace (s : State) (v : Nat) : State :=
  (s.raise .notchDisplaced (v + 256 * (s.entry v).mic + 65536 * (s.entry v).bin)).fallbackStep (s.entry v).mic

/-! ### The stages of an analysis (06 R126 to R133) -/

/-- The candidate bin of each microphone; none when it is not examined (06 R127). -/
def State.candidates (s : State) : List (Option Nat) :=
  s.mics.mapIdx fun m x =>
    if x.present && (s.lanes.getD (m / 8) .reset).locked && x.guarded && s.guard.settings.enable then
      candidateBin s.guard.settings.threshold s.guard.settings.floor x.window
    else none

/-- Stages 1 and 2 (06 R125, R126). -/
def State.openAnalysis (s : State) : State :=
  s.setGuard { s.guard with analyses := s.guard.analyses + 1
                            progress := some ⟨s.candidates, [], false, s.guard.beta⟩ }

/-- The candidate of a microphone in the analysis in progress. -/
def State.candidate (s : State) (m : Nat) : Option Nat := s.guard.progress.bind fun p => p.candidates.getD m none

/-- A microphone's persistence with its candidate, before a confirmation (06 R128). -/
def Mic.persist (candidate : Option Nat) (x : Mic) : Mic :=
  match candidate with
  | none => { x with persistence := 0 }
  | some b =>
    if 0 < x.persistence && near b x.persistenceBin then { x with persistence := x.persistence + 1, persistenceBin := b }
    else { x with persistence := 1, persistenceBin := b }

/-- Stage 3 for one microphone: the state, and the confirmations so far (06 R128). -/
def persistMic (acc : State × List (Nat × Nat)) (m : Nat) : State × List (Nat × Nat) :=
  let s := acc.1.onMic m (Mic.persist (acc.1.candidate m))
  let x := s.mic m
  if (s.candidate m).isSome && x.persistence = s.guard.settings.persistence then
    let s := ((s.onMic m fun x => { x with persistence := 0 }).touch m).raise .ringConfirmed
      (m + 256 * x.persistenceBin)
    (s.setGuard { s.guard with progress := s.guard.progress.map fun p => { p with confirmed := true } },
     acc.2 ++ [(m, x.persistenceBin)])
  else (s, acc.2)

/-- The arbiter's order of the confirmations: by the rank of the microphone's group, then by microphone (06 R131). -/
def State.arbiterOrder (s : State) (cs : List (Nat × Nat)) : List (Nat × Nat) :=
  (ranking s.guard.settings.order).flatMap fun g => cs.filter fun c => (s.mic c.1).group == g

/-- A new FLOATING notch in an entry (06 R133). -/
def State.setFloating (s : State) (n m bin : Nat) : State :=
  s.changeEntry n (Notch.place .floating m bin 600 s.guard.settings.hold s.guard.analyses)

/-- One confirmation acted on (06 R132, R133). -/
def State.actOn (s : State) (c : Nat × Nat) : State :=
  match s.guard.nearNotch c.1 c.2 with
  | some n =>
    if (s.entry n).kind = .floating ∧ (s.entry n).depth < 1800 then
      s.changeEntry n fun x => { x.setDepth (x.depth + 300) with hold := s.guard.settings.hold }
    else s.fallbackStep c.1
  | none => match s.guard.findEntry (fun n => n.kind == .free) with
    | some n => s.setFloating n c.1 c.2
    | none => match s.victim (rankOf s.guard.settings.order (s.mic c.1).group) with
      | some v => (s.displace v).setFloating v c.1 c.2
      | none => s.fallbackStep c.1

/-- The works of stages 5 to 8, in order (06 R126). -/
def tailWorks : List Work :=
  (List.range Config.poolSize).map .hold ++ (List.range Config.microphones).map .quiet ++ [.deviceQuiet, .betaRequest]

/-- Stages 1 to 4 of an analysis (06 R126). -/
def State.fourStages (s : State) : State :=
  let r := (List.range Config.microphones).foldl persistMic (s.openAnalysis, [])
  (r.1.arbiterOrder r.2).foldl State.actOn r.1

/-- Stages 1 to 4 of an analysis; stages 5 to 8 are then to be done before any other work (06 R126). Nothing when the
engine is not ACTIVE (R125). -/
def State.beginAnalysis (s : State) : State :=
  if s.mode.mode = .active then
    let t := s.fourStages
    t.setTodo (tailWorks ++ t.todo)
  else s

/-- Stage 5 for one notch (06 R135). -/
def State.holdStep (s : State) (n : Nat) : State :=
  let x := s.entry n
  if x.kind = .floating && !((s.candidate x.mic).any fun b => near b x.bin) then
    if 1 < x.hold then s.changeEntry n fun x => { x with hold := x.hold - 1 }
    else if 300 < x.depth then
      s.changeEntry n fun x => { x.setDepth (x.depth - 300) with hold := s.guard.settings.hold }
    else s.changeEntry n Notch.release
  else s

/-- The microphone's quiet count grows in the analysis in progress (06 R136). -/
def State.countsQuiet (s : State) (m : Nat) : Bool := !(s.guard.progress.any fun p => p.touched.contains m)

/-- Stage 6 for one microphone (06 R136). -/
def State.quietStep (s : State) (m : Nat) : State :=
  let q := (s.mic m).quiet + bit (s.countsQuiet m)
  if s.guard.settings.recovery ≤ q then
    (s.setPhi m ((s.mic m).phi - 100)).onMic m fun x => { x with quiet := 0 }
  else s.onMic m fun x => { x with quiet := q }

/-- Stage 7 (06 R137). -/
def State.deviceQuietStep (s : State) : State :=
  if s.guard.progress.any (·.confirmed) then s.setGuard { s.guard with deviceQuiet := 0 }
  else if s.guard.settings.recovery ≤ s.guard.deviceQuiet + 1 then
    (s.setGuard { s.guard with deviceQuiet := 0 }).setBeta (s.guard.beta - 5)
  else s.setGuard { s.guard with deviceQuiet := s.guard.deviceQuiet + 1 }

/-- Stage 8, which ends the analysis (06 R138). -/
def State.betaRequestStep (s : State) : State :=
  let s' := if s.guard.progress.any fun p => p.betaStart != s.guard.beta then s.requestLive Config.defaultGlide else s
  s'.setGuard { s'.guard with progress := none }

/-! ### The cues of the chapter -/

/-- SET GUARD past the cue unit's checks (06 R123, R124). -/
def cueSetGuard (k : Nat) (bs : List Byte) (s : State) : State :=
  let threshold := clamp 600 3000 (u16 bs 13)
  let floor := clamp (-7200) (-1200) (s16 bs 15)
  let persistence := clamp 2 16 (u8 bs 17)
  let hold := clamp 47 4700 (u16 bs 18)
  let recovery := clamp 47 4700 (u16 bs 20)
  let order := clamp 0 7 (u8 bs 22)
  let settings : GuardSettings :=
    { enable := u8 bs 12 != 0, threshold := threshold.1, floor := floor.1, persistence := persistence.1.toNat
      hold := hold.1.toNat, recovery := recovery.1.toNat, order := if order.1 < 6 then order.1.toNat else 0 }
  let pool := s.guard.pool.map fun n =>
    if n.kind = .floating then { n with hold := min n.hold settings.hold } else n
  ((s.setGuard { s.guard with settings := settings, pool := pool }).clearPersistence).answer k bs .done
    (clampedBit (threshold.2 || floor.2 || persistence.2 || hold.2 || recovery.2 || order.2))

/-- The other notches of a microphone within ±1 of a bin become FREE (06 R139 step 3). -/
def State.freeOthers (s : State) (taken m bin : Nat) : State :=
  (List.range Config.poolSize).foldl (fun (s : State) n =>
    if n ≠ taken ∧ (s.entry n).inUse ∧ (s.entry n).mic = m ∧ near (s.entry n).bin bin then
      s.changeEntry n Notch.release
    else s) s

/-- A notch in use becomes FIXED with the cue's bin and depth (06 R121, R139 step 3). -/
def Notch.fix (bin depth : Nat) (stamp : Word32) (n : Notch) : Notch :=
  let n := n.setDepth depth
  { n with kind := .fixed, bin := bin, hold := 0, stamp := stamp, filter := { n.filter with bin := bin } }

/-- FIX NOTCH past the cue unit's checks (06 R139). -/
def cueFixNotch (k : Nat) (bs : List Byte) (s : State) : State :=
  let m := u8 bs 12
  let bin := u16 bs 13
  let d := clamp 300 1800 (u16 bs 15)
  let depth := d.1.toNat
  let clamped := clampedBit d.2
  if 47 < m then s.answer k bs .range 0
  else if bin < 2 || 426 < bin then s.answer k bs .range 0
  else match s.guard.nearNotch m bin with
    | some n =>
      ((s.changeEntry n (Notch.fix bin depth s.guard.analyses)).freeOthers n m bin).answer k bs .done clamped
    | none =>
      let place (s : State) (n : Nat) := s.changeEntry n (Notch.place .fixed m bin depth 0 s.guard.analyses)
      match s.guard.findEntry (fun n => n.kind == .free) with
      | some n => (place s n).answer k bs .done clamped
      | none => match s.victim 0 with
        | some v =>
          let s' := place (s.displace v) v
          (if s'.guard.beta ≠ s.guard.beta then s'.requestLive Config.defaultGlide else s').answer k bs .done clamped
        | none => s.answer k bs .full clamped

/-- CLEAR NOTCH past the cue unit's checks (06 R140). -/
def cueClearNotch (k : Nat) (bs : List Byte) (s : State) : State :=
  let n := u8 bs 12
  if 15 < n then s.answer k bs .range 0
  else if (s.entry n).inUse then (s.changeEntry n Notch.release).answer k bs .done 0
  else s.answer k bs .done 0

/-- Every FLOATING entry becomes FREE (06 R141). -/
def State.freeFloating (s : State) : State :=
  (List.range Config.poolSize).foldl (fun (s : State) n =>
    if (s.entry n).kind = .floating then s.changeEntry n Notch.release else s) s

/-- CLEAR GUARD past the cue unit's checks (06 R141). A fallback word that still glides while phi is 0 already glides on: R141
has every word glide over 16 frames, R122 starts a glide only at a change of phi (DESIGN CHOICE, log 34). -/
def cueClearGuard (k : Nat) (bs : List Byte) (s : State) : State :=
  let s1 := (List.range Config.microphones).foldl (fun (s : State) m => s.setPhi m 0) s.freeFloating
  let s2 := if 0 < s1.guard.beta then (s1.setBeta 0).requestLive Config.defaultGlide else s1
  let s3 := (s2.setMics (s2.mics.map fun x => { x with persistence := 0, quiet := 0 })).setGuard
    { s2.guard with deviceQuiet := 0 }
  s3.answer k bs .done 0

end Sys2Proof.Machine
end

