-- ==== Sys2Proof/Machine/Lock.lean ====
section
/-! DEFINITION. The show lock (08): SET KEY, LOCK, UNLOCK and the lockout. -/

namespace Sys2Proof.Machine

/-- The bytes are all equal to one another. -/
def allEqual (key : List Byte) : Bool := key.all fun b => key.all fun c => b == c

/-- SET KEY past the cue unit's checks (08 R166). -/
def cueSetKey (k : Nat) (bs : List Byte) (s : State) : State :=
  if allEqual (keyBytes bs) then s.answer k bs .range 0
  else (s.setLock { s.lock with key := some (keyBytes bs) }).answer k bs .done 0

/-- LOCK past the cue unit's checks (08 R167). -/
def cueLock (k : Nat) (bs : List Byte) (s : State) : State :=
  match s.lock.key with
  | none => s.answer k bs .key 0
  | some key =>
    if s.lock.locked then s.answer k bs .done 0
    else if keyBytes bs ≠ key then s.answer k bs .key 0
    else (s.setLock { s.lock with locked := true }).answer k bs .done 0

/-- A refused comparing UNLOCK: the failure count rises, the third failure starts the lockout (08 R168 step 3, R169). -/
def ShowLock.fail (l : ShowLock) : ShowLock :=
  if l.failures + 1 = 3 then { l with failures := 0, lockout := Config.lockoutFrames }
  else { l with failures := l.failures + 1 }

/-- The detail of UNLOCK REFUSED: the failure count the refusal left, and bit 8 when it started the lockout (08 R168). -/
def ShowLock.failDetail (l : ShowLock) : Nat := if l.failures + 1 = 3 then 256 else l.failures + 1

/-- UNLOCK past the cue unit's checks (08 R168). -/
def cueUnlock (k : Nat) (bs : List Byte) (s : State) : State :=
  if !s.lock.locked then s.answer k bs .done 0
  else if 0 < s.lock.lockout then s.answer k bs .key 0
  else if s.lock.key ≠ some (keyBytes bs) then
    ((s.setLock s.lock.fail).answer k bs .key 0).raise .unlockRefused s.lock.failDetail
  else (s.setLock { s.lock with locked := false, failures := 0 }).answer k bs .done 0

/-- One frame of the lockout timer (08 R169). -/
def State.lockoutStep (s : State) : State := s.setLock { s.lock with lockout := s.lock.lockout - 1 }

end Sys2Proof.Machine
end

