-- ==== Sys2Proof/Machine/Trim.lean ====
section
/-! DEFINITION. MARK (01 R17) and TRIM (04 R86 to R89). -/

namespace Sys2Proof.Machine

/-- MARK past the cue unit's checks: answered DONE with its tag (01 R17). -/
def cueMark (k : Nat) (bs : List Byte) (s : State) : State := s.answer k bs .done (u32 bs 12)

/-- TRIM's first part: tau takes the value, and the LIVE slot's computation is requested (04 R89 step 1). -/
def State.trimTau (s : State) (tau : Int) (glide : Nat) : State :=
  (s.setCoef { s.coef with tau := tau }).requestLive glide

/-- TRIM's second part: epsilon takes the value, and its word's glide is set from the word that the glide in progress
leaves at this frame boundary (04 R87, R89 step 2). -/
def State.trimEpsilon (s : State) (epsilon : Int) (glide : Nat) : State :=
  let s := s.stepEpsilon
  s.setCoef { s.coef with epsilon := epsilon
                          epsilonGlide := some (.begin s.coef.epsilonWord (gainWord epsilon) glide) }

/-- TRIM past the cue unit's checks (04 R88, R89). -/
def cueTrim (k : Nat) (bs : List Byte) (s : State) : State :=
  let first := (u8 bs 12).testBit 0
  let second := (u8 bs 12).testBit 1
  let tau := clamp (-500) 500 (s16 bs 13)
  let epsilon := clamp (-9600) 0 (s16 bs 15)
  let glide := clamp 1 3000 (u16 bs 17)
  let s1 := if first then s.trimTau tau.1 glide.1.toNat else s
  let s2 := if second then s1.trimEpsilon epsilon.1 glide.1.toNat else s1
  s2.answer k bs .done
    (clampedBit ((first && tau.2) || (second && epsilon.2) || ((first || second) && glide.2)))

end Sys2Proof.Machine
end

