-- ==== Sys2Proof/Machine/Cues.lean ====
section
/-! DEFINITION. The cue unit (01 R7 to R13): the scan of a frame boundary, the take, the check order, the gap timer. -/

namespace Sys2Proof.Machine

/-! ### Candidates (01 R9) -/

/-- A cue table slot is a candidate: POSTED, and not held as taken. -/
def State.isCandidate (s : State) (k : Nat) : Bool := cueState s.ram k == 1 && (s.cues.held.getD k none).isNone

/-- The lowest-indexed candidate that holds E. -/
def State.expectedSlot (s : State) : Option Nat :=
  (List.range Config.cueSlots).find? fun k => s.isCandidate k && cueNumber s.ram k == s.cues.expected

/-- A cue held as taken has the number (01 R12). -/
def State.holdsNumber (s : State) (c : Word16) : Bool :=
  s.cues.held.any fun h => match h with
    | some bs => u16 bs 4 == c.toNat
    | none => false

/-! ### Steps 1 and 2 (01 R9) -/

/-- Answers one candidate whose number passes a test, from the slot as it reads (01 R9, R14, log 25). -/
def refuseSlot (p : Word16 → Bool) (o : Answer) (s : State) (k : Nat) : State :=
  if s.isCandidate k && p (cueNumber s.ram k) then s.answer k (cueBytes s.ram k) o 0 else s

/-- Answers every candidate whose number passes a test, in slot index order. -/
def State.refuseAll (p : Word16 → Bool) (o : Answer) (s : State) : State :=
  (List.range Config.cueSlots).foldl (refuseSlot p o) s

/-- BAD NUMBER, then STALE (01 R9 steps 1 and 2). -/
def State.scanRefuse (s : State) : State :=
  (s.refuseAll (· == 0) .badNumber).refuseAll (isBehind s.cues.expected) .stale

/-! ### Takes (01 R9 steps 3 to 5, R12, R13) -/

/-- The cue's execution by the owning block, with the block's own checks (01 R13 steps 5 and 6). -/
def executeCue : CueKind → (k : Nat) → List Byte → State → State
  | .mark => cueMark
  | .loadScene => cueLoadScene
  | .vacateScene => cueVacateScene
  | .go => cueGo
  | .trim => cueTrim
  | .clearStatus => cueClearStatus
  | .loadMicTable => cueLoadMicTable
  | .setGuard => cueSetGuard
  | .fixNotch => cueFixNotch
  | .clearNotch => cueClearNotch
  | .clearGuard => cueClearGuard
  | .lock => cueLock
  | .unlock => cueUnlock
  | .setKey => cueSetKey

/-- The checks of a take copy in their order, and the dispatch (01 R13). -/
def dispatchCue (k : Nat) (bs : List Byte) (s : State) : State :=
  if checkSum bs ≠ 0 then s.answer k bs .check 0
  else match cueKindOf (u8 bs 1) with
    | none => s.answer k bs .unknown 0
    | some kind =>
      if s.lock.locked && kind.isProtected then s.answer k bs .locked 0
      else if kind = .go ∧ s.mode.mode = .stopped then s.answer k bs .mode 0
      else executeCue kind k bs s

/-- E advances by 1 (01 R8). -/
def State.advanceE (s : State) : State := s.setCues { s.cues with expected := nextNumber s.cues.expected }

/-- The take: copy, state TAKEN, E (01 R9 step 4). -/
def State.takeCopy (s : State) (k : Nat) : State :=
  ((s.setCues { s.cues with held := s.cues.held.set k (some (cueBytes s.ram k)), tookNow := true }).setRam
    (writeBytes s.ram (Config.cueSlotBase k) [2])).advanceE

/-- The expected candidate's turn: taken, checked and dispatched, or answered STALE when its number is that of a cue still
held (01 R9, R12, R13). -/
def State.takeSlot (s : State) (k : Nat) : State :=
  if s.holdsNumber s.cues.expected then (s.answer k (cueBytes s.ram k) .stale 0).advanceE
  else dispatchCue k (cueBytes s.ram k) (s.takeCopy k)

/-- One of the four takes of a frame boundary; when no candidate holds E the scan is over (01 R9 step 5, log 22). -/
def State.takeNext (s : State) : State :=
  match s.expectedSlot with
  | some k => s.takeSlot k
  | none => s.dropWork .take

/-! ### The gap timer (01 R11) -/

/-- The distance of an ahead number from E (01 R8). -/
def distance (expected c : Word16) : Nat := (c - expected).toNat

/-- The numbers of the candidates ahead of E. -/
def State.waiting (s : State) : List Word16 :=
  ((List.range Config.cueSlots).filter s.isCandidate).map (cueNumber s.ram) |>.filter (isAhead s.cues.expected)

/-- The waiting number with the smallest distance from E. -/
def lowestWaiting (expected : Word16) : List Word16 → Option Word16
  | [] => none
  | c :: rest => match lowestWaiting expected rest with
    | none => some c
    | some d => if distance expected d < distance expected c then some d else some c

/-- A gap timer of a value. -/
def State.setGap (s : State) (n : Nat) : State := s.setCues { s.cues with gapTimer := n }

/-- The gap timer's work at a frame boundary, once the scan is done (01 R11). -/
def State.gapStep (s : State) : State :=
  if s.cues.tookNow || s.expectedSlot.isSome then s.setGap 0
  else match lowestWaiting s.cues.expected s.waiting with
    | none => s.setGap 0
    | some c =>
      if Config.gapLength ≤ s.cues.gapTimer + 1 then
        (s.setGap 0).raise .cueGap (s.cues.expected.toNat + 65536 * c.toNat)
      else s.setGap (s.cues.gapTimer + 1)

end Sys2Proof.Machine
end

