-- ==== Sys2Proof/Machine/Lanes.lean ====
section
/-! DEFINITION. The audio lanes (07 R144 to R149): the receivers, their stores, the samples handed to conditioning, the
lanes' work at a frame boundary, and the frames the output lanes send. -/

namespace Sys2Proof.Machine

/-! ### Receivers (07 R145, R146) -/

/-- The receiver hunts, with no bit seen yet. -/
def Framing.fresh : Framing := .hunting 0 0

/-- A LOCKED lane is lost: SEEKING, count 0, store emptied, loss mark set (07 R145, R148). -/
def InputLane.lose (_l : InputLane) : InputLane := ⟨false, 0, .fresh, [], none, true⟩

/-- A sync word judged good or bad at the lane's framing, or a take from an empty store judged bad (07 R145). -/
def InputLane.judgeSync (good : Bool) (l : InputLane) : InputLane :=
  if l.locked then
    if good then { l with count := 0 }
    else if 2 ≤ l.count + 1 then l.lose
    else { l with count := l.count + 1 }
  else if good then
    if 4 ≤ l.count + 1 then { l with locked := true, count := 0, lastGood := none }
    else { l with count := l.count + 1 }
  else { l with count := 0, framing := .fresh }

/-- A lane frame whose 216 bits read as a number, as it enters a store (07 R144, R146). -/
def LaneFrame.ofBits (bits : Nat) : LaneFrame := ⟨bits / 2 ^ 192 == Config.syncWord, frameSamples bits⟩

/-- A complete lane frame enters the store of a LOCKED lane at the back; a full store loses its front (07 R146). -/
def InputLane.enter (frame : LaneFrame) (l : InputLane) : InputLane :=
  if l.locked then { l with store := l.store.drop (l.store.length + 1 - Config.storeDepth) ++ [frame] } else l

/-- One bit of the stream (07 R145). -/
def InputLane.receive (l : InputLane) (b : Bool) : InputLane :=
  match l.framing with
  | .hunting seen bits =>
    let bits := (2 * bits + bit b) % 16777216
    if 24 ≤ seen + 1 && bits == Config.syncWord then { l with framing := .framed 24 bits, count := 1 }
    else { l with framing := .hunting (min 24 (seen + 1)) bits }
  | .framed n bits =>
    let bits := 2 * bits + bit b
    if n + 1 = 24 then { l with framing := .framed 24 bits }.judgeSync (bits == Config.syncWord)
    else if Config.laneFrameBits ≤ n + 1 then { l with framing := .framed 0 0 }.enter (.ofBits bits)
    else { l with framing := .framed (n + 1) bits }

/-! ### Takes (07 R146, R147) -/

/-- Samples of 0 at every position. -/
def silentFrame : List Int := List.replicate 8 0

/-- A lane's take of one sample period: the eight samples handed to conditioning, and the lane after it. With no good frame
taken since the lane locked there is none to repeat, and 0 is handed: R147 says so of a bad frame; that an empty take does the
same is the model's reading (DEDUCED, log 31). -/
def InputLane.take (l : InputLane) : List Int × InputLane :=
  if l.locked then
    match l.store with
    | [] =>
      let l' := l.judgeSync false
      (if l'.locked then l.lastGood.getD silentFrame else silentFrame, l')
    | f :: rest =>
      if f.good then (f.samples, { l with store := rest, lastGood := some f.samples })
      else (l.lastGood.getD silentFrame, { l with store := rest })
  else (silentFrame, l)

/-- The takes of all lanes: the 48 samples handed to conditioning, and the state after (07 R146, R147). -/
def State.takeLanes (s : State) : List Int × State :=
  let r := s.lanes.map InputLane.take
  (r.flatMap (·.1), s.setLanes (r.map (·.2)))

/-! ### Frame boundaries (07 R148) -/

/-- A lane is down at a frame boundary: not LOCKED there, or lost since the last. -/
def InputLane.down (l : InputLane) : Bool := !l.locked || l.lost

/-- A lane by its number. -/
def State.lane (s : State) (i : Nat) : InputLane := s.lanes.getD i .reset

/-- A lane carries a microphone marked present. -/
def State.carriesPresent (s : State) (i : Nat) : Bool := (List.range 8).any fun p => (s.mic (8 * i + p)).present

/-- The mask of the down lanes that carry a present microphone. -/
def State.downMask (s : State) : Nat :=
  ((List.range Config.inputLanes).map fun i => bit ((s.lane i).down && s.carriesPresent i) * 2 ^ i).sum

/-- The lanes' work at a frame boundary: persistence counts of lost lanes, LANE DOWN, loss marks (06 R129, 07 R148). LANE DOWN
is judged once: where it held before and holds still it goes on, with no end and no start (DEDUCED, log 32). -/
def State.lanesStep (s : State) : State :=
  let s1 := s.setMics (s.mics.mapIdx fun m x => if (s.lane (m / 8)).lost then { x with persistence := 0 } else x)
  (s1.judge .laneDown (0 < s.downMask) s.downMask).setLanes (s.lanes.map fun l => { l with lost := false })

/-! ### Output lanes (07 R144, R149) -/

/-- The 216 bits output lane `k` sends in the present sample period; none while the reset pin is held. -/
def State.outputFrame (s : State) (k : Nat) : List Bool :=
  if s.resetHeld then []
  else numberBits 24 Config.syncWord ++
    ((s.outputs.sent.drop (8 * k)).take 8).flatMap fun v => numberBits 24 (v % 16777216).toNat

end Sys2Proof.Machine
end

