-- ==== Sys2Proof/Machine/Clock.lean ====
section
/-! DEFINITION. The sample clock (07 R151 to R157): the word clock detector, clock states, source changes, RESYNC and the
resync ramp. -/

namespace Sys2Proof.Machine

/-! ### Ramps and the condition -/

/-- A ramp of 64 steps, or none when it starts at its target (07 R155, R160). -/
def rampToward (start stop : Nat) : Option Glide :=
  if start = stop then none else some (.begin start stop Config.rampSteps)

/-- CLOCK HOLDOVER holds (07 R152). -/
def Clock.holdsOver (c : Clock) : Bool :=
  c.external && (match c.state with
    | .holdover | .held => true
    | .resync => c.destination == some .wordClock
    | .internal | .following => false)

/-- The clock tells the attention block of CLOCK HOLDOVER (07 R152, log 20). -/
def State.judgeClock (s : State) : State := s.judge .clockHoldover s.clock.holdsOver 0

/-! ### The detector (07 R151, R153, R156) -/

/-- From 0.9 to 1.1 crystal periods. -/
def goodInterval (i : Interval) : Bool := 9 * i.den ≤ 10 * i.num && 10 * i.num ≤ 11 * i.den
/-- Outside 0.5 to 1.5 crystal periods. -/
def wildInterval (i : Interval) : Bool := 2 * i.num < i.den || 3 * i.den < 2 * i.num

/-- The word clock becomes absent (07 R151, R153, R156). -/
def Clock.becomeAbsent (c : Clock) : Clock :=
  let c' := { c with present := false, good := 0 }
  if c.present then
    match c.state with
    | .following | .held => { c' with state := .holdover }
    | .resync => { c' with
        state := if c.destination == some Destination.wordClock then .holdover else .internal
        destination := none, turnUp := true }
    | .internal | .holdover => c'
  else c'

/-- The word clock becomes present (07 R151, R153). -/
def Clock.becomePresent (c : Clock) : Clock :=
  { c with present := true, good := 0, state := if c.state = .holdover then .held else c.state }

/-- An interval between two rising edges reaches the detector (07 R151). -/
def Clock.see (c : Clock) (i : Interval) : Clock :=
  if c.present then if wildInterval i then c.becomeAbsent else c
  else if goodInterval i then
    if Config.goodIntervals ≤ c.good + 1 then c.becomePresent else { c with good := c.good + 1 }
  else { c with good := 0 }

/-! ### The resync ramp (07 R155, R156) -/

/-- One step of the resync ramp. -/
def Clock.stepRamp (c : Clock) : Clock :=
  match c.ramp with
  | none => c
  | some g => { c with factor := g.next.1.toNat, ramp := g.next.2 }

/-- An up ramp starts from the factor as it stands. -/
def Clock.turn (c : Clock) : Clock := { c with ramp := rampToward c.factor Config.fullLevel, turnUp := false }

/-- The sample clock switches to the destination, and the up ramp starts (07 R155 steps 2 and 3). -/
def Clock.switch (c : Clock) : Clock :=
  { c with state := if c.destination == some Destination.wordClock then .following else .internal, destination := none }.turn

/-- A resynchronization begins (07 R155 step 1). -/
def Clock.resynchronize (d : Destination) (c : Clock) : Clock :=
  { c with state := .resync, destination := some d, ramp := rampToward c.factor 0, turnUp := false }

/-- The resync ramp's work at a frame boundary. -/
def Clock.rampWork (c : Clock) : Clock :=
  let c' := c.stepRamp
  if c.turnUp then c'.turn else if c'.state = .resync && c'.ramp.isNone then c'.switch else c'

/-- The resync ramp's work, with the end of CLOCK HOLDOVER at a switch. -/
def State.resyncStep (s : State) : State := (s.setClock s.clock.rampWork).judgeClock

/-! ### Source changes and RESYNC (07 R152, R154, R156, R157) -/

/-- A source change meets the clock state; a change in RESYNC has already made the down ramp's step. -/
def Clock.changeSource (external : Bool) (c : Clock) : Clock :=
  let c' := { c with external := external }
  match c.state with
  | .internal => if c.present then c'.resynchronize .wordClock else { c' with state := .holdover }
  | .following => c'.resynchronize .crystal
  | .holdover | .held => { c' with state := .internal }
  | .resync => { c' with state := if external then .following else .internal, destination := none }.turn

/-- The ramp's step of this frame boundary comes before the clock turns the ramp: in RESYNC without a switch (07 R155,
R156). -/
def State.settleRamp (s : State) : State :=
  if s.clock.state = .resync then s.onDue .resyncRamp fun s => s.setClock s.clock.stepRamp
  else s.onDue .resyncRamp State.resyncStep

/-- CLOCK HOLDOVER is judged after a request. A down ramp that starts at 0 has reached 0, so the switch is made at once, and
CLOCK HOLDOVER is judged again: where the resynchronization started it, it starts and ends at this frame boundary (07 R155,
R157, R160; DEDUCED, log 20). -/
def State.settleClock (s : State) : State :=
  let s := s.judgeClock
  if s.clock.state = .resync ∧ s.clock.factor = 0 then (s.setClock s.clock.switch).judgeClock else s

/-- A source written since the last frame boundary is taken (07 R152, R157). -/
def State.takeSource (s : State) : State :=
  match s.clock.newSource with
  | some external =>
    if external ≠ s.clock.external then
      let s := s.settleRamp
      (s.setClock (s.clock.changeSource external)).settleClock
    else s
  | none => s

/-- A RESYNC written since the last frame boundary is taken: it acts in HELD alone (07 R154). -/
def State.takeResync (s : State) : State :=
  if s.clock.newResync && s.clock.state == .held then
    let s := s.settleRamp
    (s.setClock (s.clock.resynchronize .wordClock)).settleClock
  else s

/-- The clock's work at a frame boundary: CLOCK HOLDOVER as the frame left it, the source, then RESYNC (07 R152, R153). -/
def State.takeClock (s : State) : State :=
  let s := s.judgeClock.takeSource.takeResync
  s.setClock { s.clock with newSource := none, newResync := false }

end Sys2Proof.Machine
end

