-- ==== Sys2Proof/Machine/Mode.lean ====
section
/-! DEFINITION. Mode control (07 R159 to R162): the taking of a mode request, the mode ramp and its end. -/

namespace Sys2Proof.Machine

/-- A mode ramp has ended: a STOPPED ramp's end, with the mode still STOPPED, halts the network and tells the changeover
unit (07 R162, 05 R114). -/
def State.endModeRamp (s : State) : State :=
  if s.mode.rampStops && s.mode.mode == .stopped then (s.setMode { s.mode with halted := true }).stopChangeovers else s

/-- One step of the mode ramp (07 R160). -/
def State.modeStep (s : State) : State :=
  match s.mode.ramp with
  | none => s
  | some g =>
    let s' := s.setMode { s.mode with factor := g.next.1.toNat, ramp := g.next.2 }
    if g.next.2.isNone then s'.endModeRamp else s'

/-- The level a mode's ramp goes to (07 R160). -/
def EngineMode.level : EngineMode → Nat
  | .active => Config.fullLevel
  | .dry | .stopped => 0

/-- Mode control after a request: the mode, its ramp, the halt (07 R159, R160, R162). -/
def ModeControl.accept (m : EngineMode) (c : ModeControl) : ModeControl :=
  { mode := m, factor := c.factor, ramp := rampToward c.factor m.level, rampStops := m == .stopped
    halted := c.halted && m == .stopped, request := none }

/-- A mode written since the last frame boundary is taken. A ramp in progress makes its step first, under the mode taken: the
last step of a STOPPED ramp that ACTIVE or DRY meets here ends no STOPPED ramp (07 R162). A mode that leaves ACTIVE clears the
persistence counts (06 R125, 07 R159, R160). The page's engine mode field is written, also for the mode already held (07 R159). -/
def State.takeMode (s : State) : State :=
  match s.mode.request with
  | none => s
  | some m =>
    let s := if s.mode.mode = .active && m != .active then s.clearPersistence else s
    let s := ((s.setMode { s.mode with mode := m }).markField 0x002).onDue .modeRamp State.modeStep
    let s := s.setMode (s.mode.accept m)
    if s.mode.ramp.isNone then s.endModeRamp else s

end Sys2Proof.Machine
end

