-- ==== Sys2Proof/Machine/Publish.lean ====
section
/-! DEFINITION. What the engine writes into common memory for the host to read: the engine page (01 R5, Formats, 09 R176), the
mirrors (09 R180) and the meters (09 R177 to R179). -/

namespace Sys2Proof.Machine

/-! ### Codes (01 Formats) -/

def EngineMode.code : EngineMode → Nat
  | .stopped => 0 | .active => 1 | .dry => 2
def ClockState.code : ClockState → Nat
  | .internal => 0 | .following => 1 | .holdover => 2 | .held => 3 | .resync => 4
def SlotState.code : SlotState → Nat
  | .vacant => 0 | .loading => 1 | .ready => 2 | .faulted => 3 | .live => 4 | .outgoing => 5
def EngineState.code : EngineState → Nat
  | .free => 0 | .assigned => 1 | .draining => 2 | .scrubbing => 3
def Phase.code : Phase → Nat
  | .prepare => 0 | .claim => 1 | .out => 2 | .in_ => 3 | .fade => 4
def NotchKind.code : NotchKind → Nat
  | .free => 0 | .floating => 1 | .fixed => 2

/-- One byte. -/
def byte (n : Nat) : List Byte := leBytes 1 n

/-! ### Fields and entries -/

/-- A notice record without its fixed bytes (01 Formats). -/
def noticeFields (i : Nat) (n : Notice) : List (Nat × List Byte) :=
  [(0x100 + 16 * i, byte (bit n.pending)), (0x101 + 16 * i, byte n.count), (0x104 + 16 * i, leBytes 4 n.detail.toNat),
   (0x108 + 16 * i, leBytes 4 n.stamp.toNat)]

/-- A scene slot table entry (02 R20). -/
def Slot.entryBytes (k : Slot) : List Byte :=
  byte k.state.code ++ byte k.shownSizes.1 ++ byte k.flags.byte ++ [0] ++ leBytes 2 k.shownSizes.2 ++ [0, 0]

/-- A line engine table entry (03 R46). -/
def Engine.entryBytes (e : Engine) : List Byte := byte e.state.code ++ byte (e.owner.getD 255)

/-- The transition record as mirrored (05 R91). -/
def transitionBytes : Option Transition → List Byte
  | none => List.replicate 32 0
  | some t =>
    let style := match t.style with
      | none => 255
      | some .overlap => 0
      | some .sequential => 1
    byte 1 ++ byte (t.target.getD 255) ++ byte (t.source.getD 255) ++ byte style ++ byte t.phase.code ++ byte t.cueSlot
      ++ leBytes 2 t.fade ++ leBytes 2 t.position ++ byte t.cuts.length
      ++ (List.range 7).flatMap (fun i => byte (t.cuts.getD i 255)) ++ List.replicate 14 0

/-- A notch pool entry (06 R143). -/
def Notch.entryBytes (n : Notch) : List Byte :=
  byte n.kind.code ++ byte n.mic ++ leBytes 2 n.bin ++ leBytes 2 n.depth ++ leBytes 2 n.hold
    ++ leBytes 4 n.stamp.toNat ++ List.replicate 4 0

/-- A microphone's guard state (06 R143). -/
def Mic.entryBytes (m : Mic) : List Byte :=
  byte m.persistence ++ [0] ++ leBytes 2 m.persistenceBin ++ leBytes 2 m.phi ++ leBytes 2 m.quiet

/-- tau, epsilon and beta (04 R86, R87; 06 R137; 09 R177). -/
def State.settingBytes (s : State) : List Byte :=
  leBytes 2 (twos16 s.coef.tau) ++ leBytes 2 (twos16 s.coef.epsilon) ++ leBytes 2 s.guard.beta

/-- Every engine page field and mirror entry with the bytes that show the state. -/
def State.view (s : State) : List (Nat × List Byte) :=
  [(0x000, leBytes 2 s.cues.expected.toNat), (0x002, byte s.mode.mode.code), (0x004, leBytes 2 s.muteFactor),
   (0x006, byte (bit s.clock.external)), (0x007, byte s.clock.state.code)]
  ++ s.lanes.mapIdx (fun i l => (0x008 + i, byte (bit l.locked)))
  ++ [(0x00E, byte (bit s.lock.locked)), (0x00F, byte (bit s.lock.key.isSome)), (0x010, byte s.lock.failures),
      (0x012, leBytes 2 s.lock.lockout), (0x014, leBytes 4 s.frame.toNat)]
  ++ (s.att.notices.mapIdx noticeFields).flatten
  ++ s.slots.mapIdx (fun k x => (0x02000 + 8 * k, x.entryBytes))
  ++ s.engines.mapIdx (fun e x => (0x02040 + 2 * e, x.entryBytes))
  ++ [(0x02080, transitionBytes s.trans)]
  ++ s.guard.pool.mapIdx (fun n x => (0x020A0 + 16 * n, x.entryBytes))
  ++ s.mics.mapIdx (fun m x => (0x021A0 + 8 * m, x.entryBytes))
  ++ [(0x02320, s.settingBytes)]

/-- Writes the entries that have changed since the last writing, or that differ from what was written then (01 R5, 07 R148,
R152, 09 R176, R180, log 10). -/
def writeChanged (changed : Nat) : (old new : List (Nat × List Byte)) → List Host.Cell → List Host.Cell
  | _, [], ram => ram
  | [], n :: new, ram => writeChanged changed [] new (writeBytes ram n.1 n.2)
  | o :: old, n :: new, ram =>
    writeChanged changed old new (if o = n ∧ changed.testBit n.1 = false then ram else writeBytes ram n.1 n.2)

/-- The end of a frame boundary: the filters form their coefficients, the analysis buffers keep their 1024 samples, and
the engine page and mirrors are written where they changed (01 R5, 06 R120, R121, 09 R176, R180). -/
def State.publish (s : State) : State :=
  let s := s.setGuard { s.guard with pool := s.guard.pool.map Notch.formWords }
  let s := s.setMics (s.mics.map fun m => { m with buffer := m.buffer.take Config.analysisLength })
  ((s.setRam (writeChanged s.changed s.shown s.view s.ram)).setShown s.view).setChanged 0

/-! ### The page and mirrors after a reset (01 R5, 09 R176, R180) -/

/-- The level and kind bytes of the notice records (01 Formats, 09 R176). -/
def fixedNoticeBytes : List (Nat × List Byte) :=
  sourceTable.mapIdx fun i t => (0x102 + 16 * i, byte t.1 ++ byte (bit t.2))

/-- Writes a list of fields. -/
def writeFields (fields : List (Nat × List Byte)) (ram : List Host.Cell) : List Host.Cell :=
  fields.foldl (fun ram f => writeBytes ram f.1 f.2) ram

/-- Rewrites the whole engine page and mirror area with the state's values, and 0 elsewhere in them. -/
def State.rewrite (s : State) : State :=
  (s.setRam (writeFields s.view (writeFields fixedNoticeBytes
    (sparseClear 0x02000 0x04000 (sparseClear 0x00000 0x01000 s.ram))))).setShown s.view

/-! ### Meters (09 R177 to R179) -/

/-- A level of the meters as its field. -/
def levelBytes (level : Int) : List Byte := leBytes 2 (twos16 level)

/-- A microphone's meter entry (09 R178). -/
def micMeter (peak squares periods : Nat) : List Byte := levelBytes (peakLevel peak) ++ levelBytes (rmsLevel squares periods)

/-- A speaker's meter entry (09 R179). -/
def speakerMeter (peak clips : Nat) : List Byte := levelBytes (peakLevel peak) ++ leBytes 2 clips

/-- The whole meter area's bytes, in the order of R177. -/
def State.meterBytes (s : State) : List (Nat × List Byte) :=
  [(0x04000, (List.zipWith (fun p q => micMeter p q s.meters.periods) s.meters.micPeaks s.meters.micSquares).flatten),
   (0x040C0, (List.zipWith speakerMeter s.meters.speakerPeaks s.net.clips).flatten),
   (0x042C0, s.settingBytes), (0x042C8, leBytes 4 s.frame.toNat)]

/-- The meter write (09 R177). -/
def State.metersStep (s : State) : State := (s.setRam (writeFields s.meterBytes s.ram)).setMeters .reset

/-- A sample period's conditioned samples `xs` and output samples join the collections (09 R177). -/
def Meters.collect (xs outputs : List Int) (m : Meters) : Meters :=
  { micPeaks := List.zipWith (fun p (x : Int) => max p x.natAbs) m.micPeaks xs
    micSquares := List.zipWith (fun q (x : Int) => q + x.natAbs ^ 2) m.micSquares xs
    speakerPeaks := List.zipWith (fun p (x : Int) => max p x.natAbs) m.speakerPeaks outputs
    periods := m.periods + 1 }

end Sys2Proof.Machine
end

