-- ==== Sys2Proof/Machine/Boundary.lean ====
section
/-! DEFINITION. A frame boundary (07 R150, 00 "Where time comes from"): which works are due, in what order they may be done
(log 1), and what each does. -/

namespace Sys2Proof.Machine

/-! ### The completion of a computation (04 R82) -/

/-- The loader is told, when the completed computation is that of the load it holds and took the loader's request (02 R33, 04
R82, R83; log 30). -/
def State.tellLoader (s : State) (c : Computation) : State := if c.loader && c.full then s.completeLoad else s

/-- The changeover unit is told, when it still waits (05 R97). -/
def State.tellChangeover (s : State) (c : Computation) : State := if c.changeover then s.plan else s

/-- The completion: results, requesters, pick (04 R82). -/
def State.complete (s : State) : State :=
  match s.coef.underWay with
  | none => s
  | some c =>
    let s := ((s.applyResults c).tellLoader c).tellChangeover c
    (s.setCoef { s.coef with underWay := none }).pick

/-! ### The works (log 1) -/

/-- What a work does. -/
def State.perform (w : Work) (s : State) : State :=
  match w with
  | .refuse => s.scanRefuse
  | .take => s.takeNext
  | .gap => s.gapStep
  | .copy => s.loaderStep
  | .compute => s.complete
  | .fade => s.fadeStep
  | .claim => s.tryClaim
  | .tail k => s.tailStep k
  | .scrub e => s.scrubStep e
  | .lockout => s.lockoutStep
  | .lanes => s.lanesStep
  | .modeRamp => s.modeStep
  | .modeTake => s.takeMode
  | .resyncRamp => s.resyncStep
  | .clockTake => s.takeClock
  | .analysis => s.beginAnalysis
  | .hold n => s.holdStep n
  | .quiet m => s.quietStep m
  | .deviceQuiet => s.deviceQuietStep
  | .betaRequest => s.betaRequestStep
  | .meters => s.metersStep
  | .decayGlide e b => s.onEngine e (Engine.stepGlide b)
  | .epsGlide => s.setCoef s.coef.stepEpsilon
  | .trimGlide m => s.onMic m Mic.stepTrim
  | .fallbackGlide m => s.onMic m Mic.stepFallback
  | .depthGlide n => s.setGuard { s.guard with pool := s.guard.pool.modify n Notch.stepDepth }
  | .publish => s.publish

/-- Stages 5 to 8 of an analysis (06 R126). -/
def isStage : Work → Bool
  | .hold _ | .quiet _ | .deviceQuiet | .betaRequest => true
  | _ => false

/-- The works that come before `w` at this frame boundary: the rest of an analysis in progress before anything else (06
R126), refusals before takes, takes before the gap timer (01 R9, R11). -/
def State.worksBefore (s : State) (w : Work) : List Work :=
  let stages := s.todo.filter isStage
  if isStage w then stages.takeWhile (· != w)
  else stages ++ (if w == Work.take || w == Work.gap then [Work.refuse] else [])
    ++ (if w == Work.gap then List.replicate Config.takesPerBoundary Work.take else [])

/-- Does a work if it is still due. -/
def State.doOne (s : State) (w : Work) : State := s.onDue w (State.perform w)

/-- Does a work that is still due, and first what comes before it. The publication waits until it is the last. -/
def State.doWork (s : State) (w : Work) : State :=
  if w ∈ s.todo then
    if w = .publish ∧ s.todo ≠ [.publish] then s else (s.worksBefore w ++ [w]).foldl State.doOne s
  else s

/-- Does the works that are still due, in the order they are listed. -/
def State.runAll : (fuel : Nat) → State → State
  | 0, s => s
  | n + 1, s => match s.todo with
    | [] => s
    | w :: _ => State.runAll n (s.doWork w)

/-- Does all works that are still due; a frame boundary has fewer than 1024. -/
def State.settle (s : State) : State := s.runAll 1024

/-! ### Which works are due at a frame boundary -/

/-- A work due under a condition. -/
def dueIf (c : Bool) (w : Work) : List Work := if c then [w] else []

/-- The decay glides in progress (04 R84). -/
def State.decayGlidesDue (s : State) : List Work :=
  (s.engines.mapIdx fun e x => allBands.flatMap fun b => dueIf (x.glides.get b).isSome (.decayGlide e b)).flatten

/-- The glides and ramps in progress (04 R84, R87; 06 R119, R121, R122; 07 R155, R160). -/
def State.glidesDue (s : State) : List Work :=
  dueIf s.mode.ramp.isSome .modeRamp ++ dueIf (s.clock.ramp.isSome || s.clock.turnUp) .resyncRamp
  ++ s.decayGlidesDue ++ dueIf s.coef.epsilonGlide.isSome .epsGlide
  ++ (s.mics.mapIdx fun m x => dueIf x.trimGlide.isSome (.trimGlide m)).flatten
  ++ (s.mics.mapIdx fun m x => dueIf x.fallbackGlide.isSome (.fallbackGlide m)).flatten
  ++ (s.guard.pool.mapIdx fun n x => dueIf x.filter.glide.isSome (.depthGlide n)).flatten

/-- A phase that steps its fade (05 R103). -/
def Transition.fading (t : Transition) : Bool := match t.phase with
  | .fade | .out | .in_ => true
  | .prepare | .claim => false

/-- The loader copies (02 R24). -/
def LoadRecord.copying (l : LoadRecord) : Bool := l.phase == .copying

/-- The works of scrubs, tails, changeover, computation, load and lockout (03 R53, 05 R101, R103, R110, R111, 04 R82, 02
R24, 08 R169). -/
def State.stepsDue (s : State) : List Work :=
  (s.engines.mapIdx fun e x => dueIf (x.state == .scrubbing) (.scrub e)).flatten
  ++ s.tails.map (fun t => .tail t.slot)
  ++ dueIf (s.trans.any Transition.fading) .fade
  ++ dueIf (s.coef.underWay.any fun c => c.start + 2 == s.frame) .compute
  ++ dueIf (s.loader.any LoadRecord.copying) .copy
  ++ dueIf (s.trans.any fun t => t.phase == .claim) .claim
  ++ dueIf (decide (0 < s.lock.lockout)) .lockout

/-- All works of the frame boundary whose frame counter stands in `s`, in the order in which they are done unless the
command says otherwise (log 1). -/
def State.worksDue (s : State) : List Work :=
  s.glidesDue ++ s.stepsDue ++ [.modeTake, .clockTake, .lanes]
  ++ dueIf (s.frame.toNat % Config.analysisPeriod == 0) .analysis
  ++ [.refuse] ++ List.replicate Config.takesPerBoundary .take ++ [.gap]
  ++ dueIf (s.frame.toNat % Config.meterPeriod == 0) .meters ++ [.publish]

/-! ### The frame boundary (07 R150) -/

/-- The frame boundary begins: works left from the last are done, the frame counter advances, the works fall due. -/
def State.openBoundary (s : State) : State :=
  let s := s.settle
  let s := ((s.setFrame (s.frame + 1)).setFramePos 0).setCues { s.cues with tookNow := false }
  s.setTodo s.worksDue

/-- The frame's 64 sample periods are over: the frame boundary comes before anything else of the sample clock (07 R150). -/
def State.frameOver (s : State) : Bool := Config.frameLength ≤ s.framePos

/-- A frame boundary with the works of `order` done first, in that order; with `leave` the others stay due. -/
def State.boundary (s : State) (order : List Work) (leave : Bool) : State :=
  let s := order.foldl State.doWork s.openBoundary
  if leave then s else s.settle

end Sys2Proof.Machine
end

