-- ==== Sys2Proof/Machine/Audio.lean ====
section
/-! DEFINITION. Sample periods, lane frames and the word clock input (03 R57, 07 R144 to R153). -/

namespace Sys2Proof.Machine

/-- What comes before a sample period: the works still due of the last frame boundary, or, after 64 sample periods, the whole
frame boundary that ends the 64th (07 R150; log 2). -/
def State.beforeSample (s : State) : State := if s.frameOver then s.boundary [] false else s.settle

/-- One sample period: the lanes are taken, the microphones conditioned, the network run, the samples metered; the output
lanes send what the period before formed (03 R57, R66 to R68; 06 R120; 07 R146, R147, R149; 09 R177). -/
def State.samplePeriod (first : Nat) (s : State) : State :=
  let s := s.beforeSample
  let taken := s.takeLanes
  let conditioned := taken.2.condition taken.1
  let s := conditioned.2.setOutputs { conditioned.2.outputs with sent := conditioned.2.outputs.formed }
  let s := s.networkStep first conditioned.1
  (s.setMeters (s.meters.collect conditioned.1 s.outputs.formed)).setFramePos (s.framePos + 1)

/-- SAMPLE_PERIOD (03 R57). -/
def execSamplePeriod (first : Nat) (s : State) : Outcome :=
  s.forUnit (first < Config.speakers) (State.samplePeriod first)

/-- INPUT_LANE_FRAME: bits reach a lane's receiver (07 R145). Among works of one frame boundary that are still due, the works
done later see the lane as this leaves it (R148; DESIGN CHOICE, log 35). -/
def execInputLaneFrame (lane : Nat) (bits : List Bool) (s : State) : Outcome :=
  s.forUnit (lane < Config.inputLanes) fun s => s.setLanes (s.lanes.modify lane fun l => bits.foldl InputLane.receive l)

/-- WORD_CLOCK_ABSENT: no edge for 4 crystal periods, or an interval between two edges (07 R151, R153, R156).
Works of a frame boundary that are still due see the clock as this leaves it (DESIGN CHOICE, log 35). -/
def execWordClockAbsent (cause : AbsenceCause) (s : State) : Outcome :=
  s.released fun s => match cause with
    | .silence => s.setClock s.clock.becomeAbsent
    | .interval i => s.setClock (s.clock.see i)

/-- WORD_CLOCK_PRESENT: intervals between edges reach the detector (07 R151, R153). Works of a frame boundary that are
still due see the clock as this leaves it (DESIGN CHOICE, log 35). -/
def execWordClockPresent (intervals : List Interval) (s : State) : Outcome :=
  s.released fun s => s.setClock (intervals.foldl Clock.see s.clock)

end Sys2Proof.Machine
end

