-- ==== Sys2Proof/Machine/CueRows.lean ====
section
/-! DEFINITION. The cue rows of the table: the scan's take of the cue that stands in a named cue table slot (01 R9, R13; log
3). -/

namespace Sys2Proof.Machine

/-- The scan takes the cue of kind byte `code` in cue table slot `k`: a take is still due at this frame boundary, the
refusals come first, and the slot is the one whose turn it is. Otherwise nothing happens (log 3, log 24). -/
def State.takeRow (k code : Nat) (s : State) : State :=
  if .take ∈ s.todo then
    let s' := (s.worksBefore .take).foldl State.doOne s
    if s'.expectedSlot = some k ∧ u8 (cueBytes s'.ram k) 1 = code then s'.doOne .take else s
  else s

/-- A cue row's meaning. -/
def State.cueRow (s : State) (k code : Nat) : Outcome := s.forUnit (k < Config.cueSlots) (State.takeRow k code)

/-- MARK (01 R17). -/
def execMark (slot : Nat) (s : State) : Outcome := s.cueRow slot 0x01
/-- LOAD_SCENE (02 R21, R22). -/
def execLoadScene (slot : Nat) (s : State) : Outcome := s.cueRow slot 0x11
/-- VACATE_SCENE (02 R34, R35). -/
def execVacateScene (slot : Nat) (s : State) : Outcome := s.cueRow slot 0x12
/-- GO (05 R94). -/
def execGo (slot : Nat) (s : State) : Outcome := s.cueRow slot 0x21
/-- TRIM (04 R89). -/
def execTrim (slot : Nat) (s : State) : Outcome := s.cueRow slot 0x22
/-- CLEAR_STATUS (04 R78). -/
def execClearStatus (slot : Nat) (s : State) : Outcome := s.cueRow slot 0x23
/-- LOAD_MIC_TABLE (06 R118). -/
def execLoadMicTable (slot : Nat) (s : State) : Outcome := s.cueRow slot 0x31
/-- SET_GUARD (06 R124). -/
def execSetGuard (slot : Nat) (s : State) : Outcome := s.cueRow slot 0x32
/-- FIX_NOTCH (06 R139). -/
def execFixNotch (slot : Nat) (s : State) : Outcome := s.cueRow slot 0x33
/-- CLEAR_NOTCH (06 R140). -/
def execClearNotch (slot : Nat) (s : State) : Outcome := s.cueRow slot 0x34
/-- CLEAR_GUARD (06 R141). -/
def execClearGuard (slot : Nat) (s : State) : Outcome := s.cueRow slot 0x35
/-- LOCK (08 R167). -/
def execLock (slot : Nat) (s : State) : Outcome := s.cueRow slot 0x41
/-- UNLOCK (08 R168). -/
def execUnlock (slot : Nat) (s : State) : Outcome := s.cueRow slot 0x42
/-- SET_KEY (08 R166). -/
def execSetKey (slot : Nat) (s : State) : Outcome := s.cueRow slot 0x43

end Sys2Proof.Machine
end

