-- ==== Sys2Proof/Machine/Events.lean ====
section
/-! DEFINITION. The block events of a frame boundary. Each does its block's work of the present frame boundary when that work
is still due and is the event the row names; otherwise nothing happens (log 1, log 24). -/

namespace Sys2Proof.Machine

/-- A glide's next step is its last. -/
def lastStep (g : Option Glide) : Bool := g.any fun g => decide (g.length ≤ g.step + 1)

/-- The work `w` is done as the event that `c` says it is. -/
def State.eventWork (s : State) (w : Work) (c : Bool) : State := if c then s.doWork w else s

/-- FRAME_BOUNDARY: it ends every 64th sample period and falls nowhere else (07 R150; log 2). -/
def execFrameBoundary (order : List Work) (leave : Bool) (s : State) : Outcome :=
  s.released fun s => if s.frameOver then s.boundary order leave else s

/-- CUE_GAP: the gap timer's 750th frame (01 R11). -/
def execCueGap (s : State) : Outcome :=
  s.released fun s => s.eventWork .gap (Config.gapLength ≤ s.cues.gapTimer + 1)

/-- COPY_END: the last chunk of an image (02 R24, R25). -/
def execCopyEnd (s : State) : Outcome :=
  s.released fun s => s.eventWork .copy
    (s.loader.any fun l => l.copying && decide (l.length ≤ l.done + Config.chunkSize))

/-- COMPUTATION_COMPLETE (04 R82). -/
def execComputationComplete (s : State) : Outcome := s.released fun s => s.doWork .compute

/-- CLAIM: enough engines are FREE for the target that waits (05 R101). -/
def execClaim (s : State) : Outcome :=
  s.released fun s => s.eventWork .claim (s.trans.any fun t => t.phase == .claim && t.target.any fun k =>
    decide ((s.slot k).lineCount ≤ countEngines .free s.engines))

/-- CHANGEOVER_END: the last step of FADE or IN (05 R105). -/
def execChangeoverEnd (s : State) : Outcome :=
  s.released fun s => s.eventWork .fade (s.trans.any fun t =>
    (t.phase == .fade && decide (t.fade ≤ t.position + 1)) || (t.phase == .in_ && decide (t.inLength ≤ t.position + 1)))

/-- OUT_END: the last step of OUT (05 R107). -/
def execOutEnd (s : State) : Outcome :=
  s.released fun s => s.eventWork .fade (s.trans.any fun t =>
    t.phase == .out && decide (t.outLength ≤ t.position + 1))

/-- The tail's hold has one frame left. -/
def Tail.expires (t : Tail) : Bool := match t.stage with
  | .hold n => decide (n ≤ 1)
  | .closing _ _ => false

/-- The tail's closing has one step left. -/
def Tail.closes (t : Tail) : Bool := match t.stage with
  | .hold _ => false
  | .closing _ j => decide (8 ≤ j + 1)

/-- HOLD_EXPIRY (05 R110). -/
def execHoldExpiry (slot : Nat) (s : State) : Outcome :=
  s.forUnit (slot < Config.sceneSlots) fun s => s.eventWork (.tail slot) ((s.tailOf slot).any Tail.expires)

/-- CLOSING_END (05 R112). -/
def execClosingEnd (slot : Nat) (s : State) : Outcome :=
  s.forUnit (slot < Config.sceneSlots) fun s => s.eventWork (.tail slot) ((s.tailOf slot).any Tail.closes)

/-- SCRUB_END: the sixteenth step (03 R53). -/
def execScrubEnd (engine : Nat) (s : State) : Outcome :=
  s.forUnit (engine < Config.lineEngines) fun s => s.eventWork (.scrub engine)
    ((s.engines.getD engine .free).scrub.any fun k => decide (Config.scrubSteps ≤ k + 1))

/-- DECAY_GLIDE_END (04 R84). -/
def execDecayGlideEnd (engine : Nat) (band : Band) (s : State) : Outcome :=
  s.forUnit (engine < Config.lineEngines) fun s => s.eventWork (.decayGlide engine band)
    (lastStep ((s.engines.getD engine .free).glides.get band))

/-- EPSILON_GLIDE_END (04 R87). -/
def execEpsilonGlideEnd (s : State) : Outcome :=
  s.released fun s => s.eventWork .epsGlide (lastStep s.coef.epsilonGlide)

/-- TRIM_GLIDE_END (06 R119). -/
def execTrimGlideEnd (mic : Nat) (s : State) : Outcome :=
  s.forUnit (mic < Config.microphones) fun s => s.eventWork (.trimGlide mic) (lastStep (s.mic mic).trimGlide)

/-- FALLBACK_GLIDE_END (06 R122). -/
def execFallbackGlideEnd (mic : Nat) (s : State) : Outcome :=
  s.forUnit (mic < Config.microphones) fun s => s.eventWork (.fallbackGlide mic) (lastStep (s.mic mic).fallbackGlide)

/-- NOTCH_DEPTH_GLIDE_END (06 R121). -/
def execNotchDepthGlideEnd (entry : Nat) (s : State) : Outcome :=
  s.forUnit (entry < Config.poolSize) fun s => s.eventWork (.depthGlide entry) (lastStep (s.entry entry).filter.glide)

/-- MODE_RAMP_END (07 R160, R162). -/
def execModeRampEnd (s : State) : Outcome := s.released fun s => s.eventWork .modeRamp (lastStep s.mode.ramp)

/-- RESYNC_SWITCH: the down ramp's last step (07 R155). -/
def execResyncSwitch (s : State) : Outcome :=
  s.released fun s => s.eventWork .resyncRamp
    (s.clock.state == .resync && !s.clock.turnUp && lastStep s.clock.ramp)

/-- RESYNC_UP_END: the up ramp's last step (07 R155). -/
def execResyncUpEnd (s : State) : Outcome :=
  s.released fun s => s.eventWork .resyncRamp
    (s.clock.state != .resync && !s.clock.turnUp && lastStep s.clock.ramp)

/-- LOCKOUT_END (08 R169). -/
def execLockoutEnd (s : State) : Outcome := s.released fun s => s.eventWork .lockout (s.lock.lockout == 1)

/-- ANALYSIS: all eight stages, or with `staged` the first four (06 R126, log 23). -/
def execAnalysis (staged : Bool) (s : State) : Outcome :=
  s.released fun s =>
    if .analysis ∈ s.todo then
      let s' := s.doWork .analysis
      if staged then s' else (s'.todo.filter isStage).foldl State.doOne s'
    else s

/-- NOTCH_HOLD_EXPIRY: stage 5 brings a notch's hold to 0 (06 R135). -/
def execNotchHoldExpiry (entry : Nat) (s : State) : Outcome :=
  s.forUnit (entry < Config.poolSize) fun s => s.eventWork (.hold entry)
    ((s.entry entry).kind == .floating && decide ((s.entry entry).hold ≤ 1))

/-- PHI_RECOVERY: stage 6 brings a microphone's quiet count to the recovery interval (06 R136). -/
def execPhiRecovery (mic : Nat) (s : State) : Outcome :=
  s.forUnit (mic < Config.microphones) fun s => s.eventWork (.quiet mic)
    (s.guard.settings.recovery ≤ (s.mic mic).quiet + 1)

/-- BETA_RECOVERY: stage 7 brings the device quiet count to the recovery interval (06 R137). -/
def execBetaRecovery (s : State) : Outcome :=
  s.released fun s => s.eventWork .deviceQuiet (s.guard.settings.recovery ≤ s.guard.deviceQuiet + 1)

/-- METER_WRITE (09 R177). -/
def execMeterWrite (s : State) : Outcome := s.released fun s => s.doWork .meters

end Sys2Proof.Machine
end

