-- ==== Sys2Proof/Machine/Registers.lean ====
section
/-! DEFINITION. The controller port and the resets: POWER_ON_RESET, ENGINE_RESET, the RUNCTL requests, ATTN, ATTNMASK, writes of
both windows (01 R1 to R5), the interrupt message enable (09 R175). -/

namespace Sys2Proof.Machine

/-! ### Resets -/

/-- The reset pin held: the part is in its initial state, with common memory all 0 (01 R5, 07 section 7.7). -/
def State.hold (s : State) : State :=
  { State.reset with ram := [], resetHeld := true, pending := s.pending }

/-- POWER_ON_RESET: the pin is held, or a held pin is released (01 R5, 09 R176, R180). -/
def execPowerOnReset (held : Bool) (s : State) : Outcome :=
  .next (if held then s.hold else if s.resetHeld then State.reset.setPending s.pending else s)

/-- The answer ABORTED with a detail of 0 to the cue held in a slot (01 R18). -/
def abortHeld (s : State) (k : Nat) : State :=
  match s.cues.held.getD k none with
  | some bs => ((s.setRam (answerWrite s.ram k (u8 bs 1) .aborted 0)).setCues
      { s.cues with held := s.cues.held.set k none }).raise .cueAnswered
        (k + 256 * Answer.aborted.code + 65536 * u16 bs 4)
  | none => s

/-- Every cue held is answered ABORTED, and a load ends (01 R18, 02 R36). -/
def State.abortAll (s : State) : State :=
  let s' := (List.range Config.cueSlots).foldl abortHeld s
  match s.loader with
  | some l => s'.raise .loadEnded (l.target + 256 * Answer.aborted.code)
  | none => s'

/-- The state of the blocks after an engine reset: as after power-on reset, but for common memory, the lanes, the detector,
the mask, the interrupt messages and the sample clock's phase (01 R3 to R5, R18; 02 R36; 03 R54; 05 R115; 06 R143; 07 R145,
R150, R151, R158, R163; 08 R164; 09 R170, R177). -/
def State.cleared (s : State) : State :=
  { State.reset with
    ram := s.ram, lanes := s.lanes, outputs := ⟨OutputLanes.reset.formed, s.outputs.sent⟩
    clock := { Clock.reset with present := s.clock.present, good := s.clock.good }
    att := { s.att with notices := Attention.reset.notices }
    framePos := s.framePos, pending := s.pending }

/-- An engine reset (01 R3, R5, R18). -/
def State.engineReset (s : State) : State := s.abortAll.cleared.rewrite

/-! ### RUNCTL (01 R3, 07 R152, R159) -/

/-- A 32-bit write of RUNCTL. -/
def State.writeRunctl (value : Word32) (s : State) : State :=
  if value.getLsbD 31 then s.engineReset
  else ((s.setRunctl ⟨value.setWidth 2, value.getLsbD 4⟩).setMode
    { s.mode with request := some (requestedMode value) }).setClock
      { s.clock with newSource := some (value.getLsbD 4), newResync := s.clock.newResync || value.getLsbD 5 }

/-- ENGINE_RESET: a write of RUNCTL with bit 31 set (01 R3). -/
def execEngineReset (_rest : BitVec 31) (s : State) : Outcome := s.released State.engineReset

/-- MODE_REQUEST: the write, or mode control's taking of the request at the frame boundary (07 R159). -/
def execModeRequest (event : RunctlEvent) (s : State) : Outcome :=
  s.released fun s => match event with
    | .written value => s.writeRunctl value
    | .taken => if s.mode.request.isSome then s.doWork .modeTake else s

/-- CLOCK_SOURCE: the write, or the clock's taking of a source that differs at the frame boundary (07 R152, R157). -/
def execClockSource (event : RunctlEvent) (s : State) : Outcome :=
  s.released fun s => match event with
    | .written value => s.writeRunctl value
    | .taken => if s.clock.newSource = some (!s.clock.external) then s.doWork .clockTake else s

/-- RESYNC: the write, or the clock's taking of the request at the frame boundary (07 R152, R154). -/
def execResync (event : RunctlEvent) (s : State) : Outcome :=
  s.released fun s => match event with
    | .written value => s.writeRunctl value
    | .taken => if s.clock.newResync then s.doWork .clockTake else s

/-! ### ATTN and ATTNMASK (01 R4, 09 R172, R175) -/

/-- The clears of a write of ATTN; clearing a pending OUTPUT CLIP zeroes the clip counts (03 R68, 09 R172). -/
def State.writeAttn (value : Word32) (s : State) : State :=
  let s' := s.setAtt (s.att.hostClear value)
  if value.getLsbD Source.outputClip.index && (s.att.notice Source.outputClip.index).pending then
    s'.setNet { s'.net with clips := List.replicate Config.speakers 0 }
  else s'

/-- A write of ATTNMASK: the output follows at once (01 R4, 09 R175). -/
def State.writeMask (value : Word32) (s : State) : State :=
  s.setAtt (s.att.follow { s.att with mask := value.setWidth 4 })

/-- ATTN (09 R172). -/
def execAttn (value : Word32) (s : State) : Outcome := s.released (State.writeAttn value)

/-- ATTNMASK (09 R175). -/
def execAttnmask (value : Word32) (s : State) : Outcome := s.released (State.writeMask value)

/-- INTERRUPT_MESSAGE_ENABLE: enabling sends nothing by itself (09 R175). -/
def execInterruptMessageEnable (on : Bool) (s : State) : Outcome :=
  s.released fun s => s.setAtt { s.att with messagesEnabled := on }

/-! ### Writes of the windows (01 R1) -/

/-- A write inside the register window: 32-bit aligned writes of RUNCTL, ATTN and ATTNMASK act, all others are ignored
(01 R1, R2). -/
def State.writeRegister (offset size : Nat) (value : Word32) (s : State) : State :=
  if size ≠ 4 then s
  else if offset = 0x4 then s.writeRunctl value
  else if offset = 0x8 then s.writeAttn value
  else if offset = 0xC then s.writeMask value
  else s

/-- REGISTER_WRITE: a write of any size at an offset of the window (01 R1). -/
def execRegisterWrite (offset size : Nat) (value : Word32) (s : State) : Outcome :=
  if offset < Config.registerSize then s.released (State.writeRegister offset size value)
  else .fault .outsideWindow

/-- COMMON_MEMORY_WRITE: a write of 8, 16 or 32 bits lands in the RAM (01 R1, R5). The port takes no other size: such a write
has no effect (DEDUCED, log 17). -/
def execCommonMemoryWrite (offset size : Nat) (value : Word32) (s : State) : Outcome :=
  if accessSize size then
    if offset + size ≤ Config.commonSize then
      s.released fun s => s.setRam (writeBytes s.ram offset (leBytes size value.toNat))
    else .fault .outsideWindow
  else .next s

end Sys2Proof.Machine
end

