-- ==== Sys2Proof/Machine/Dispatch.lean ====
section
/-! DEFINITION. One arm per command: its meaning. -/

namespace Sys2Proof.Machine

/-- The effect of a command on everything but the queue. -/
def exec (i : Instr) (s : State) : Host.Outcome State Fault Refusal :=
  match i with
  | .powerOnReset held => Sys2Proof.Machine.execPowerOnReset held s
  | .engineReset rest => Sys2Proof.Machine.execEngineReset rest s
  | .modeRequest event => Sys2Proof.Machine.execModeRequest event s
  | .clockSource event => Sys2Proof.Machine.execClockSource event s
  | .resync event => Sys2Proof.Machine.execResync event s
  | .attn value => Sys2Proof.Machine.execAttn value s
  | .attnmask value => Sys2Proof.Machine.execAttnmask value s
  | .registerWrite offset size value => Sys2Proof.Machine.execRegisterWrite offset size value s
  | .commonMemoryWrite offset size value => Sys2Proof.Machine.execCommonMemoryWrite offset size value s
  | .mark slot => Sys2Proof.Machine.execMark slot s
  | .loadScene slot => Sys2Proof.Machine.execLoadScene slot s
  | .vacateScene slot => Sys2Proof.Machine.execVacateScene slot s
  | .go slot => Sys2Proof.Machine.execGo slot s
  | .trim slot => Sys2Proof.Machine.execTrim slot s
  | .clearStatus slot => Sys2Proof.Machine.execClearStatus slot s
  | .loadMicTable slot => Sys2Proof.Machine.execLoadMicTable slot s
  | .setGuard slot => Sys2Proof.Machine.execSetGuard slot s
  | .fixNotch slot => Sys2Proof.Machine.execFixNotch slot s
  | .clearNotch slot => Sys2Proof.Machine.execClearNotch slot s
  | .clearGuard slot => Sys2Proof.Machine.execClearGuard slot s
  | .lock slot => Sys2Proof.Machine.execLock slot s
  | .unlock slot => Sys2Proof.Machine.execUnlock slot s
  | .setKey slot => Sys2Proof.Machine.execSetKey slot s
  | .frameBoundary order leave => Sys2Proof.Machine.execFrameBoundary order leave s
  | .cueGap => Sys2Proof.Machine.execCueGap s
  | .copyEnd => Sys2Proof.Machine.execCopyEnd s
  | .computationComplete => Sys2Proof.Machine.execComputationComplete s
  | .claim => Sys2Proof.Machine.execClaim s
  | .changeoverEnd => Sys2Proof.Machine.execChangeoverEnd s
  | .outEnd => Sys2Proof.Machine.execOutEnd s
  | .holdExpiry slot => Sys2Proof.Machine.execHoldExpiry slot s
  | .closingEnd slot => Sys2Proof.Machine.execClosingEnd slot s
  | .scrubEnd engine => Sys2Proof.Machine.execScrubEnd engine s
  | .decayGlideEnd engine band => Sys2Proof.Machine.execDecayGlideEnd engine band s
  | .epsilonGlideEnd => Sys2Proof.Machine.execEpsilonGlideEnd s
  | .trimGlideEnd mic => Sys2Proof.Machine.execTrimGlideEnd mic s
  | .fallbackGlideEnd mic => Sys2Proof.Machine.execFallbackGlideEnd mic s
  | .notchDepthGlideEnd entry => Sys2Proof.Machine.execNotchDepthGlideEnd entry s
  | .modeRampEnd => Sys2Proof.Machine.execModeRampEnd s
  | .resyncSwitch => Sys2Proof.Machine.execResyncSwitch s
  | .resyncUpEnd => Sys2Proof.Machine.execResyncUpEnd s
  | .lockoutEnd => Sys2Proof.Machine.execLockoutEnd s
  | .analysis staged => Sys2Proof.Machine.execAnalysis staged s
  | .notchHoldExpiry entry => Sys2Proof.Machine.execNotchHoldExpiry entry s
  | .phiRecovery mic => Sys2Proof.Machine.execPhiRecovery mic s
  | .betaRecovery => Sys2Proof.Machine.execBetaRecovery s
  | .meterWrite => Sys2Proof.Machine.execMeterWrite s
  | .samplePeriod first => Sys2Proof.Machine.execSamplePeriod first s
  | .inputLaneFrame lane bits => Sys2Proof.Machine.execInputLaneFrame lane bits s
  | .wordClockAbsent cause => Sys2Proof.Machine.execWordClockAbsent cause s
  | .wordClockPresent intervals => Sys2Proof.Machine.execWordClockPresent intervals s
  | .interruptMessageEnable on => Sys2Proof.Machine.execInterruptMessageEnable on s

end Sys2Proof.Machine
end

