-- ==== Sys2Proof/Safety.lean ====
section
/-! DEFINITION. The conditions statements are made under (a work that may be done now, a cue whose turn it is), and what the
invariants say of the show lock, the notices and the outputs. -/

namespace Sys2Proof.Machine

/-- The work `w` of the present frame boundary may be done now: the reset pin is released, `w` is still due, and no stage of
an analysis waits. -/
def State.due (s : State) (w : Work) : Prop :=
  s.resetHeld = false ∧ w ∈ s.todo ∧ s.todo.filter isStage = []

/-- The stage `w` of the analysis in progress is the next to be done. -/
def State.stageDue (s : State) (w : Work) : Prop := s.resetHeld = false ∧ (s.todo.filter isStage).head? = some w

/-- The state with one work `w` less to do at this frame boundary. -/
def State.doing (s : State) (w : Work) : State := s.setTodo (s.todo.erase w)

/-- The row of the opcode table that takes a cue of a kind. -/
def CueKind.row : CueKind → Nat → Instr
  | .mark => .mark | .loadScene => .loadScene | .vacateScene => .vacateScene | .go => .go | .trim => .trim
  | .clearStatus => .clearStatus | .loadMicTable => .loadMicTable | .setGuard => .setGuard
  | .fixNotch => .fixNotch | .clearNotch => .clearNotch | .clearGuard => .clearGuard
  | .lock => .lock | .unlock => .unlock | .setKey => .setKey

/-- The cue standing in cue table slot `k` is of kind `kind`, and it is its turn to be taken: a take may be made now, the
refusals of the scan are made, and the slot is the one that holds E (01 R9). -/
def State.turn (s : State) (k : Nat) (kind : CueKind) : Prop :=
  s.due .take ∧ .refuse ∉ s.todo ∧ k < Config.cueSlots ∧ s.expectedSlot = some k
    ∧ cueKindOf (u8 (cueBytes s.ram k) 1) = some kind

/-- The cue's turn, and it passes: no cue held carries its number, its check byte, the lock and the mode let it through (01
R12, R13). -/
def State.takeable (s : State) (k : Nat) (kind : CueKind) : Prop :=
  s.turn k kind ∧ s.holdsNumber s.cues.expected = false ∧ checkSum (cueBytes s.ram k) = 0
    ∧ (kind.isProtected = true → s.lock.locked = false) ∧ (kind = .go → s.mode.mode ≠ .stopped)

/-- The state once the scan has taken the cue in slot `k` (01 R9 step 4). -/
def State.took (s : State) (k : Nat) : State := (s.doing .take).takeCopy k

/-- The notice records are those of the fourteen sources. -/
def State.sources (s : State) : Prop := s.att.notices.length = 14

/-! ### What invariants say -/

/-- The show lock (08 R164, R168, R169): a locked engine holds a key; the failure count is at most 2, and 0 while unlocked;
the lockout timer runs only while locked, with the failure count 0, and never above 45000. -/
def ShowLock.sound (l : ShowLock) : Prop :=
  (l.locked = true → l.key.isSome = true) ∧ l.failures ≤ 2 ∧ (l.locked = false → l.failures = 0)
    ∧ (0 < l.lockout → l.locked = true ∧ l.failures = 0) ∧ l.lockout ≤ 45000

/-- The notice records (09 R170, R171, R173): fourteen of them; a count is at most 255; a pending source has counted; an event
source is pending exactly when its count is above 0. -/
def noticesSound (ns : List Notice) : Prop :=
  ns.length = 14 ∧ ∀ i n, ns[i]? = some n → n.count ≤ 255 ∧ (n.pending = true → 0 < n.count)
    ∧ (isEventSource i = true → (n.pending = true ↔ 0 < n.count))

/-- Every speaker output sample lies in -8388607..+8388607 (03 R67). -/
def outputsInRange (o : OutputLanes) : Prop :=
  ∀ v, v ∈ o.formed ∨ v ∈ o.sent → -8388607 ≤ v ∧ v ≤ 8388607

end Sys2Proof.Machine
end

