-- ==== Sys2Proof/Certificates/Slice0/Obligations.lean ====
section
/-! DEFINITION. The statements for the provers, by chapter of the spec. -/

open Sys2Proof Sys2Proof.Machine

/-! ### Steps, reset, invariants -/

/-- A step is the command at the front of the queue, on the state with the rest; an empty queue idles (log 2). -/
def Obligations.StepRunsTheFrontCommand : Prop :=
  (∀ (c : Instr) (rest : List Instr) (s : State), s.pending = c :: rest → step s = exec c (s.setPending rest))
    ∧ ∀ s : State, s.pending = [] → step s = .next s

/-- Common memory keeps its canonical form (log 7). -/
def Obligations.MemoryFormIsKept : Prop :=
  ∀ s t : State, Memory.wf s.ram = true → step s = .next t → Memory.wf t.ram = true

/-- E is never 0 (01 R8). -/
def Obligations.ExpectedNumberIsNeverZero : Prop :=
  ∀ s t : State, s.cues.expected ≠ 0 → step s = .next t → t.cues.expected ≠ 0

/-- The show lock stays sound (08 R164, R168, R169). -/
def Obligations.ShowLockStaysSound : Prop :=
  ∀ s t : State, ShowLock.sound s.lock → step s = .next t → ShowLock.sound t.lock

/-- The notice records stay sound (09 R170, R171, R173). -/
def Obligations.NoticesStaySound : Prop :=
  ∀ s t : State, noticesSound s.att.notices → step s = .next t → noticesSound t.att.notices

/-- Every speaker output sample stays in range (03 R67). -/
def Obligations.OutputsStayInRange : Prop :=
  ∀ s t : State, outputsInRange s.outputs → step s = .next t → outputsInRange t.outputs

/-- The invariants hold in the state after reset. -/
def Obligations.ResetMeetsTheInvariants : Prop :=
  Memory.wf State.reset.ram = true ∧ State.reset.cues.expected ≠ 0 ∧ ShowLock.sound State.reset.lock
    ∧ noticesSound State.reset.att.notices ∧ outputsInRange State.reset.outputs

/-- The values the spec gives for power-on reset. That the image stores are empty is the model's choice, the spec gives them no
value (log 6); `shown`, what the engine last wrote, is the model's own field (log 10). -/
def Obligations.ResetValues : Prop :=
  let s := State.reset
  s.register 4 = 0 ∧ s.register 8 = 0x1F000000#32 ∧ s.register 12 = 0
    ∧ s.cues.expected = 1 ∧ s.cues.gapTimer = 0 ∧ (∀ k, s.cues.held.getD k none = none)
    ∧ s.slots = List.replicate 8 ⟨.vacant, [], ⟨false, false, false, false⟩, none⟩ ∧ s.loader = none
    ∧ s.coef.tau = 0 ∧ s.coef.epsilon = 0 ∧ s.coef.epsilonWord = 8192 ∧ s.coef.underWay = none
    ∧ s.engines.length = 32 ∧ (∀ e ∈ s.engines, e.state = .free ∧ e.owner = none ∧ e.region = [] ∧ e.writePos = 0)
    ∧ s.net.draining = [] ∧ s.net.clips = List.replicate 128 0 ∧ s.trans = none ∧ s.tails = []
    ∧ s.mics.length = 48 ∧ (∀ m ∈ s.mics, m.present = false ∧ m.guarded = false ∧ m.group = .hall ∧ m.trim = 0
        ∧ m.trimWord = 8192 ∧ m.phi = 0 ∧ m.fallbackWord = 8192 ∧ m.persistence = 0 ∧ m.quiet = 0)
    ∧ s.guard.settings = ⟨false, 1200, -4800, 4, 470, 235, 0⟩ ∧ s.guard.beta = 0 ∧ s.guard.analyses = 0
    ∧ s.guard.pool.length = 16 ∧ (∀ n ∈ s.guard.pool, n.kind = .free ∧ n.filter.engaged = false)
    ∧ s.lanes.length = 6 ∧ (∀ l ∈ s.lanes, l.locked = false ∧ l.count = 0 ∧ l.store = [])
    ∧ s.clock.external = false ∧ s.clock.state = .internal ∧ s.clock.factor = 32768 ∧ s.clock.present = false
    ∧ s.mode.mode = .stopped ∧ s.mode.factor = 0 ∧ s.mode.ramp = none ∧ s.mode.halted = true
    ∧ s.lock = ⟨none, false, 0, 0⟩ ∧ s.frame = 0
    ∧ (∀ k < 32, cueState s.ram k = 0) ∧ readBytes s.ram 0 2 = [1, 0] ∧ s.shown = s.view

/-! ### The controller port (01 R1 to R5, 09 R172, R174, R175) -/

/-- IDENT reads 0x4832, 0x01, 64 in every state, and a write to it changes nothing (01 R2). -/
def Obligations.IdentIsReadOnly : Prop :=
  ∀ (s : State) (v : Word32),
    s.register 0 >>> 16 = 0x4832#32 ∧ (s.register 0 >>> 8) &&& 0xFF#32 = 0x01#32 ∧ s.register 0 &&& 0xFF#32 = 64#32
      ∧ exec (.registerWrite 0 4 v) s = .next s

/-- A read of bytes within a register of the window gives those bytes of its value, a read past the four registers 0 (01 R1); of a
read that spans two registers each byte is its own register's, the model's choice (log 18). A write at an offset of the register
window that is not a 32-bit write of RUNCTL, ATTN or ATTNMASK is ignored, whatever its size (01 R1, R2). A write at an offset past
the window, or past the end of common memory, and a command that names a unit the part does not have stop by name, and a write of
common memory of another size than 8, 16 or 32 bits has no effect: the model's choices (log 17). -/
def Obligations.OtherWritesAreIgnoredOrStop : Prop :=
  (∀ (s : State) (r i n : Nat), r = 0 ∨ r = 4 ∨ r = 8 ∨ r = 12 → i + n ≤ 4 →
      s.readRegister (r + i) n = (s.register r).toNat / 256 ^ i % 256 ^ n)
    ∧ (∀ (s : State) (o n : Nat), 16 ≤ o → s.readRegister o n = 0)
    ∧ (∀ (s : State) (o m n : Nat), s.readRegister o (m + n) = s.readRegister o m + 256 ^ m * s.readRegister (o + m) n)
    ∧ (∀ (s : State) (o n : Nat) (v : Word32), o < 0x1000 → (n ≠ 4 ∨ (o ≠ 4 ∧ o ≠ 8 ∧ o ≠ 12)) →
      exec (.registerWrite o n v) s = .next s)
    ∧ (∀ (s : State) (o n : Nat) (v : Word32), 0x1000 ≤ o → exec (.registerWrite o n v) s = .fault .outsideWindow)
    ∧ (∀ (s : State) (o n : Nat) (v : Word32), accessSize n = true → 0x80000 < o + n →
      exec (.commonMemoryWrite o n v) s = .fault .outsideWindow)
    ∧ (∀ (s : State) (o n : Nat) (v : Word32), accessSize n = false → exec (.commonMemoryWrite o n v) s = .next s)
    ∧ (∀ (s : State) (kind : CueKind) (k : Nat), 32 ≤ k → exec (kind.row k) s = .fault .noSuchUnit)
    ∧ (∀ (s : State) (k : Nat), 8 ≤ k →
        exec (.holdExpiry k) s = .fault .noSuchUnit ∧ exec (.closingEnd k) s = .fault .noSuchUnit)
    ∧ (∀ (s : State) (e : Nat) (b : Band), 32 ≤ e →
        exec (.scrubEnd e) s = .fault .noSuchUnit ∧ exec (.decayGlideEnd e b) s = .fault .noSuchUnit)
    ∧ (∀ (s : State) (m : Nat), 48 ≤ m → exec (.trimGlideEnd m) s = .fault .noSuchUnit
        ∧ exec (.fallbackGlideEnd m) s = .fault .noSuchUnit ∧ exec (.phiRecovery m) s = .fault .noSuchUnit)
    ∧ (∀ (s : State) (n : Nat), 16 ≤ n →
        exec (.notchDepthGlideEnd n) s = .fault .noSuchUnit ∧ exec (.notchHoldExpiry n) s = .fault .noSuchUnit)
    ∧ (∀ (s : State) (x : Nat), 128 ≤ x → exec (.samplePeriod x) s = .fault .noSuchUnit)
    ∧ ∀ (s : State) (l : Nat) (bits : List Bool), 6 ≤ l → exec (.inputLaneFrame l bits) s = .fault .noSuchUnit

/-- A write of RUNCTL without bit 31 hands the mode request, the clock source and a RESYNC to their blocks and reads back its
two fields; every row that is such a write does the same (01 R3, 07 R152, R159). -/
def Obligations.RunctlWriteHandsOverItsRequests : Prop :=
  ∀ (s : State) (v : Word32), s.resetHeld = false → v.getLsbD 31 = false →
    let mode : EngineMode := if v.toNat % 4 = 1 then .active else if v.toNat % 4 = 2 then .dry else .stopped
    let t := ((s.setRunctl ⟨v.setWidth 2, v.getLsbD 4⟩).setMode { s.mode with request := some mode }).setClock
      { s.clock with newSource := some (v.getLsbD 4), newResync := s.clock.newResync || v.getLsbD 5 }
    exec (.registerWrite 4 4 v) s = .next t ∧ exec (.modeRequest (.written v)) s = .next t
      ∧ exec (.clockSource (.written v)) s = .next t ∧ exec (.resync (.written v)) s = .next t
      ∧ t.register 4 = v &&& 0x13#32

/-- A write of RUNCTL with bit 31 is the engine reset whatever its other bits are (01 R3), and what the engine reset leaves
(01 R3, R4, R18; 02 R36; 03 R54; 05 R115; 06 R143; 07 R145, R150, R158, R163; 08 R164; 09 R170); the output samples are not spoken
of. The model's choices in it: the works still due are dropped (log 1); the image stores are empty and the fields of FREE engines,
entries and filters that the spec gives no value have the one of `State.reset` (log 6); the analysis buffers are empty (log 23); the
lanes keep their loss mark and last good samples (log 26). -/
def Obligations.EngineResetState : Prop :=
  ∀ (s : State) (rest : BitVec 31), s.resetHeld = false → ∃ t,
    exec (.engineReset rest) s = .next t
    ∧ (∀ v : Word32, v.getLsbD 31 = true → exec (.registerWrite 4 4 v) s = .next t)
    ∧ t.register 4 = 0 ∧ t.cues.expected = 1 ∧ t.cues.gapTimer = 0 ∧ (∀ k, t.cues.held.getD k none = none)
    ∧ t.slots = State.reset.slots ∧ t.loader = none ∧ t.coef = State.reset.coef ∧ t.engines = State.reset.engines
    ∧ t.net = State.reset.net ∧ t.trans = none ∧ t.tails = [] ∧ t.mics = State.reset.mics
    ∧ t.guard = State.reset.guard ∧ t.mode = State.reset.mode ∧ t.lock = State.reset.lock
    ∧ t.clock = { State.reset.clock with present := s.clock.present, good := s.clock.good }
    ∧ t.att.notices = State.reset.att.notices ∧ t.att.mask = s.att.mask ∧ t.lanes = s.lanes ∧ t.frame = 0
    ∧ t.framePos = s.framePos ∧ t.todo = [] ∧ t.meters = State.reset.meters

/-- What the engine reset leaves of common memory: a held cue's slot reads ANSWERED, ABORTED with its kind and detail 0; the
other cue table bytes, the meters and the image area are unchanged (01 R5, R14, R18, 09 R177). The engine page and the mirrors are
written anew: every entry of `view` at its address, each notice record's level and kind byte, and 0 in every other byte (01 R5, 09
R176, R180). -/
def Obligations.EngineResetMemory : Prop :=
  ∀ (s : State) (rest : BitVec 31), s.resetHeld = false → Memory.wf s.ram = true → s.lanes.length = 6 → ∃ t,
    exec (.engineReset rest) s = .next t
    ∧ (∀ a, 0x4000 ≤ a → readByte t.ram a = readByte s.ram a)
    ∧ (∀ k < 32, s.cues.held.getD k none = none →
        readBytes t.ram (Config.cueSlotBase k) 128 = readBytes s.ram (Config.cueSlotBase k) 128)
    ∧ (∀ k < 32, ∀ bs, s.cues.held.getD k none = some bs →
        readByte t.ram (Config.cueSlotBase k) = 3
        ∧ readBytes t.ram (Config.cueSlotBase k + 6) 6 = [0x0D, BitVec.ofNat 8 (u8 bs 1), 0, 0, 0, 0]
        ∧ ∀ i < 128, i ≠ 0 → (i < 6 ∨ 12 ≤ i) →
          readByte t.ram (Config.cueSlotBase k + i) = readByte s.ram (Config.cueSlotBase k + i))
    ∧ (∀ a bs, (a, bs) ∈ t.view → readBytes t.ram a bs.length = bs)
    ∧ (∀ i < 14, readBytes t.ram (0x102 + 16 * i) 2 =
        [[3, 3, 2, 2, 1, 1, 1, 1, 0, 0, 0, 2, 3, 1].getD i 0, if i = 7 ∨ i = 8 ∨ i = 10 ∨ i = 13 then 1 else 0])
    ∧ ∀ b, (b < 0x1000 ∨ (0x2000 ≤ b ∧ b < 0x4000)) → (∀ a bs, (a, bs) ∈ t.view → b < a ∨ a + bs.length ≤ b) →
        (∀ i < 14, b ≠ 0x102 + 16 * i ∧ b ≠ 0x103 + 16 * i) → readByte t.ram b = 0

/-- The reset pin held puts every byte of common memory at 0, and its release leaves the state after power-on reset with the
queue as it was; a release of a pin that is not held changes nothing (01 R5). That no other command changes anything while the pin
is held, and that one whose operands lie within its units and windows completes so, is the model's choice (log 5). -/
def Obligations.PowerOnReset : Prop :=
  ∀ s : State, (∃ t, exec (.powerOnReset true) s = .next t ∧ t.resetHeld = true ∧ t.pending = s.pending
      ∧ (∀ a, readByte t.ram a = 0)
      ∧ exec (.powerOnReset false) t = .next (State.reset.setPending s.pending)
      ∧ (∀ c : Instr, (∀ h, c ≠ .powerOnReset h) → c.wellFormed = true → exec c t = .next t)
      ∧ ∀ (c : Instr) (u : State), (∀ h, c ≠ .powerOnReset h) → exec c t = .next u → u = t)
    ∧ (s.resetHeld = true → exec (.powerOnReset false) s = .next (State.reset.setPending s.pending))
    ∧ (s.resetHeld = false → exec (.powerOnReset false) s = .next s)

/-- A write of ATTN clears the event sources whose bits are 1: pending and count, keeping detail and frame counter; condition
sources and the other sources keep their records; clearing a pending OUTPUT CLIP zeroes every clip count (01 R4, 09 R172, 03
R68). -/
def Obligations.AttnWriteClears : Prop :=
  ∀ (s : State) (v : Word32), s.resetHeld = false → s.att.notices.length = 14 → ∃ t,
    exec (.attn v) s = .next t ∧ exec (.registerWrite 8 4 v) s = .next t
    ∧ (∀ i < 14, t.att.notice i =
        if v.getLsbD i = true ∧ i ≠ 7 ∧ i ≠ 8 ∧ i ≠ 10 ∧ i ≠ 13 then
          { s.att.notice i with pending := false, count := 0 }
        else s.att.notice i)
    ∧ t.net.clips = (if v.getLsbD 9 = true ∧ (s.att.notice 9).pending = true then List.replicate 128 0 else s.net.clips)
    ∧ t.att.mask = s.att.mask ∧ t = (s.setAtt t.att).setNet t.net ∧ t.net = { s.net with clips := t.net.clips }

/-- ATTN shows each source's pending flag, each level's, and the lowest-numbered pending source or 31; a level is pending while
one of its sources is, whatever the mask; a write of ATTNMASK takes its value and changes nothing of it, and the mask keeps no
occurrence from its record (09 R174). -/
def Obligations.AttnWordShowsTheSources : Prop :=
  ∀ s : State, (∀ i < 14, (s.register 8).getLsbD i = (s.att.notice i).pending)
    ∧ (∀ l < 4, ((s.register 8).getLsbD (16 + l) = true ↔
        ∃ i < 14, (sourceTable.getD i (4, false)).1 = l ∧ (s.att.notice i).pending = true))
    ∧ ((s.register 8).toNat / 2 ^ 24 = 31 ↔ ∀ i < 14, (s.att.notice i).pending = false)
    ∧ (∀ i < 14, (s.att.notice i).pending = true → (∀ j < i, (s.att.notice j).pending = false) →
        (s.register 8).toNat / 2 ^ 24 = i)
    ∧ (∀ (v : Word32) (t : State), s.resetHeld = false → exec (.attnmask v) s = .next t →
        t.register 8 = s.register 8 ∧ t.att.mask = v.setWidth 4)
    ∧ ∀ (m : BitVec 4) (x : Source) (d : Nat),
        ((s.setAtt { s.att with mask := m }).raise x d).att.notices = (s.raise x d).att.notices

/-- A write of ATTNMASK takes its low four bits at once; the attention output is asserted while an enabled level is pending,
and its rise sends one message when messages are enabled; enabling messages sends none by itself (01 R4, 09 R175). -/
def Obligations.MaskAndMessages : Prop :=
  ∀ (s : State) (v : Word32) (on : Bool), s.resetHeld = false → ∃ t,
    exec (.attnmask v) s = .next t ∧ exec (.registerWrite 12 4 v) s = .next t
    ∧ t.att.mask = v.setWidth 4 ∧ t.register 12 = v &&& 0xF#32 ∧ t.att.notices = s.att.notices
    ∧ t.att.messages = s.att.messages
        + (if s.att.asserted = false ∧ t.att.asserted = true ∧ s.att.messagesEnabled = true then 1 else 0)
    ∧ (t.att.asserted = true ↔ ∃ l < 4, v.getLsbD l = true ∧ t.att.levelPending l = true)
    ∧ t = s.setAtt t.att
    ∧ exec (.interruptMessageEnable on) s = .next (s.setAtt { s.att with messagesEnabled := on })

/-- An occurrence of an event source: pending, count up to 255, detail and frame counter of the occurrence, nothing else but
the message of a rising output, one when messages are enabled (09 R175); OUTPUT CLIP that is already pending keeps its detail and
frame counter (09 R171). A condition that its block says holds or not: its start is pending, counts up to 255 and takes detail and
frame counter, while it goes on nothing changes, at its end pending is no and the rest is kept; a start that raises the output sends
one message when they are enabled (09 R173, R175). -/
def Obligations.OccurrenceActsOnItsRecord : Prop :=
  (∀ (s : State) (x : Source) (d : Nat), s.att.notices.length = 14 →
    (s.raise x d) = s.setAtt (s.raise x d).att
    ∧ (∀ i, i ≠ x.index → (s.raise x d).att.notice i = s.att.notice i)
    ∧ (s.raise x d).att.mask = s.att.mask
    ∧ (s.raise x d).att.notice x.index =
        (if x = .outputClip ∧ (s.att.notice 9).pending = true then
          { s.att.notice 9 with count := min 255 ((s.att.notice 9).count + 1) }
        else ⟨true, min 255 ((s.att.notice x.index).count + 1), BitVec.ofNat 32 d, s.frame⟩)
    ∧ (s.raise x d).att.messagesEnabled = s.att.messagesEnabled
    ∧ (s.raise x d).att.messages = s.att.messages
        + (if s.att.asserted = false ∧ (s.raise x d).att.asserted = true ∧ s.att.messagesEnabled = true then 1 else 0))
    ∧ ∀ (s : State) (x : Source) (holds : Bool) (d : Nat), s.att.notices.length = 14 →
      let n := s.att.notice x.index
      let t := s.judge x holds d
      t = s.setAtt t.att ∧ (holds = n.pending → t = s)
      ∧ t.att.notice x.index = (if holds = true ∧ n.pending = false then
          ⟨true, min 255 (n.count + 1), BitVec.ofNat 32 d, s.frame⟩ else { n with pending := holds })
      ∧ (∀ i, i ≠ x.index → t.att.notice i = s.att.notice i)
      ∧ t.att.mask = s.att.mask ∧ t.att.messagesEnabled = s.att.messagesEnabled
      ∧ t.att.messages = s.att.messages
          + (if s.att.asserted = false ∧ t.att.asserted = true ∧ s.att.messagesEnabled = true then 1 else 0)

/-- A host write lands in common memory: the bytes it names, least significant first, and no others; nothing else changes
(01 R1, R5). -/
def Obligations.CommonMemoryWriteLands : Prop :=
  ∀ (s : State) (o n : Nat) (v : Word32), s.resetHeld = false → inWindow 0x80000 o n = true → Memory.wf s.ram = true →
    ∃ t, exec (.commonMemoryWrite o n v) s = .next t ∧ t = s.setRam t.ram ∧ Memory.wf t.ram = true
      ∧ ∀ a, readByte t.ram a =
        if o ≤ a ∧ a < o + n then BitVec.ofNat 8 (v.toNat / 256 ^ (a - o)) else readByte s.ram a

/-! ### The cue unit (01 R9 to R17) -/

/-- An answer: the outcome and the kind byte, the detail, and state ANSWERED in the cue's slot, every other byte as before;
CUE ANSWERED with slot, outcome and number; the slot let go; nothing else (01 R12, R14). A block's answer to the cue held in a
slot is that answer to the copy held there, and none where none is held (01 R12). -/
def Obligations.AnswerIsWritten : Prop :=
  ∀ (s : State) (k : Nat) (bs : List Byte) (o : Answer) (d : Nat), k < 32 → Memory.wf s.ram = true →
    let t := s.answer k bs o d
    let base := 0x1000 + 128 * k
    readBytes t.ram (base + 6) 2 = [BitVec.ofNat 8 o.code, BitVec.ofNat 8 (u8 bs 1)]
    ∧ readBytes t.ram (base + 8) 4 = leBytes 4 (s.answerDetail bs o d) ∧ readByte t.ram base = 3
    ∧ (∀ a, a ≠ base → (a < base + 6 ∨ base + 12 ≤ a) → readByte t.ram a = readByte s.ram a)
    ∧ t = (((s.setRam t.ram).setCues { s.cues with held := s.cues.held.set k none }).raise .cueAnswered
        (k + 256 * o.code + 65536 * u16 bs 4))
    ∧ (s.cues.held.getD k none = some bs → s.answerHeld k o d = t)
    ∧ (s.cues.held.getD k none = none → s.answerHeld k o d = s)

/-- The fields REPORT adds to a detail: the status flags of the slot the cue concerns for LOAD SCENE, GO, CLEAR STATUS (the slot
named) and TRIM (the LIVE slot), none for an outcome CHECK or UNKNOWN, none without REPORT (01 R15). -/
def Obligations.ReportAddsTheStatusFlags : Prop :=
  ∀ (s : State) (bs : List Byte) (o : Answer) (d : Nat),
    ((o = .check ∨ o = .unknown ∨ (u8 bs 2).testBit 0 = false) → s.answerDetail bs o d = d)
    ∧ (o ≠ .check → o ≠ .unknown → (u8 bs 2).testBit 0 = true →
        ((u8 bs 1 = 0x11 ∨ u8 bs 1 = 0x21 ∨ u8 bs 1 = 0x23) →
          s.answerDetail bs o d = d ||| (if u8 bs 12 < 8 then (s.slot (u8 bs 12)).flags.byte else 0))
        ∧ (u8 bs 1 = 0x22 → ∀ k, s.live = some k → k < 8 → s.answerDetail bs o d = d ||| (s.slot k).flags.byte)
        ∧ (u8 bs 1 = 0x22 → s.live = none → s.answerDetail bs o d = d)
        ∧ (u8 bs 1 ≠ 0x11 → u8 bs 1 ≠ 0x21 → u8 bs 1 ≠ 0x22 → u8 bs 1 ≠ 0x23 → s.answerDetail bs o d = d))

/-- The take of a cue: the slot is copied and reads TAKEN, E advances by 1 past 65535 to 1; no other byte and nothing else
changes (01 R8, R9). -/
def Obligations.TakeCopiesTheSlot : Prop :=
  ∀ (s : State) (k : Nat), k < 32 → Memory.wf s.ram = true →
    let t := s.took k
    readByte t.ram (0x1000 + 128 * k) = 2
    ∧ (∀ a, a ≠ 0x1000 + 128 * k → readByte t.ram a = readByte s.ram a)
    ∧ t.cues = { s.cues with
        expected := if s.cues.expected = 65535 then 1 else s.cues.expected + 1
        held := s.cues.held.set k (some (readBytes s.ram (0x1000 + 128 * k) 128)), tookNow := true }
    ∧ t = ((s.setTodo (s.todo.erase .take)).setRam t.ram).setCues t.cues

/-- The checks of a taken cue in their order, CHECK, UNKNOWN, LOCKED, MODE; a cue whose number a held cue carries is answered
STALE without a take, E advancing (01 R12, R13). A cue of no kind has no row of its own: its take is a work of FRAME_BOUNDARY. The
scan's refusals, BAD NUMBER for a number 0 and STALE for one behind E: those candidates are answered from their slots, every other
slot and the cue unit stay as they are, and CUE ANSWERED counts each answer (01 R9 steps 1 and 2, R14). -/
def Obligations.FailedChecksAreAnswered : Prop :=
  (∀ (s : State) (k : Nat) (kind : CueKind), s.turn k kind →
    let b := cueBytes s.ram k
    (s.holdsNumber s.cues.expected = true →
      exec (kind.row k) s = .next (((s.doing .take).answer k b .stale 0).advanceE))
    ∧ (s.holdsNumber s.cues.expected = false →
      (checkSum b ≠ 0 → exec (kind.row k) s = .next ((s.took k).answer k b .check 0))
      ∧ (checkSum b = 0 → kind.isProtected = true → s.lock.locked = true →
          exec (kind.row k) s = .next ((s.took k).answer k b .locked 0))
      ∧ (checkSum b = 0 → kind = .go → s.mode.mode = .stopped →
          exec (kind.row k) s = .next ((s.took k).answer k b .mode 0))))
    ∧ (∀ s : State, s.resetHeld = false → 64 ≤ s.framePos →
      let v := (s.openBoundary.doing .refuse).scanRefuse
      exec (.frameBoundary [.refuse] true) s = .next v
      ∧ ∀ k, v.expectedSlot = some k → v.holdsNumber v.cues.expected = false → checkSum (cueBytes v.ram k) = 0 →
        cueKindOf (u8 (cueBytes v.ram k) 1) = none →
        exec (.frameBoundary [.refuse, .take] true) s = .next ((v.took k).answer k (cueBytes v.ram k) .unknown 0))
    ∧ ∀ s : State, Memory.wf s.ram = true → s.att.notices.length = 14 → (s.att.notice 0).count ≤ 255 →
      let t := s.scanRefuse
      let behind (c : Word16) : Prop := c ≠ 0 ∧ 1 ≤ (s.cues.expected - c).toNat ∧ (s.cues.expected - c).toNat ≤ 32767
      let refused (k : Nat) (o : Answer) : Prop := s.isCandidate k = true
        ∧ (o = .badNumber ∧ cueNumber s.ram k = 0 ∨ o = .stale ∧ behind (cueNumber s.ram k))
      (∀ k < 32, ∀ o, refused k o →
        readByte t.ram (0x1000 + 128 * k) = 3
        ∧ readBytes t.ram (0x1000 + 128 * k + 6) 2 = [BitVec.ofNat 8 o.code, BitVec.ofNat 8 (u8 (cueBytes s.ram k) 1)]
        ∧ readBytes t.ram (0x1000 + 128 * k + 8) 4 = leBytes 4 (s.answerDetail (cueBytes s.ram k) o 0)
        ∧ ∀ i < 128, i ≠ 0 → (i < 6 ∨ 12 ≤ i) →
          readByte t.ram (0x1000 + 128 * k + i) = readByte s.ram (0x1000 + 128 * k + i))
      ∧ (∀ k < 32, (∀ o, ¬ refused k o) → cueBytes t.ram k = cueBytes s.ram k)
      ∧ (∀ a, a < 0x1000 ∨ 0x2000 ≤ a → readByte t.ram a = readByte s.ram a)
      ∧ t.cues = s.cues ∧ t.todo = s.todo ∧ t.slots = s.slots ∧ t.trans = s.trans ∧ t.loader = s.loader
      ∧ (t.att.notice 0).count = min 255 ((s.att.notice 0).count + (List.range 32).countP fun k =>
          s.isCandidate k && (cueNumber s.ram k == 0 || isBehind s.cues.expected (cueNumber s.ram k)))
      ∧ ∀ i, i ≠ 0 → t.att.notice i = s.att.notice i

/-- MARK is answered DONE at its take with its tag, in every mode, locked or not, and changes nothing else (01 R17). -/
def Obligations.MarkIsAnswered : Prop :=
  ∀ (s : State) (k : Nat), s.takeable k .mark →
    exec (.mark k) s = .next ((s.took k).answer k (cueBytes s.ram k) .done (u32 (cueBytes s.ram k) 12))

/-! ### Scenes (02) -/

/-- LOAD SCENE: its refusals in their order, and its acceptance (02 R21, R22). -/
def Obligations.LoadSceneIsCheckedAndAccepted : Prop :=
  ∀ (s : State) (k : Nat), s.takeable k .loadScene →
    let b := cueBytes s.ram k
    let t := s.took k
    let n := u8 b 12
    let offset := u32 b 13
    let length := u32 b 17
    exec (.loadScene k) s = .next (
      if 7 < n then t.answer k b .range 0
      else if offset < 0x06000 ∨ 0x80000 < offset + length ∨ length % 2 = 1 ∨ length < 26 then t.answer k b .range 0
      else if (s.slot n).state ≠ .vacant then t.answer k b .notVacant 0
      else if s.loader.isSome = true then t.answer k b .busy 0
      else ((t.onSlot n fun x => { x with state := .loading, flags := .clear, image := [] }).setLoader
        (some ⟨n, k, offset, length, 0, 0, .copying⟩)).dropWork .copy)

/-- VACATE SCENE by the state of its slot (02 R34), and the abort of a load (02 R35): the pending request of the slot is removed,
and a computation of it under way serves no one: it is no load's computation and the loader is not told. That the LOAD SCENE's
ABORTED answer comes before the VACATE SCENE's DONE answer, so that the last detail of CUE ANSWERED is the VACATE SCENE's, is the
model's choice: R35 does not say which is taken last (log 33). -/
def Obligations.VacateSceneByState : Prop :=
  (∀ (s : State) (k : Nat), s.takeable k .vacateScene →
    let b := cueBytes s.ram k
    let t := s.took k
    let n := u8 b 12
    (7 < n → exec (.vacateScene k) s = .next (t.answer k b .range 0))
    ∧ (n ≤ 7 → ((s.slot n).state = .live ∨ (s.slot n).state = .outgoing
          ∨ ((s.slot n).state = .ready ∧ s.trans.bind (·.target) = some n)) →
        exec (.vacateScene k) s = .next (t.answer k b .busy 0))
    ∧ (n ≤ 7 → (s.slot n).state = .ready → s.trans.bind (·.target) ≠ some n →
        exec (.vacateScene k) s =
          .next ((t.onSlot n fun x => { x with state := .vacant, record := none }).answer k b .done 0))
    ∧ (n ≤ 7 → (s.slot n).state = .faulted →
        exec (.vacateScene k) s = .next ((t.onSlot n fun x => { x with state := .vacant }).answer k b .done 0))
    ∧ (n ≤ 7 → (s.slot n).state = .vacant → exec (.vacateScene k) s = .next (t.answer k b .done 0))
    ∧ ∀ l, n ≤ 7 → (s.slot n).state = .loading → s.loader = some l → l.target = n →
        exec (.vacateScene k) s = .next
          ((((((t.onSlot n fun x => { x with state := .vacant, record := none }).forgetLoad n).answerHeld l.cueSlot
            .aborted 0).raise .loadEnded (n + 256 * 0x0D)).setLoader none).answer k b .done 0))
    ∧ ∀ (s : State) (n : Nat), s.forgetLoad n = s.setCoef { s.coef with
        requests := s.coef.requests.filter fun e => e.slot != n
        underWay := s.coef.underWay.map fun c => if c.slot = n then { c with full := false, loader := false } else c }

/-- The end of the copy: the last chunk is added to the sum; a sum other than 0 or a fault of validation makes the slot FAULTED,
answers IMAGE with field code and record index and raises LOAD ENDED, and a computation of the slot that is under way is no later
load's (04 R83); otherwise the record is built and its computation requested (02 R24, R25, R32). A chunk before the last: 512 bytes
join the image store and the sum, the count of bytes copied rises by 512, and nothing else changes (02 R24). Validation: the
header's faults in their order, then the line records, the send entries and the speaker records with their taps, each with its
faults in their order, then the tap count and the length; the first fault is the one reported, and without one the record holds what
was read (02 R26 to R31, R38 to R40). -/
def Obligations.CopyEnds : Prop :=
  (∀ (s : State) (l : LoadRecord), s.due .copy → s.loader = some l → l.phase = .copying → l.done ≤ l.length →
    l.length ≤ l.done + 512 →
    let bytes := readBytes s.ram (l.offset + l.done) (l.length - l.done)
    let sum := l.sum + wordSum bytes
    let image := ((s.slot l.target).image ++ bytes).take 7168
    let t := (s.doing .copy).onSlot l.target fun x => { x with image := image }
    let fail (code index : Nat) : State :=
      ((((t.onSlot l.target fun x => { x with state := .faulted, record := none, image := [] }).setCoef { s.coef with
        underWay := s.coef.underWay.map fun c =>
          if c.slot = l.target then { c with full := false, loader := false } else c }).answerHeld l.cueSlot
        .image (256 * code + 65536 * index)).raise .loadEnded (l.target + 256 * 0x0C)).setLoader none
    l.target < s.slots.length →
    exec .copyEnd s = .next (
      if sum ≠ 0 then fail 0x01 0
      else match validate image l.length with
        | .error f => fail f.1 f.2
        | .ok r => ((t.onSlot l.target fun x => { x with record := some r }).setLoader
            (some { l with done := l.length, sum := sum, phase := .computing })).request ⟨l.target, none, true, false⟩))
    ∧ (∀ (s : State) (l : LoadRecord), s.loader = some l → l.phase = .copying → l.done + 512 < l.length →
      let bytes := readBytes s.ram (l.offset + l.done) 512
      State.perform .copy s =
        (s.onSlot l.target fun x => { x with image := ((s.slot l.target).image ++ bytes).take 7168 }).setLoader
          (some { l with done := l.done + 512, sum := l.sum + wordSum bytes }))
    ∧ ∀ (img : List Byte) (len : Nat),
      let badTime (t : Nat) : Bool := decide (t < 100 ∨ 12000 < t)
      let badGain (g : Int) : Bool := decide (g ≠ -32768 ∧ (g < -9600 ∨ 1200 < g))
      let gain (g : Int) : Option Int := if g = -32768 then none else some g
      let n := u8 img 8
      validate img len = (
        if img.take 4 ≠ [0x43, 0x53, 0x43, 0x31] then .error (0x02, 0)
        else if u32 img 4 ≠ len then .error (0x03, 0)
        else if n ∉ [4, 8, 16, 32] then .error (0x04, 0)
        else if u8 img 9 ≠ 0 ∧ u8 img 9 ≠ 1 then .error (0x05, 0)
        else if u16 img 10 < 5 ∨ 300 < u16 img 10 then .error (0x06, 0)
        else if badTime (u16 img 12) = true ∨ badTime (u16 img 14) = true ∨ badTime (u16 img 16) = true then .error (0x07, 0)
        else if 256 < u16 img 18 then .error (0x0B, 0)
        else if 128 < u16 img 20 then .error (0x0E, 0)
        else if 1024 < u16 img 22 then .error (0x12, 0)
        else match checkLines img len n 0 24 with
        | .error f => .error f
        | .ok (lines, p) => match checkSends img len n (u16 img 18) 0 p [] with
          | .error f => .error f
          | .ok (sends, p) => match checkSpeakers img len lines (u16 img 20) 0 p 0 [] with
            | .error f => .error f
            | .ok (speakers, p, taps) =>
              if taps ≠ u16 img 22 then .error (0x12, 0)
              else if p ≠ len - 2 then .error (0x03, 0)
              else .ok ⟨if u8 img 9 = 0 then .nearest else .down, u16 img 10, ⟨u16 img 12, u16 img 14, u16 img 16⟩, lines,
                sends, speakers, none, none⟩)
      ∧ (∀ m j p, checkLines img len 0 j p = .ok ([], p) ∧ checkLines img len (m + 1) j p = (
        let loop := u16 img p
        let flags := u8 img (p + 6)
        let before (b : Nat) : Nat := (List.range b).countP fun i => flags.testBit i
        let time (b : Nat) : Option Nat := if flags.testBit b = true then some (u16 img (p + 7 + 2 * before b)) else none
        if len < p + 9 then .error (0x03, 0)
        else if loop < 256 ∨ 30720 < loop then .error (0x08, j)
        else if min 512 (loop / 4) < u16 img (p + 2) then .error (0x09, j)
        else if 8 ≤ flags then .error (0x0A, j)
        else if len < p + 9 + 2 * before 3 then .error (0x03, 0)
        else if (time 0).any badTime = true ∨ (time 1).any badTime = true ∨ (time 2).any badTime = true then .error (0x0A, j)
        else match checkLines img len m (j + 1) (p + 7 + 2 * before 3) with
        | .error f => .error f
        | .ok (rest, q) => .ok (⟨loop, u16 img (p + 2), u16 img (p + 4), ⟨time 0, time 1, time 2⟩⟩ :: rest, q)))
      ∧ (∀ m lines i p seen, checkSends img len lines 0 i p seen = .ok ([], p) ∧ checkSends img len lines (m + 1) i p seen = (
        let e : SendRecord := ⟨u8 img p, u8 img (p + 1), gain (s16 img (p + 2))⟩
        if len < p + 6 then .error (0x03, 0)
        else if 47 < e.mic ∨ lines ≤ e.line then .error (0x0B, i)
        else if ∃ x ∈ seen, x.mic = e.mic ∧ x.line = e.line then .error (0x0C, i)
        else if badGain (s16 img (p + 2)) = true then .error (0x0D, i)
        else match checkSends img len lines m (i + 1) (p + 4) (e :: seen) with
        | .error f => .error f
        | .ok (rest, q) => .ok (e :: rest, q)))
      ∧ (∀ m lines r p taps seen, checkSpeakers img len lines 0 r p taps seen = .ok ([], p, taps)
        ∧ checkSpeakers img len lines (m + 1) r p taps seen = (
        let speaker := u8 img p
        let t := u8 img (p + 1)
        let level := s16 img (p + 2)
        if len < p + 6 then .error (0x03, 0)
        else if 127 < speaker ∨ speaker ∈ seen then .error (0x0E, r)
        else if t < 1 ∨ 8 < t then .error (0x0F, r)
        else if level < -9600 ∨ 1200 < level then .error (0x11, r)
        else if len < p + 6 + 5 * t then .error (0x03, 0)
        else match checkTaps img lines t taps (p + 4) with
        | .error f => .error f
        | .ok list => match checkSpeakers img len lines m (r + 1) (p + 4 + 5 * t) (taps + t) (speaker :: seen) with
          | .error f => .error f
          | .ok (rest, q, count) => .ok (⟨speaker, level, list⟩ :: rest, q, count)))
      ∧ ∀ m (lines : List LineRecord) i p, checkTaps img lines 0 i p = .ok [] ∧ checkTaps img lines (m + 1) i p = (
        let line := u8 img p
        let offset := u16 img (p + 1)
        if lines.length ≤ line ∨ (lines[line]?).any (fun l => decide (l.loopLength < offset)) = true then .error (0x10, i)
        else if badGain (s16 img (p + 3)) = true then .error (0x11, i)
        else match checkTaps img lines m (i + 1) (p + 5) with
        | .error f => .error f
        | .ok rest => .ok (⟨line, offset, gain (s16 img (p + 3))⟩ :: rest))

/-! ### Coefficients (04) -/

/-- Stage 1 and stage 2 for every line and band: the effective time floor(T × k / 1000) limited to 100..12000, the attenuation
floor((250 L + T') / (2 T')) limited to Amin..9600, and the flags their limits set; the decay word is that of the attenuation (04
R71, R72, R73). A speaker's taps: the word of a tap that is not off is that of its gain less the normalization plus the level,
limited to -9600..1200, and a limit that acts sets GCLAMP; the normalization of no tap is 0, of one tap its gain, of two and of four
equal taps their gain and 301 and 602 more; raising every tap raises it as much; and it is what R75 gives at values of unequal taps
(04 R75). A computation: its time factor is 1000 + tau - beta, its decay words and effective times are those of every line and band,
its flags are those that any line, band or, for a load computation alone, tap sets; a load computation forms the send and tap words,
another leaves them (02 R38, R41; 04 R70, R74, R76, R77). -/
def Obligations.StagesOfABand : Prop :=
  (∀ (r : SceneRecord) (l : LineRecord) (k : Nat) (b : Band), r.amin ≤ 9600 →
    let v := targetTime r l b * k / 1000
    let time := max 100 (min 12000 v)
    let a := (250 * l.loopLength + time) / (2 * time)
    let word := decayWord r.quantization (max r.amin (min 9600 a))
    bandResult r l k b = (word, time, ⟨decide (a < r.amin), decide (9600 < a), decide (v < 100 ∨ 12000 < v), false⟩))
    ∧ (∀ sp : SpeakerRecord,
      let n := normalization (sp.taps.filterMap (·.gain))
      (speakerWords sp).1 = sp.taps.map (fun t => match t.gain with
        | none => 0
        | some c => gainWord (max (-9600) (min 1200 (c - n + sp.level))))
      ∧ ((speakerWords sp).2 = true ↔ ∃ t ∈ sp.taps, ∃ c, t.gain = some c
          ∧ (c - n + sp.level < -9600 ∨ 1200 < c - n + sp.level)))
    ∧ (∀ (r : SceneRecord) (l : LineRecord), targetTime r l .lf = l.override.lf.getD r.times.lf
      ∧ targetTime r l .mf = l.override.mf.getD r.times.mf ∧ targetTime r l .hf = l.override.hf.getD r.times.hf)
    ∧ (∀ (r : SceneRecord) (full : Bool) (tau : ℤ) (beta k : ℕ), (k : ℤ) = 1000 + tau - beta →
      let x := computeRecord r full tau beta
      let flag (f : StatusFlags → Bool) : Prop := ∃ l ∈ r.lines, ∃ b : Band, f (bandResult r l k b).2.2 = true
      x.1.decay = r.lines.map (fun l => ⟨(bandResult r l k .lf).1, (bandResult r l k .mf).1, (bandResult r l k .hf).1⟩)
      ∧ x.1.times = r.lines.map (fun l => ⟨(bandResult r l k .lf).2.1, (bandResult r l k .mf).2.1, (bandResult r l k .hf).2.1⟩)
      ∧ (x.2.floor = true ↔ flag (·.floor)) ∧ (x.2.ceil = true ↔ flag (·.ceil)) ∧ (x.2.tclamp = true ↔ flag (·.tclamp))
      ∧ (x.2.gclamp = true ↔ full = true ∧ ∃ sp ∈ r.speakers, (speakerWords sp).2 = true)
      ∧ (full = true → x.1.tapWords = r.speakers.map (fun sp => (speakerWords sp).1)
        ∧ x.1.sendWords = r.sends.map fun e => match e.gain with
          | none => 0
          | some c => gainWord c)
      ∧ (full = false → ∀ c, r.computed = some c → x.1.sendWords = c.sendWords ∧ x.1.tapWords = c.tapWords))
    ∧ normalization [] = 0 ∧ (∀ c : ℤ, normalization [c] = c)
    ∧ (∀ c : ℤ, normalization [c, c] = c + 301 ∧ normalization [c, c, c, c] = c + 602)
    ∧ (∀ (cs : List ℤ) (k : ℤ), cs ≠ [] → normalization (cs.map (· + k)) = normalization cs + k)
    ∧ [[0, -602], [1200, -9600], [-301, -301, -477, -9600], [1200, 900, 600, 300, 0, -300, -600, -900],
        List.replicate 8 1200].map normalization = [97, 1200, 125, 1500, 2103]

/-- A gain of c cdB becomes round-half-up(8192 × 10^(c/2000)), up to the 2400 cdB of a microphone's trim; a gain that is off becomes
0, and the load computation makes every send word so (04 R74, 06 R117). -/
def Obligations.GainWordsAreRounded : Prop :=
  (∀ c : ℤ, -9600 ≤ c → c ≤ 2400 → (gainWord c : ℤ) = ⌊(8192 : ℝ) * (10 : ℝ) ^ ((c : ℝ) / 2000) + 1 / 2⌋)
    ∧ gainWordOf none = 0 ∧ (∀ c, gainWordOf (some c) = gainWord c)
    ∧ ∀ (r : SceneRecord) (tau : ℤ) (beta : ℕ),
      (computeRecord r true tau beta).1.sendWords = r.sends.map fun e => gainWordOf e.gain

/-- The decay word of an attenuation of 5 to 9600 cdB: DOWN rounds 65536 × 10^(-A/2000) toward zero, NEAREST to the nearest, a
value halfway to the even neighbour; it is at most 65535 (04 R73). -/
def Obligations.DecayWordsAreQuantized : Prop :=
  ∀ a : ℕ, 5 ≤ a → a ≤ 9600 →
    let x : ℝ := 65536 * (10 : ℝ) ^ (-(a : ℝ) / 2000)
    (decayWord .down a : ℤ) = ⌊x⌋ ∧ abs ((decayWord .nearest a : ℝ) - x) ≤ 1 / 2
      ∧ (abs ((decayWord .nearest a : ℝ) - x) = 1 / 2 → decayWord .nearest a % 2 = 0)
      ∧ decayWord .nearest a ≤ 65535 ∧ decayWord .down a ≤ 65535

/-- The completion of a computation: results, loader, changeover unit, pick (04 R82). The results by the state of the slot: discarded
for OUTGOING, VACANT, FAULTED and a load that is not the loader's; decay words and times in READY and LIVE, with the flags and ARITH
CLAMP for newly set ones; in LIVE each engine of the map starts its three glides, from the word that a glide in progress leaves (04
R77, R83, R84). A load's computation is whole, and the loader's slot is then READY, its LOAD SCENE answered DONE, LOAD ENDED raised
(02 R33). The pick drops what serves no one and takes LIVE, then target, then LOADING (04 R81). A request starts at once or enters the
set (04 R80, R81). What a superseded GO's entry does to a slot that loads again is log 30's choice. -/
def Obligations.ComputationCompletes : Prop :=
  (∀ (s : State) (c : Computation), s.due .compute → s.coef.underWay = some c →
    let u := (((s.doing .compute).applyResults c).tellLoader c).tellChangeover c
    exec .computationComplete s = .next (u.setCoef { u.coef with underWay := none }).pick
    ∧ ((s.slot c.slot).state = .outgoing ∨ (s.slot c.slot).state = .vacant ∨ (s.slot c.slot).state = .faulted →
        s.applyResults c = s)
    ∧ ((s.slot c.slot).state = .loading → c.full = false → s.applyResults c = s)
    ∧ ∀ r, (s.slot c.slot).record = some r → (s.slot c.slot).state = .ready → c.slot < s.slots.length →
        ((s.applyResults c).slot c.slot).record = some { r with computed := some (computeRecord r false c.tau c.beta).1 }
        ∧ ((s.applyResults c).slot c.slot).flags =
            (s.slot c.slot).flags.add (computeRecord r false c.tau c.beta).2
        ∧ (s.applyResults c).engines = s.engines ∧ (s.applyResults c).ram = s.ram)
    ∧ (∀ (s : State) (c : Computation) (r : SceneRecord), (s.slot c.slot).record = some r → c.slot < s.slots.length →
      let t := s.applyResults c
      let kept (x : Computed × StatusFlags) : Prop :=
        let new := (s.slot c.slot).flags.newly x.2
        t.slots = s.slots.set c.slot { s.slot c.slot with
          record := some { r with computed := some x.1 }, flags := (s.slot c.slot).flags.add x.2 }
        ∧ t.att = (if new.byte = 0 then s.att else (s.raise .arithClamp (c.slot + 256 * new.byte)).att)
        ∧ t.ram = s.ram ∧ t.coef = s.coef ∧ t.net = s.net ∧ t.trans = s.trans ∧ t.loader = s.loader ∧ t.cues = s.cues
      ((s.slot c.slot).state = .loading → c.full = true →
        kept (computeRecord r true c.tau c.beta) ∧ t.engines = s.engines
        ∧ ∀ l, s.loader = some l → c.loader = true → t.tellLoader c =
            (((t.onSlot l.target fun x => { x with state := .ready }).answerHeld l.cueSlot .done 0).raise .loadEnded
              l.target).setLoader none)
      ∧ ((s.slot c.slot).state = .ready → kept (computeRecord r false c.tau c.beta))
      ∧ ((s.slot c.slot).state = .live → kept (computeRecord r false c.tau c.beta)
        ∧ (r.engineMap = none → t.engines = s.engines)
        ∧ ∀ es, r.engineMap = some es → es.Nodup →
          (∀ i, i ∉ es → t.engines[i]? = s.engines[i]?)
          ∧ ∀ j i e, es[j]? = some i → s.engines[i]? = some e →
            let words := (computeRecord r false c.tau c.beta).1.decay.getD j ⟨0, 0, 0⟩
            let e' := [Band.lf, .mf, .hf].foldl (fun x b => if .decayGlide i b ∈ s.todo then x.stepGlide b else x) e
            let start (b : Band) : Option Glide := some ⟨e'.words.get b, words.get b, c.glide.getD 32, 0⟩
            t.engines[i]? = some { e' with glides := ⟨start .lf, start .mf, start .hf⟩ }))
    ∧ (∀ (s : State) (c : Computation),
      (c.loader = false ∨ c.full = false ∨ s.loader = none → s.tellLoader c = s)
      ∧ (c.changeover = true → s.tellChangeover c = s.plan) ∧ (c.changeover = false → s.tellChangeover c = s))
    ∧ (∀ (s : State) (q : Request),
      let started (c : Coefficients) (q : Request) : State := s.setCoef { c with
        underWay := some ⟨q.slot, s.frame, s.coef.tau, s.guard.beta, decide ((s.slot q.slot).state = .loading), q.glide,
          q.loader, q.changeover⟩ }
      let serves (e : Request) : Bool :=
        some e.slot == s.live || some e.slot == s.trans.bind (·.target) || some e.slot == s.loading
      let entry (k : Option Nat) : Option Request := k.bind fun k => s.coef.requests.find? fun e => e.slot == k
      s.pick = (match ((entry s.live).or (entry (s.trans.bind (·.target)))).or (entry s.loading) with
        | none => s.setCoef { s.coef with requests := [] }
        | some q => started { s.coef with requests := s.coef.requests.filter fun e => serves e && e.slot != q.slot } q)
      ∧ (s.coef.underWay = none → s.request q = started s.coef q)
      ∧ (s.coef.underWay ≠ none →
        ((∀ e ∈ s.coef.requests, e.slot ≠ q.slot) →
          s.request q = s.setCoef { s.coef with requests := s.coef.requests ++ [q] })
        ∧ ((∃ e ∈ s.coef.requests, e.slot = q.slot) →
          s.request q = s.setCoef { s.coef with requests := s.coef.requests.map fun e => if e.slot = q.slot then
            ⟨e.slot, q.glide.or e.glide, e.loader || q.loader, e.changeover || q.changeover⟩ else e })))

/-- TRIM: the parameters of the selected parts are clamped; tau is set and the LIVE slot requested with the glide; epsilon is set
and its word's glide started, from the word that the step of a glide in progress leaves where that step is still to be made; DONE,
CLAMPED when a selected parameter was clamped (04 R87, R88, R89). -/
def Obligations.TrimSetsTauAndEpsilon : Prop :=
  ∀ (s : State) (k : Nat), s.takeable k .trim →
    let b := cueBytes s.ram k
    let first := (u8 b 12).testBit 0
    let second := (u8 b 12).testBit 1
    let tau := max (-500) (min 500 (s16 b 13))
    let epsilon := max (-9600) (min 0 (s16 b 15))
    let glide := max 1 (min 3000 (u16 b 17))
    let t1 := if first then ((s.took k).setCoef { s.coef with tau := tau }).requestLive glide else s.took k
    let u := if .epsGlide ∈ s.todo then State.perform .epsGlide (t1.doing .epsGlide) else t1
    let t2 := if second then u.setCoef { u.coef with epsilon := epsilon
                                                     epsilonGlide := some ⟨u.coef.epsilonWord, gainWord epsilon, glide, 0⟩ }
      else t1
    let clamped := (first = true ∧ tau ≠ s16 b 13) ∨ (second = true ∧ epsilon ≠ s16 b 15)
      ∨ ((first = true ∨ second = true) ∧ glide ≠ u16 b 17)
    (clamped → exec (.trim k) s = .next (t2.answer k b .done (2 ^ 31)))
    ∧ (¬ clamped → exec (.trim k) s = .next (t2.answer k b .done 0))

/-- Each glide's last step leaves the word at its end value and removes the glide: decay, epsilon, trim, fallback (04 R84, R87;
06 R119, R122) and notch depth, where a FREE entry's filter at depth 0 leaves its microphone (06 R121). A step before the last leaves
the word at start + trunc((end - start) × j / length) and the glide at step j; as above, a FREE entry's filter that reaches depth 0
leaves. -/
def Obligations.GlidesEnd : Prop :=
  (∀ (s : State) (g : Glide), 0 < g.length → g.step + 1 = g.length →
    (∀ e b x, e < 32 → s.due (.decayGlide e b) → s.engines[e]? = some x → x.glides.get b = some g →
      exec (.decayGlideEnd e b) s = .next ((s.doing (.decayGlide e b)).setEngines
        (s.engines.set e { x with words := x.words.put b g.stop.toNat, glides := x.glides.put b none })))
    ∧ (s.due .epsGlide → s.coef.epsilonGlide = some g →
      exec .epsilonGlideEnd s = .next ((s.doing .epsGlide).setCoef
        { s.coef with epsilonWord := g.stop.toNat, epsilonGlide := none }))
    ∧ (∀ m x, m < 48 → s.due (.trimGlide m) → s.mics[m]? = some x → x.trimGlide = some g →
      exec (.trimGlideEnd m) s = .next ((s.doing (.trimGlide m)).setMics
        (s.mics.set m { x with trimWord := g.stop.toNat, trimGlide := none })))
    ∧ (∀ m x, m < 48 → s.due (.fallbackGlide m) → s.mics[m]? = some x → x.fallbackGlide = some g →
      exec (.fallbackGlideEnd m) s = .next ((s.doing (.fallbackGlide m)).setMics
        (s.mics.set m { x with fallbackWord := g.stop.toNat, fallbackGlide := none })))
    ∧ ∀ n x, n < 16 → s.due (.depthGlide n) → s.guard.pool[n]? = some x → x.filter.glide = some g →
      exec (.notchDepthGlideEnd n) s = .next ((s.doing (.depthGlide n)).setGuard { s.guard with
        pool := s.guard.pool.set n { x with filter := { x.filter with
          depth := g.stop.toNat, glide := none
          engaged := if x.kind = .free ∧ g.stop = 0 then false else x.filter.engaged } } }))
    ∧ ∀ (s : State) (g : Glide), g.step + 1 < g.length →
      let j := g.step + 1
      let v : ℤ := g.start + ((g.stop - g.start) * j).tdiv g.length
      let rest : Option Glide := some { g with step := j }
      (∀ e b x, s.engines[e]? = some x → x.glides.get b = some g → State.perform (.decayGlide e b) s = s.setEngines
        (s.engines.set e { x with words := x.words.put b v.toNat, glides := x.glides.put b rest }))
      ∧ (s.coef.epsilonGlide = some g → State.perform .epsGlide s = s.setCoef
        { s.coef with epsilonWord := v.toNat, epsilonGlide := rest })
      ∧ (∀ m x, s.mics[m]? = some x → x.trimGlide = some g → State.perform (.trimGlide m) s = s.setMics
        (s.mics.set m { x with trimWord := v.toNat, trimGlide := rest }))
      ∧ (∀ m x, s.mics[m]? = some x → x.fallbackGlide = some g → State.perform (.fallbackGlide m) s = s.setMics
        (s.mics.set m { x with fallbackWord := v.toNat, fallbackGlide := rest }))
      ∧ ∀ n x, s.guard.pool[n]? = some x → x.filter.glide = some g → State.perform (.depthGlide n) s = s.setGuard
        { s.guard with pool := s.guard.pool.set n { x with filter :=
          if x.kind = .free ∧ v = 0 then { x.filter with depth := 0, glide := none, engaged := false }
          else { x.filter with depth := v.toNat, glide := rest } } }

/-! ### Changeovers (05) and the reflection network (03) -/

/-- GO: its refusals and answers without a change in their order, its acceptance, and the supersession of a record in PREPARE or
in CLAIM with style OVERLAP, whose request no longer serves the changeover unit, be it pending or under way (05 R94, R95, R96,
R109). -/
def Obligations.GoIsCheckedAndAccepted : Prop :=
  (∀ (s : State) (k : Nat), s.takeable k .go →
    let b := cueBytes s.ram k
    let t := s.took k
    let n := u8 b 12
    let fade := max 1 (min 30000 (u16 b 13))
    let noted := decide (fade ≠ u16 b 13)
    let clamped := if fade ≠ u16 b 13 then 2 ^ 31 else 0
    let record : Transition := ⟨some n, s.live, fade, noted, none, .prepare, 0, [], k⟩
    let accept (u : State) : State :=
      if n = 255 then (u.setTrans (some ⟨none, s.live, fade, noted, some .overlap, .fade, 0, [], k⟩)).retire s.live
      else (u.setTrans (some record)).request ⟨n, none, false, true⟩
    exec (.go k) s = .next (
      if 7 < n ∧ n ≠ 255 then t.answer k b .range clamped
      else if n ≠ 255 ∧ s.live = some n then t.answer k b .done clamped
      else if n = 255 ∧ s.live = none then t.answer k b .done clamped
      else if n ≠ 255 ∧ (s.slot n).state ≠ .ready then t.answer k b .notReady clamped
      else match s.trans with
        | none => accept t
        | some r =>
          if r.phase = .prepare ∨ (r.phase = .claim ∧ r.style = some .overlap) then
            accept (((t.answerHeld r.cueSlot .superseded (if r.clamped then 2 ^ 31 else 0)).setTrans none).forgetChangeover)
          else t.answer k b .busy clamped))
    ∧ (∀ s : State, s.forgetChangeover = s.setCoef { s.coef with
        requests := s.coef.requests.map fun e => { e with changeover := false }
        underWay := s.coef.underWay.map fun c => { c with changeover := false } })
    ∧ ∀ (s : State) (x : Nat), s.retire none = s ∧ s.retire (some x) = s.onSlot x fun y => { y with state := .outgoing }

/-- CLAIM: with n engines FREE the n lowest-numbered of them are claimed, the j-th for line j with its record's values, the sweep
at 0, up for even lines; the play record starts at send fade 0 and output fade 32768 or, in SEQUENTIAL, 0; the other engines stay
as they are; the target is LIVE, the source OUTGOING in OVERLAP, the record in FADE or IN at position 0 (03 R49, 05 R101,
R102). The plan that leads to it: claim at once, cut as few draining scenes as reach n in the order of the draining list, or give up
the source and cut every one in HOLD (05 R98, R99, R106); a cut starts the closing of a tail in HOLD from its output fade and joins
the record's cut list (05 R113). A claim request stands at the frame boundary of the plan too, once, before the publication (05
R101). -/
def Obligations.ClaimTakesTheLowestFreeEngines : Prop :=
  (∀ (s : State) (t : Transition) (k : Nat) (r : SceneRecord), s.due .claim → s.trans = some t → t.phase = .claim →
    t.target = some k → (s.slot k).record = some r → r.lines.length ≤ countEngines .free s.engines →
    exec .claim s = .next ((s.doing .claim).claimTarget t k r))
    ∧ (∀ (s : State) (t : Transition) (k : Nat) (r : SceneRecord), (s.slot k).record = some r →
    r.lines.length ≤ countEngines .free s.engines → k < s.slots.length → k < s.net.play.length →
    let map := ((List.range s.engines.length).filter fun i => (s.engines[i]?).any fun e => e.state == .free).take
      r.lines.length
    let overlap := t.style = some .overlap
    let u := s.claimTarget t k r
    u.trans = some { t with phase := if overlap then .fade else .in_, position := 0 }
      ∧ map.length = r.lines.length
      ∧ (∀ i, i ∉ map → u.engines[i]? = s.engines[i]?)
      ∧ (∀ (j i : Nat) (l : LineRecord) (e : Engine), map[j]? = some i → r.lines[j]? = some l → s.engines[i]? = some e →
          u.engines[i]? = some { e with
            state := .assigned, owner := some k, line := some j, loopLength := l.loopLength, depth := l.depth, rate := l.rate
            sweep := 0, up := decide (j % 2 = 0)
            words := ((r.computed.map (·.decay)).getD []).getD j ⟨0, 0, 0⟩ })
      ∧ u.playOf k = some ⟨0, if overlap then 32768 else 0⟩
      ∧ (t.source ≠ some k → (u.slot k).state = .live)
      ∧ ((u.slot k).record.bind (·.engineMap)) = some map
      ∧ (∀ x, t.source = some x → x < s.slots.length → overlap → (u.slot x).state = .outgoing)
      ∧ u.ram = s.ram ∧ u.att = s.att ∧ u.net.draining = s.net.draining ∧ u.tails = s.tails ∧ u.todo = s.todo)
    ∧ (∀ s : State, s.standClaim = s.setTodo ((s.todo.filter fun w => w != .claim && w != .publish) ++ [.claim, .publish]))
    ∧ (∀ (s : State) (t : Transition) (k : Nat) (r : SceneRecord), s.trans = some t → t.phase = .prepare →
      t.target = some k → (s.slot k).record = some r →
      let n := r.lines.length
      let free := s.engines.countP fun e => decide (e.state = .free)
      let scrub := s.engines.countP fun e => decide (e.state = .scrubbing)
      let drain := s.engines.countP fun e => decide (e.state = .draining)
      let closing := s.engines.countP fun e => decide (e.state = .draining) && (match e.owner with
        | some x => (s.tails.find? fun y => y.slot == x).any fun y => !y.holding
        | none => false)
      let list := s.net.draining.map (·.1)
      (n ≤ free → s.plan = s.claimTarget { t with style := some .overlap, phase := .claim } k r)
      ∧ (free < n → n ≤ free + scrub + drain → s.plan = (cutWalk n list (free + scrub + closing)
          (s.setTrans (some { t with style := some .overlap, phase := .claim }))).standClaim)
      ∧ (free + scrub + drain < n →
        let u := list.foldl State.cutSlot (s.setTrans (some { t with style := some .sequential, phase := .out, position := 0 }))
        s.plan = match t.source with
          | some x => u.onSlot x fun y => { y with state := .outgoing }
          | none => u))
    ∧ ∀ (s : State) (k : Nat),
      let hold : Prop := ∃ n, s.tails.find? (fun x => x.slot == k) = some ⟨k, .hold n⟩
      (¬ hold → s.cutSlot k = s)
      ∧ (hold → (s.cutSlot k).tails = s.tails.map (fun x => if x.slot = k ∧ x.holding = true then
            ⟨k, .closing (((s.playOf k).map (·.output)).getD 0) 0⟩ else x)
          ∧ (s.cutSlot k).trans = s.trans.map (fun t => { t with cuts := t.cuts ++ [k] })
          ∧ (s.cutSlot k).todo = s.todo.filter (· != .tail k)
          ∧ (s.cutSlot k).engines = s.engines ∧ (s.cutSlot k).net = s.net ∧ (s.cutSlot k).slots = s.slots)
      ∧ (∀ n r, cutWalk n [] r s = s)
      ∧ (∀ n r rest, n ≤ r → cutWalk n (k :: rest) r s = s)
      ∧ (∀ n r rest, r < n → ¬ hold → cutWalk n (k :: rest) r s = cutWalk n rest r s)
      ∧ ∀ n r rest, r < n → hold → cutWalk n (k :: rest) r s = cutWalk n rest (r + (s.slot k).lineCount) (s.cutSlot k)

/-- The end of FADE and of IN: the last fades, in FADE the source's drain with its tail, the answer DONE, CHANGEOVER ENDED, the
persistence counts, the record's removal. The end of OUT: fades 0, the source released and READY, the record in CLAIM (05 R103 to
R108). The steps before the last: the position rises by 1, in FADE the target's send fade becomes rise(p, F) and the source's
fall(p, F), in OUT both fades of the source become fall(p, F_out), in IN both of the target rise(p, F_in); in PREPARE and CLAIM no
fade moves (05 R104, R106, R108). A drain: the slot's ASSIGNED engines become DRAINING and keep everything else, its send fade is 0,
and it joins the end of the draining list with the frame counter; without such an engine nothing changes (03 R51). A release: the
slot's engines become SCRUBBING, its engine map, play record and draining entry go (03 R52). At OUT's end the claim request stands at
that frame boundary too (05 R101, R107). The persistence counts become 0 and nothing else of a microphone changes (06 R129); a tail's
hold is three quarters, rounded up, of the slot's largest effective time (05 R110). -/
def Obligations.ChangeoversAndOutEnd : Prop :=
  (∀ (s : State) (t : Transition), s.due .fade → s.trans = some t →
    let u := (s.doing .fade).setTrans (some { t with position := t.position + 1 })
    let finish (v : State) : State :=
      (((v.answerHeld t.cueSlot .done (if t.clamped then 2 ^ 31 else 0)).raise .changeoverEnded
        (t.target.getD 255 + 256 * t.source.getD 255 + 65536 * if t.style = some .sequential then 1 else 0)).clearPersistence).setTrans
          none
    let out := max 1 (t.fade / 2)
    (t.phase = .fade → t.position + 1 = t.fade →
      let v := (u.fadeSlot t.target fun p => { p with send := 32768 }).fadeSlot t.source fun p => { p with send := 0 }
      exec .changeoverEnd s = .next (finish (match t.source with
        | some x => (v.drainSlot x).setTails (v.tails ++ [⟨x, .hold ((3 * (v.slot x).longest + 3) / 4)⟩])
        | none => v)))
    ∧ (t.phase = .in_ → t.position + 1 = max 1 (t.fade - out) →
      exec .changeoverEnd s = .next (finish (u.fadeSlot t.target fun _ => ⟨32768, 32768⟩)))
    ∧ ∀ x, t.phase = .out → t.source = some x → t.position + 1 = out →
      exec .outEnd s = .next
        ((((((u.fadeSlot (some x) fun _ => ⟨0, 0⟩).releaseSlot x).onSlot x fun y => { y with state := .ready }).setTrans
          (some { t with phase := .claim, position := 0 }))).standClaim))
    ∧ (∀ (s : State) (t : Transition), s.trans = some t →
      let p := t.position + 1
      let u := s.setTrans (some { t with position := p })
      let out := max 1 (t.fade / 2)
      let length := max 1 (t.fade - out)
      let up (g : ℕ) : ℕ := (65536 * p + g) / (2 * g)
      let fades (v : State) (k : Option ℕ) (f : Play → Play) : State := match k with
        | some k => v.setNet { v.net with play := v.net.play.modify k fun x => x.map f }
        | none => v
      (∀ v k f, State.fadeSlot v k f = fades v k f)
      ∧ (t.phase = .fade → p < t.fade → State.perform .fade s =
          fades (fades u t.target fun x => { x with send := up t.fade }) t.source fun x => { x with send := 32768 - up t.fade })
      ∧ (t.phase = .out → p < out → State.perform .fade s =
          fades u t.source fun _ => ⟨32768 - up out, 32768 - up out⟩)
      ∧ (t.phase = .in_ → p < length → State.perform .fade s = fades u t.target fun _ => ⟨up length, up length⟩)
      ∧ (t.phase = .prepare ∨ t.phase = .claim → State.perform .fade s = s))
    ∧ ∀ (s : State) (k : Nat),
      ((∃ e ∈ s.engines, e.owner = some k ∧ e.state = .assigned) → s.drainSlot k = (s.setEngines (s.engines.map fun e =>
          if e.owner = some k ∧ e.state = .assigned then { e with state := .draining } else e)).setNet { s.net with
            draining := s.net.draining ++ [(k, s.frame)]
            play := s.net.play.modify k fun p => p.map fun p => { p with send := 0 } })
      ∧ ((∀ e ∈ s.engines, ¬ (e.owner = some k ∧ e.state = .assigned)) → s.drainSlot k = s)
      ∧ ((∃ e ∈ s.engines, e.owner = some k) → s.releaseSlot k = ((s.setEngines (s.engines.map fun e => if e.owner = some k then
          { e with state := .scrubbing, owner := none, line := none, scrub := some 0, glides := ⟨none, none, none⟩ }
          else e)).onSlot k fun x => { x with record := x.record.map fun r => { r with engineMap := none } }).setNet
            { s.net with play := s.net.play.set k none, draining := s.net.draining.filter fun d => d.1 != k })
      ∧ ((∀ e ∈ s.engines, e.owner ≠ some k) → s.releaseSlot k = s)
      ∧ s.standClaim = s.setTodo ((s.todo.filter fun w => w != .claim && w != .publish) ++ [.claim, .publish])
      ∧ s.clearPersistence = s.setMics (s.mics.map fun m => { m with persistence := 0 })
      ∧ (∀ x : Slot, x.record.bind (·.computed) = none → x.longest = 0)
      ∧ ∀ (x : Slot) (c : Computed), x.record.bind (·.computed) = some c →
        (∀ v ∈ c.times, v.lf ≤ x.longest ∧ v.mf ≤ x.longest ∧ v.hf ≤ x.longest)
        ∧ (x.longest = 0 ∨ ∃ v ∈ c.times, x.longest = v.lf ∨ x.longest = v.mf ∨ x.longest = v.hf)

/-- The values of fades and glides: rise(p, G) = floor((65536 p + G) / (2 G)), a closing's output fade o0 - floor((2 o0 j + 8) /
16), a glide's start + trunc((end - start) × j / length). A rising fade starts at 0 and ends at 32768, never falls, and rising and
falling value sum to 32768 at every position; a closing's output fade never rises, starts at o0 and is 0 at step 8; a glide's values
lie between its start and its end, and its last is its end (04 R84, R87; 05 R103, R111; 06 R119, R121, R122; 07 R160). -/
def Obligations.FadesAndGlidesReachTheirEnds : Prop :=
  (∀ p g, rise p g = (65536 * p + g) / (2 * g))
    ∧ (∀ p g, 0 < g → p ≤ g → (fall p g : ℤ) = 32768 - rise p g)
    ∧ (∀ o0 j, j ≤ 8 → (closingFade o0 j : ℤ) = o0 - (2 * o0 * j + 8) / 16)
    ∧ (∀ (g : Glide) (j : ℕ), g.value j = g.start + ((g.stop - g.start) * j).tdiv g.length)
    ∧ (∀ g, 0 < g → rise 0 g = 0 ∧ rise g g = 32768 ∧ fall 0 g = 32768 ∧ fall g g = 0)
    ∧ (∀ p g, 0 < g → p ≤ g → rise p g + fall p g = 32768)
    ∧ (∀ p q g, 0 < g → p ≤ q → q ≤ g → rise p g ≤ rise q g)
    ∧ (∀ o0, closingFade o0 0 = o0 ∧ closingFade o0 8 = 0)
    ∧ (∀ o0 i j, i ≤ j → closingFade o0 j ≤ closingFade o0 i)
    ∧ ∀ (g : Glide) (j : ℕ), 0 < g.length → j ≤ g.length →
        min g.start g.stop ≤ g.value j ∧ g.value j ≤ max g.start g.stop ∧ g.value 0 = g.start ∧ g.value g.length = g.stop

/-- A tail's hold expires into its closing, from the slot's output fade at step 0; at closing step 8 the slot's engines become
SCRUBBING, its play record and its draining entry go, the slot is READY and the tail is removed (03 R52, 05 R110, R111, R112). Before
that the hold falls by 1 a frame boundary, and the closing's step rises by 1, to j, with the output fade o0 - floor((2 o0 j + 8) / 16)
(05 R110, R111). -/
def Obligations.TailsEnd : Prop :=
  (∀ (s : State) (k o0 : Nat), k < 8 → s.due (.tail k) → s.slots.length = 8 → s.net.play.length = 8 →
    (s.tails.find? (fun t => t.slot == k) = some ⟨k, .hold 1⟩ → ∃ t, exec (.holdExpiry k) s = .next t
      ∧ t.tails = s.tails.map (fun x => if x.slot = k ∧ x.holding = true then
          { x with stage := .closing (((s.playOf k).map (·.output)).getD 0) 0 } else x)
      ∧ t.engines = s.engines ∧ t.net = s.net ∧ t.slots = s.slots ∧ t.ram = s.ram)
    ∧ (s.tails.find? (fun t => t.slot == k) = some ⟨k, .closing o0 7⟩ → s.ownsEngines k = true →
      ∃ t, exec (.closingEnd k) s = .next t
      ∧ t.tails = s.tails.filter (fun x => x.slot != k) ∧ (t.slot k).state = .ready
      ∧ t.playOf k = none ∧ t.net.draining = s.net.draining.filter (fun d => d.1 != k)
      ∧ t.engines = s.engines.map (fun e => if e.owner = some k then
          { e with state := .scrubbing, owner := none, line := none, scrub := some 0, glides := ⟨none, none, none⟩ } else e)
      ∧ (∀ i, i ≠ k → t.slot i = s.slot i) ∧ t.ram = s.ram ∧ t.att = s.att))
    ∧ ∀ (s : State) (k n o0 j : Nat),
      let becomes (x : TailStage) : State := s.setTails (s.tails.map fun y => if y.slot = k then { y with stage := x } else y)
      (s.tails.find? (fun t => t.slot == k) = some ⟨k, .hold (n + 1)⟩ → 0 < n →
        State.perform (.tail k) s = becomes (.hold n))
      ∧ (s.tails.find? (fun t => t.slot == k) = some ⟨k, .closing o0 j⟩ → j + 1 < 8 → State.perform (.tail k) s =
        (becomes (.closing o0 (j + 1))).setNet { s.net with
          play := s.net.play.modify k fun p => p.map fun p => { p with output := o0 - (2 * o0 * (j + 1) + 8) / 16 } })

/-- Scrubbing: the step at progress k below 15 clears positions 2048 k to 2048 k + 2047 and no others; the sixteenth leaves the
engine FREE with a region of zeros and its start values (the other fields 0, the model's choice, log 6); no other engine changes
(03 R53). -/
def Obligations.ScrubbingClearsTheRegion : Prop :=
  (∀ (e : Engine) (k : Nat), e.scrub = some k → k < 15 → sparseWf (0 : Int) 0 e.region = true →
    e.scrubStep = { e with region := e.scrubStep.region, scrub := some (k + 1) }
    ∧ ∀ a, sparseRead 0 e.scrubStep.region a =
        if 2048 * k ≤ a ∧ a ≤ 2048 * k + 2047 then 0 else sparseRead 0 e.region a)
    ∧ ∀ (s : State) (i : Nat) (e : Engine), i < 32 → s.due (.scrub i) → s.engines[i]? = some e → e.scrub = some 15 →
      exec (.scrubEnd i) s = .next ((s.doing (.scrub i)).setEngines (s.engines.set i
        { state := .free, owner := none, line := none, region := [], writePos := 0, loopLength := 0, depth := 0, rate := 0
          sweep := 0, up := true, words := ⟨0, 0, 0⟩, low := 0, high := 0, scrub := none, glides := ⟨none, none, none⟩ }))

/-- One line, one sample: the line output is interpolated at distance L + m / 65536 and lies between its two neighbours; the
sections of 250 Hz and 4 kHz, the three bands, which sum to the line output, and the absorbed value; equal decay words give floor(y
d / 65536); the Hadamard rows of each order are orthogonal, by Sylvester's construction; the mixer's sum, its scale and its
saturation; the sweep moves by its rate, is set to its bound and turns where it passes it (03 R58, R59, R60, R62). The send input
(R63), the taps (R65) and the totals (R66) of a scene; a notch filter's step and the chain of the filters on a microphone, in entry
order (06 R120, R121). The network's sample period: every absorbed value is formed from what stood before, each engine of a playing
scene writes its feedback plus, when ASSIGNED, its send input at its write position, keeps its new band memories, advances and
sweeps; the taps read between the write and the advance; an engine in no playing scene's map stays as it is (03 R57, R61). -/
def Obligations.LineArithmetic : Prop :=
  (∀ e : Engine,
    let i := (65536 * (e.loopLength : ℤ) + e.sweep) / 65536
    min (e.behind i) (e.behind (i + 1)) ≤ e.lineRead ∧ e.lineRead ≤ max (e.behind i) (e.behind (i + 1)))
    ∧ (∀ e : Engine,
      let i := (65536 * (e.loopLength : ℤ) + e.sweep) / 65536
      let f := (65536 * (e.loopLength : ℤ) + e.sweep) % 65536
      e.lineRead = (e.behind i * (65536 - f) + e.behind (i + 1) * f) / 65536)
    ∧ (∀ v : ℤ, sat32 v = max (-2147483648) (min 2147483647 v))
    ∧ (∀ (e : Engine) (y : ℤ),
      let low := e.low + (y - e.low) * 2110 / 65536
      let pass := e.high + (y - e.high) * 26713 / 65536
      let high := y - pass
      let mid := y - low - high
      e.absorb y = (sat32 ((low * e.words.lf + mid * e.words.mf + high * e.words.hf) / 65536), low, pass))
    ∧ (∀ (e : Engine) (y : ℤ) (d : ℕ), e.words = ⟨d, d, d⟩ → (e.absorb y).1 = sat32 (y * d / 65536))
    ∧ (∀ n ∈ [4, 8, 16, 32], ∀ i < n, ∀ j < n,
        ((List.range n).map fun x => hadamard i x * hadamard j x).sum = if i = j then (n : ℤ) else 0)
    ∧ (∀ n ∈ [4, 8, 16, 32], Config.mixerScale n ^ 2 * n ≤ 32768 ^ 2 ∧ 32768 ^ 2 < (Config.mixerScale n + 1) ^ 2 * n)
    ∧ (∀ e : Engine, -(65536 * (e.depth : ℤ)) ≤ e.sweep → e.sweep ≤ 65536 * e.depth →
        -(65536 * (e.depth : ℤ)) ≤ e.sweepStep.sweep ∧ e.sweepStep.sweep ≤ 65536 * e.depth)
    ∧ (∀ e : Engine,
      let bound : ℤ := 65536 * e.depth
      (e.up = true → e.sweep + e.rate ≤ bound → e.sweepStep = { e with sweep := e.sweep + e.rate })
      ∧ (e.up = true → bound < e.sweep + e.rate → e.sweepStep = { e with sweep := bound, up := false })
      ∧ (e.up = false → -bound ≤ e.sweep - e.rate → e.sweepStep = { e with sweep := e.sweep - e.rate })
      ∧ (e.up = false → e.sweep - e.rate < -bound → e.sweepStep = { e with sweep := -bound, up := true }))
    ∧ (hadamard 0 0 = 1 ∧ ∀ n ∈ [1, 2, 4, 8, 16], ∀ i < n, ∀ j < n, hadamard i (j + n) = hadamard i j
        ∧ hadamard (i + n) j = hadamard i j ∧ hadamard (i + n) (j + n) = -hadamard i j)
    ∧ (∀ (a : List ℤ) (j : ℕ), mixLine a j =
        sat32 (Config.mixerScale a.length * ((List.range a.length).map fun i => hadamard j i * a.getD i 0).sum / 32768))
    ∧ (∀ (r : SceneRecord) (words : List ℕ) (xs : List ℤ) (fade e j : ℕ),
        let sum := (((r.sends.zip words).filter fun p => p.1.line == j).map fun p => xs.getD p.1.mic 0 * p.2 / 8192).sum
        sendInput r words xs fade e j = sat32 (sum * fade / 32768 * e / 8192))
    ∧ (∀ (r : SceneRecord) (c : Computed) (play : Play) (lines : List Engine) (totals : List ℤ) (x : ℕ), x < totals.length →
        let tap (t : TapRecord) (g : ℕ) : ℤ := (lines.getD t.line .free).behind t.offset * g / 8192
        (addSpeakers r c play lines totals).getD x 0 = totals.getD x 0
          + (((r.speakers.zip c.tapWords).filter fun p => p.1.speaker == x).map fun p =>
              ((p.1.taps.zip p.2).map fun q => tap q.1 q.2).sum * (play.output : ℤ) / 32768).sum)
    ∧ (∀ (e : Engine) (d : ℤ), e.behind d = sparseRead 0 e.region (((e.writePos : ℤ) - d) % 32768).toNat)
    ∧ (∀ (f : Filter) (u : ℤ),
        let v := sat32 ((f.words.g0 * u + f.words.g1 * f.u1 + f.words.g2 * f.u2 - f.words.h1 * f.v1 - f.words.h2 * f.v2)
          / 2 ^ 30)
        f.step u = (v, { f with u1 := u, u2 := f.u1, v1 := v, v2 := f.v1 }))
    ∧ (∀ (region : List (ℕ × ℤ)) (a b : ℕ) (v : ℤ), sparseWf (0 : ℤ) 0 region = true →
        sparseRead 0 (sparseWrite 0 region a v) b = if b = a then v else sparseRead 0 region b)
    ∧ (∀ (s : State) (xs : List ℤ),
      let plays (k : ℕ) : Option (SceneRecord × Computed × Play × List ℕ) := match (s.slot k).record, s.playOf k with
        | some r, some p => match r.engineMap, r.computed with
          | some es, some c => some (r, c, p, es)
          | _, _ => none
        | _, _ => none
      let heard (i : ℕ) : ℤ × ℤ × ℤ := (s.engines.getD i .free).absorb (s.engines.getD i .free).lineRead
      let written (x : SceneRecord × Computed × Play × List ℕ) (j i : ℕ) : Engine :=
        let e := s.engines.getD i .free
        let v := mixLine (x.2.2.2.map fun i => (heard i).1) j
        let u := if e.state = .assigned then sendInput x.1 x.2.1.sendWords xs x.2.2.1.send s.coef.epsilonWord j else 0
        { e with region := sparseWrite 0 e.region e.writePos (sat32 (v + u)), low := (heard i).2.1, high := (heard i).2.2 }
      s.slots.length = 8 → s.net.play.length = 8 →
      (∀ k x, plays k = some x → x.2.2.2.Nodup ∧ ∀ i ∈ x.2.2.2, i < s.engines.length) →
      (∀ k l x y, plays k = some x → plays l = some y → k ≠ l → ∀ i ∈ x.2.2.2, i ∉ y.2.2.2) →
      (∀ k x j i, plays k = some x → x.2.2.2[j]? = some i → (networkPeriod s xs).1[i]? =
        some ({ written x j i with writePos := ((s.engines.getD i .free).writePos + 1) % 32768 }).sweepStep)
      ∧ (∀ i, (∀ k x, plays k = some x → i ∉ x.2.2.2) → (networkPeriod s xs).1[i]? = s.engines[i]?)
      ∧ (networkPeriod s xs).2 = (List.range 8).foldl (fun totals k => match plays k with
        | some x => addSpeakers x.1 x.2.1 x.2.2.1 (x.2.2.2.mapIdx fun j i => written x j i) totals
        | none => totals) (List.replicate 128 0))
    ∧ ∀ (m : ℕ) (n : Notch) (rest : List Notch) (x : ℤ), notchChain m [] x = (x, [])
        ∧ (n.filter.engaged = true ∧ n.filter.mic = m → notchChain m (n :: rest) x =
            ((notchChain m rest (n.filter.step x).1).1,
              { n with filter := (n.filter.step x).2 } :: (notchChain m rest (n.filter.step x).1).2))
        ∧ (¬ (n.filter.engaged = true ∧ n.filter.mic = m) → notchChain m (n :: rest) x =
            ((notchChain m rest x).1, n :: (notchChain m rest x).2))

/-! ### Microphones and the ring guard (06) -/

/-- LOAD MIC TABLE: its refusals in their order, and the new table with its trim glides of 16 frames, from the word that the step
of a glide in progress leaves where that step is still to be made (06 R118, R119). -/
def Obligations.LoadMicTableTakesTheImage : Prop :=
  ∀ (s : State) (k : Nat), s.takeable k .loadMicTable →
    let b := cueBytes s.ram k
    let t := s.took k
    let img := readBytes t.ram (u32 b 12) 198
    let flags (m : Nat) := u8 img (4 + 4 * m)
    let group (m : Nat) := u8 img (5 + 4 * m)
    let trim (m : Nat) := s16 img (6 + 4 * m)
    let good (m : Nat) : Prop := flags m < 4 ∧ group m ≤ 2 ∧ -2400 ≤ trim m ∧ trim m ≤ 2400
    let word (m : Nat) : Nat :=
      if m < 48 ∧ .trimGlide m ∈ s.todo then ((State.perform (.trimGlide m) s).mic m).trimWord else (s.mic m).trimWord
    let u := t.setTodo ((List.range 48).foldl (fun l m => l.erase (.trimGlide m)) t.todo)
    (u32 b 12 < 0x06000 ∨ 0x80000 < u32 b 12 + 198 → exec (.loadMicTable k) s = .next (t.answer k b .range 0))
    ∧ (0x06000 ≤ u32 b 12 → u32 b 12 + 198 ≤ 0x80000 →
      (wordSum img ≠ 0 → exec (.loadMicTable k) s = .next (t.answer k b .image (256 * 0x01)))
      ∧ (wordSum img = 0 →
        (img.take 4 ≠ [0x4D, 0x49, 0x43, 0x54] → exec (.loadMicTable k) s = .next (t.answer k b .image (256 * 0x02)))
        ∧ (img.take 4 = [0x4D, 0x49, 0x43, 0x54] →
          (∀ m < 48, (∀ i < m, good i) → ¬ good m → exec (.loadMicTable k) s = .next (t.answer k b .image
            (256 * (if 4 ≤ flags m then 0x13 else if 2 < group m then 0x14 else 0x15) + 65536 * m)))
          ∧ ((∀ m < 48, good m) → exec (.loadMicTable k) s = .next ((u.setMics (s.mics.mapIdx fun m x =>
              { x with present := (flags m).testBit 0, guarded := (flags m).testBit 1
                       group := if group m = 0 then .stage else if group m = 1 then .pit else .hall
                       trim := trim m, trimWord := word m
                       trimGlide := some ⟨word m, gainWord (trim m), 16, 0⟩ })).answer k b .done 0)))))

/-- SET GUARD takes all seven settings, clamped, zeroes every persistence count, limits the holds of floating notches to the new
setting, and leaves the rest of the guard as it is (06 R123, R124). -/
def Obligations.SetGuardTakesItsSettings : Prop :=
  ∀ (s : State) (k : Nat), s.takeable k .setGuard →
    let b := cueBytes s.ram k
    let threshold := max 600 (min 3000 (u16 b 13))
    let floor := max (-7200) (min (-1200) (s16 b 15))
    let persistence := max 2 (min 16 (u8 b 17))
    let hold := max 47 (min 4700 (u16 b 18))
    let recovery := max 47 (min 4700 (u16 b 20))
    let order := if u8 b 22 < 6 then u8 b 22 else 0
    let same := threshold = u16 b 13 ∧ floor = s16 b 15 ∧ persistence = u8 b 17 ∧ hold = u16 b 18 ∧ recovery = u16 b 20
      ∧ u8 b 22 ≤ 7
    let t := ((s.took k).setGuard { s.guard with
      settings := ⟨decide (u8 b 12 ≠ 0), threshold, floor, persistence, hold, recovery, order⟩
      pool := s.guard.pool.map fun n => if n.kind = .floating then { n with hold := min n.hold hold } else n }).setMics
        (s.mics.map fun m => { m with persistence := 0 })
    (same → exec (.setGuard k) s = .next (t.answer k b .done 0))
    ∧ (¬ same → exec (.setGuard k) s = .next (t.answer k b .done (2 ^ 31)))

/-- FIX NOTCH: RANGE; with no notch of the microphone within ±1 of the bin, the lowest FREE entry becomes a FIXED notch with the
clamped depth, its filter gliding from 0 with coefficients yet to be formed (0 until then, log 16); FULL when all entries are FIXED
(06 R121, R139). A notch of the microphone within ±1, the one at the bin, else below, else above, becomes FIXED with the cue's bin
and depth, and any other one within ±1 becomes FREE (R139 step 3). Without such a notch and without a FREE entry the victim, the
oldest FLOATING notch of the lowest-ranked group, is displaced, its microphone takes a fallback step, and a change of beta requests
the LIVE slot (R139 step 5, R138). A FREE entry's filter that is still on the microphone at the bin stays with its depth (R121, log
16); the step of a depth glide in progress that is still to be made is made first (R121). That a freed notch's filter at depth 0
leaves at once, and that a depth set to the value it has starts no glide, is the model's reading (log 16); the zeros that stand in
the fields of a FREE entry are the model's, R130 gives them no meaning (log 6). -/
def Obligations.FixNotchPlacesANotch : Prop :=
  ∀ (s : State) (k : Nat), s.takeable k .fixNotch → s.guard.pool.length = 16 →
    let b := cueBytes s.ram k
    let t := s.took k
    let m := u8 b 12
    let bin := u16 b 13
    let depth := max 300 (min 1800 (u16 b 15))
    let clamped := if depth ≠ u16 b 15 then 2 ^ 31 else 0
    let stepped (j : Nat) : Notch :=
      if .depthGlide j ∈ s.todo then (State.perform (.depthGlide j) s).entry j else s.entry j
    (47 < m ∨ bin < 2 ∨ 426 < bin → exec (.fixNotch k) s = .next (t.answer k b .range 0))
    ∧ (m ≤ 47 → 2 ≤ bin → bin ≤ 426 →
      (∀ n ∈ s.guard.pool, n.kind ≠ .free → n.mic = m → ¬ (bin ≤ n.bin + 1 ∧ n.bin ≤ bin + 1)) →
      (∀ i x, s.guard.pool[i]? = some x → x.kind = .free →
        (∀ j < i, ∀ y, s.guard.pool[j]? = some y → y.kind ≠ .free) →
        let f := (stepped i).filter
        let pool := s.guard.pool.set i ⟨.fixed, m, bin, depth, 0, s.guard.analyses,
          if f.engaged = true ∧ f.mic = m ∧ f.bin = bin then { f with glide := some ⟨f.depth, depth, 4, 0⟩ }
          else ⟨true, m, bin, 0, some ⟨0, depth, 4, 0⟩, ⟨0, 0, 0, 0, 0⟩, 0, 0, 0, 0⟩⟩
        exec (.fixNotch k) s = .next ((((t.doing (.depthGlide i)).setGuard { s.guard with pool := pool }).judge .poolFull
          (pool.all fun n => n.kind != .free) (pool.countP fun n => n.kind == .fixed)).answer k b .done clamped))
      ∧ ((∀ n ∈ s.guard.pool, n.kind = .fixed) → exec (.fixNotch k) s = .next (t.answer k b .full clamped))
      ∧ ∀ v, (∀ n ∈ s.guard.pool, n.kind ≠ .free) → s.victim 0 = some v →
        let w := (t.displace v).changeEntry v (Notch.place .fixed m bin depth 0 s.guard.analyses)
        exec (.fixNotch k) s = .next ((if w.guard.beta ≠ s.guard.beta then w.requestLive 32 else w).answer k b .done clamped)
        ∧ (w.entry v).kind = .fixed ∧ (w.entry v).mic = m ∧ (w.entry v).bin = bin ∧ (w.entry v).depth = depth
        ∧ (w.entry v).stamp = s.guard.analyses ∧ (∀ j, j ≠ v → w.entry j = s.entry j)
        ∧ w.guard.beta = min (s.guard.beta + 20) 300)
    ∧ (m ≤ 47 → 2 ≤ bin → bin ≤ 426 → ∀ i, s.guard.nearNotch m bin = some i →
      let x := stepped i
      ∃ w : State, exec (.fixNotch k) s = .next (w.answer k b .done clamped)
        ∧ w.entry i = { x with
            kind := .fixed, bin := bin, depth := depth, hold := 0, stamp := s.guard.analyses
            filter := { x.filter with
              bin := bin, glide := if x.depth = depth then x.filter.glide else some ⟨x.filter.depth, depth, 4, 0⟩ } }
        ∧ (∀ j < 16, j ≠ i → let y := stepped j
            if y.kind ≠ .free ∧ y.mic = m ∧ bin ≤ y.bin + 1 ∧ y.bin ≤ bin + 1 then
              (w.entry j).kind = .free ∧ (w.entry j).mic = 0 ∧ (w.entry j).bin = 0 ∧ (w.entry j).depth = 0
              ∧ (0 < y.filter.depth → (w.entry j).filter = { y.filter with glide := some ⟨y.filter.depth, 0, 4, 0⟩ })
              ∧ (y.filter.depth = 0 → (w.entry j).filter = { y.filter with glide := none, engaged := false })
            else w.entry j = s.entry j)
        ∧ w.mics = s.mics ∧ w.guard.beta = s.guard.beta ∧ w.ram = t.ram)

/-- CLEAR STATUS clears the four flags of the slot it names (04 R78); CLEAR NOTCH frees the entry it names, and POOL FULL follows
(06 R140); its filter glides to 0, or leaves at once at depth 0, the step of a glide in progress that is still to be made being made
first (06 R121). That the filter leaves at once at depth 0, and that one in a glide to 0 starts that glide anew, is the model's
reading of R121 (log 16); the zeros that stand in the fields of the FREE entry are the model's, R130 gives them no meaning (log 6).
-/
def Obligations.StatusAndNotchesAreCleared : Prop :=
  ∀ (s : State) (k : Nat), let b := cueBytes s.ram k
    let t := s.took k
    let n := u8 b 12
    (s.takeable k .clearStatus →
      (7 < n → exec (.clearStatus k) s = .next (t.answer k b .range 0))
      ∧ (n ≤ 7 → exec (.clearStatus k) s = .next
          ((t.onSlot n fun x => { x with flags := ⟨false, false, false, false⟩ }).answer k b .done 0)))
    ∧ (s.takeable k .clearNotch →
      (15 < n → exec (.clearNotch k) s = .next (t.answer k b .range 0))
      ∧ (n ≤ 15 → (s.entry n).kind = .free → exec (.clearNotch k) s = .next (t.answer k b .done 0))
      ∧ (n ≤ 15 → (s.entry n).kind ≠ .free →
          let f := (if .depthGlide n ∈ s.todo then (State.perform (.depthGlide n) s).entry n else s.entry n).filter
          let pool := s.guard.pool.set n ⟨.free, 0, 0, 0, 0, 0,
            if f.depth = 0 then { f with glide := none, engaged := false } else { f with glide := some ⟨f.depth, 0, 4, 0⟩ }⟩
          exec (.clearNotch k) s = .next ((((t.doing (.depthGlide n)).setGuard { s.guard with pool := pool }).judge .poolFull
            (pool.all fun n => n.kind != .free) (pool.countP fun n => n.kind == .fixed)).answer k b .done 0)))

/-- CLEAR GUARD: floating notches FREE, fixed ones kept, phi, beta, and the persistence, quiet and device quiet counts 0; the
settings, the mic table and the analysis count stay (06 R141). A freed notch's filter glides to 0 over 4 frames from the depth that
a glide in progress leaves, or leaves at once at depth 0 (06 R121, log 16); a fallback word whose phi changed glides to 8192 over 16
frames (06 R122); a beta above 0 requests the LIVE slot with a glide of 32 frames and ends BACK-OFF ACTIVE (06 R138); a freed notch
ends POOL FULL (06 R130); no other notice changes before the answer. The zeros that stand in the fields of a FREE entry are the
model's, R130 gives them no meaning (log 6). That a word whose phi is 0 already keeps the glide it has is the model's choice between
R122 and R141 (log 34). -/
def Obligations.ClearGuardTakesBack : Prop :=
  ∀ (s : State) (k : Nat), s.takeable k .clearGuard → s.mics.length = 48 → s.guard.pool.length = 16 → ∃ u : State,
    exec (.clearGuard k) s = .next (u.answer k (cueBytes s.ram k) .done 0)
    ∧ (∀ n < 16, (s.entry n).kind = .floating → (u.entry n).kind = .free)
    ∧ (∀ n < 16, (s.entry n).kind ≠ .floating → u.entry n = s.entry n)
    ∧ (∀ m ∈ u.mics, m.phi = 0 ∧ m.persistence = 0 ∧ m.quiet = 0)
    ∧ (∀ m < 48, (u.mic m).present = (s.mic m).present ∧ (u.mic m).guarded = (s.mic m).guarded
        ∧ (u.mic m).group = (s.mic m).group ∧ (u.mic m).trim = (s.mic m).trim)
    ∧ u.guard.beta = 0 ∧ u.guard.deviceQuiet = 0 ∧ u.guard.settings = s.guard.settings
    ∧ u.guard.analyses = s.guard.analyses ∧ u.ram = (s.took k).ram
    ∧ (∀ n < 16, (s.entry n).kind = .floating →
      let x := if .depthGlide n ∈ s.todo then (State.perform (.depthGlide n) s).entry n else s.entry n
      u.entry n = ⟨.free, 0, 0, 0, 0, 0, if x.filter.depth = 0 then { x.filter with glide := none, engaged := false }
        else { x.filter with glide := some ⟨x.filter.depth, 0, 4, 0⟩ }⟩)
    ∧ (∀ m < 48,
      let x := if .fallbackGlide m ∈ s.todo then (State.perform (.fallbackGlide m) s).mic m else s.mic m
      ((s.mic m).phi ≠ 0 → (u.mic m).fallbackWord = x.fallbackWord
        ∧ (u.mic m).fallbackGlide = some ⟨x.fallbackWord, 8192, 16, 0⟩)
      ∧ ((s.mic m).phi = 0 → (u.mic m).fallbackWord = (s.mic m).fallbackWord
        ∧ (u.mic m).fallbackGlide = (s.mic m).fallbackGlide))
    ∧ (∀ i, 0 < s.guard.beta → s.live = some i →
      u.coef = ((s.setGuard { s.guard with beta := 0 }).request ⟨i, some 32, false, false⟩).coef)
    ∧ (s.guard.beta = 0 ∨ s.live = none → u.coef = s.coef)
    ∧ (0 < s.guard.beta → u.att.notice 13 = { s.att.notice 13 with pending := false })
    ∧ ((∃ n < 16, (s.entry n).kind = .floating) → u.att.notice 7 = { s.att.notice 7 with pending := false })
    ∧ (∀ i, i ≠ 7 → i ≠ 13 → u.att.notice i = s.att.notice i)

/-- An analysis: made in ACTIVE alone; its count advances; with the guard disabled no microphone is examined, every persistence
count becomes 0, no ring is confirmed, and stages 5 to 8 are left to be done, which is the operand's choice (06 R125 to R128; log
23). In ACTIVE: candidates, persistence of every microphone in order, and each confirmation acted on in the arbiter's order; then
stages 5 to 8, left to be done or, as R126 has the analysis, done at once: every entry's hold, every microphone's quiet count, the
device quiet count, the request for beta, after which no analysis is in progress (R126, R131). A microphone is a candidate at the
first bin of highest level, when it is examined and that level passes threshold and floor (R127); the levels of silence and of a
full-scale sinusoid centred on a bin, and power means, are what R127 gives; an analysis covers the last 1024 samples (R125); where
the buffer holds fewer, the zeros on the side of the past are the model's choice (log 23). A candidate near the persistence bin
counts on, another counts from 1, none clears; at the setting the ring is confirmed (R128). The arbiter takes the confirmations by
the rank of their groups, then by microphone (R123, R131). -/
def Obligations.AnalysisRuns : Prop :=
  (∀ (s : State) (staged : Bool), s.due .analysis → s.mics.length = 48 →
    (s.mode.mode ≠ .active → exec (.analysis staged) s = .next (s.doing .analysis))
    ∧ (s.mode.mode = .active → s.guard.settings.enable = false →
      exec (.analysis true) s = .next ((((s.doing .analysis).setGuard { s.guard with
        analyses := s.guard.analyses + 1
        progress := some ⟨List.replicate 48 none, [], false, s.guard.beta⟩ }).setMics
          (s.mics.map fun m => { m with persistence := 0 })).setTodo
            ((List.range 16).map .hold ++ (List.range 48).map .quiet ++ [.deviceQuiet, .betaRequest]
              ++ s.todo.erase .analysis)))
    ∧ (s.mode.mode = .active →
      let p := (List.range 48).foldl persistMic ((s.doing .analysis).openAnalysis, [])
      let t := (p.1.arbiterOrder p.2).foldl State.actOn p.1
      let stages : List Work := (List.range 16).map .hold ++ (List.range 48).map .quiet ++ [.deviceQuiet, .betaRequest]
      let u := t.setTodo (stages ++ t.todo)
      let v := stages.foldl (fun (x : State) w => (x.doing w).perform w) u
      exec (.analysis true) s = .next u ∧ exec (.analysis false) s = .next v ∧ v.guard.progress = none))
    ∧ (∀ s : State, s.mics.length = 48 →
      let t := s.openAnalysis
      t.guard = { s.guard with analyses := s.guard.analyses + 1, progress := t.guard.progress } ∧ t.mics = s.mics ∧ t.att = s.att
      ∧ (∃ c, t.guard.progress = some ⟨c, [], false, s.guard.beta⟩)
      ∧ ∀ m < 48, t.candidate m =
        if (s.mic m).present = true ∧ (s.lane (m / 8)).locked = true ∧ (s.mic m).guarded = true
            ∧ s.guard.settings.enable = true then
          candidateBin s.guard.settings.threshold s.guard.settings.floor (s.mic m).window
        else none)
    ∧ (∀ (threshold floor : ℤ) (xs : List ℤ) (bin : ℕ) (level : ℤ),
      let levels := spectrum xs
      levels[bin - 2]? = some level → 2 ≤ bin → -14400 ≤ level →
      (∀ j l, levels[j]? = some l → l ≤ level ∧ (j < bin - 2 → l < level)) →
      candidateBin threshold floor xs =
        if threshold ≤ level - meanLevel levels ∧ floor ≤ level then some bin else none)
    ∧ (∀ x : Mic, x.window = ((x.buffer ++ List.replicate 1024 0).take 1024).reverse)
    ∧ spectrum (List.replicate 1024 0) = List.replicate 425 (-14400)
    ∧ spectrum ((List.range 1024).map fun i => if i % 4 = 0 then 8388608 else if i % 4 = 2 then -8388608 else 0) =
        List.replicate 253 (-14400) ++ [-602, 0, -602] ++ List.replicate 169 (-14400)
    ∧ meanLevel (List.replicate 425 (-14400)) = -14400 ∧ meanLevel (List.replicate 425 (-100)) = -100
    ∧ meanLevel ([0] ++ List.replicate 424 (-14400)) = -2628
    ∧ meanLevel (List.replicate 253 (-14400) ++ [-602, 0, -602] ++ List.replicate 169 (-14400)) = -2452
    ∧ (∀ (s : State) (cs : List (ℕ × ℕ)) (m : ℕ), m < 48 → s.mics.length = 48 →
      let x := s.mic m
      (s.candidate m = none → persistMic (s, cs) m = (s.setMics (s.mics.set m { x with persistence := 0 }), cs))
      ∧ ∀ b, s.candidate m = some b →
        let c := if 0 < x.persistence ∧ b ≤ x.persistenceBin + 1 ∧ x.persistenceBin ≤ b + 1 then x.persistence + 1 else 1
        (c ≠ s.guard.settings.persistence →
          persistMic (s, cs) m = (s.setMics (s.mics.set m { x with persistence := c, persistenceBin := b }), cs))
        ∧ (c = s.guard.settings.persistence →
          let t := persistMic (s, cs) m
          t.2 = cs ++ [(m, b)] ∧ t.1.mics = s.mics.set m { x with persistence := 0, persistenceBin := b, quiet := 0 }
          ∧ t.1.att = (s.raise .ringConfirmed (m + 256 * b)).att
          ∧ t.1.guard = { s.guard with progress := s.guard.progress.map fun p =>
              { p with touched := m :: p.touched, confirmed := true } }
          ∧ t.1.todo = s.todo ∧ t.1.ram = s.ram))
    ∧ (∀ (s : State) (cs : List (ℕ × ℕ)),
      let rank (c : ℕ × ℕ) : ℕ := rankOf s.guard.settings.order (s.mic c.1).group
      (s.arbiterOrder cs).Perm cs
      ∧ (cs.Pairwise (fun a b => a.1 < b.1) →
        (s.arbiterOrder cs).Pairwise fun a b => rank a < rank b ∨ (rank a = rank b ∧ a.1 < b.1)))
    ∧ (List.range 8).map (fun o => [Group.stage, .pit, .hall].map (rankOf o)) =
        [[0, 1, 2], [0, 2, 1], [1, 0, 2], [2, 0, 1], [1, 2, 0], [2, 1, 0], [0, 1, 2], [0, 1, 2]]

/-- A confirmed ring (06 R132): a FLOATING notch in use within ±1 of its bin, at the bin, else below, else above, becomes 300 deeper
with its hold set anew; one at 1800, and a FIXED one, makes a fallback step; with none near, the lowest FREE entry takes a FLOATING
notch of depth 600; with no FREE entry the victim's, the oldest FLOATING notch of the lowest group that ranks no higher than the
microphone's own: NOTCH DISPLACED and a fallback step on its microphone; with no victim a fallback step (R133). A fallback step adds
300 to phi up to 1800 and 20 to beta up to 300, starts the fallback glide when phi changed, zeroes the quiet count, raises FALLBACK
APPLIED with microphone and new phi, and BACK-OFF ACTIVE when it starts (R122, R134, R137), and its microphone counts no quiet in the
analysis (R136). A filter glides from the depth, a fallback word from the word, that the step of a glide in progress leaves where that
step is still to be made (R121, R122). -/
def Obligations.RingsAreActedOn : Prop :=
  (∀ (s : State) (m bin i : Nat) (x : Notch), s.guard.pool.length = 16 →
    (∀ n ∈ s.guard.pool, n.kind ≠ .free → n.mic = m → ¬ (bin ≤ n.bin + 1 ∧ n.bin ≤ bin + 1)) →
    s.guard.pool[i]? = some x → x.kind = .free → (∀ j < i, ∀ y, s.guard.pool[j]? = some y → y.kind ≠ .free) →
    ((s.actOn (m, bin)).entry i).kind = .floating ∧ ((s.actOn (m, bin)).entry i).mic = m
      ∧ ((s.actOn (m, bin)).entry i).bin = bin ∧ ((s.actOn (m, bin)).entry i).depth = 600
      ∧ ((s.actOn (m, bin)).entry i).hold = s.guard.settings.hold
      ∧ ((s.actOn (m, bin)).entry i).stamp = s.guard.analyses
      ∧ (∀ j, j ≠ i → (s.actOn (m, bin)).entry j = s.entry j) ∧ (s.actOn (m, bin)).mics = s.mics)
    ∧ (∀ (s : State) (m : Nat), m < 48 → s.mics.length = 48 →
      let t := s.fallbackStep m
      let phi := min ((s.mic m).phi + 300) 1800
      let beta := min (s.guard.beta + 20) 300
      (t.mic m).phi = phi ∧ (t.mic m).quiet = 0 ∧ t.guard.beta = beta
      ∧ (∀ j, j ≠ m → (t.mic j).phi = (s.mic j).phi) ∧ t.guard.pool = s.guard.pool
      ∧ t.guard.progress = s.guard.progress.map (fun p => { p with touched := m :: p.touched })
      ∧ (let x := if .fallbackGlide m ∈ s.todo then (State.perform (.fallbackGlide m) s).mic m else s.mic m
        (phi = (s.mic m).phi → (t.mic m).fallbackGlide = (s.mic m).fallbackGlide
          ∧ (t.mic m).fallbackWord = (s.mic m).fallbackWord)
        ∧ (phi ≠ (s.mic m).phi → (t.mic m).fallbackGlide = some ⟨x.fallbackWord, gainWord (-(phi : ℤ)), 16, 0⟩
          ∧ (t.mic m).fallbackWord = x.fallbackWord))
      ∧ (s.att.notices.length = 14 →
        t.att.notice 6 = ⟨true, min 255 ((s.att.notice 6).count + 1), BitVec.ofNat 32 (m + 65536 * phi), s.frame⟩
        ∧ t.att.notice 13 = if (s.att.notice 13).pending = true then s.att.notice 13
            else ⟨true, min 255 ((s.att.notice 13).count + 1), BitVec.ofNat 32 beta, s.frame⟩))
    ∧ (∀ (s : State) (m bin : Nat),
      (s.guard.nearNotch m bin = none ↔
        ∀ z ∈ s.guard.pool, z.kind ≠ .free → z.mic = m → ¬ (bin ≤ z.bin + 1 ∧ z.bin ≤ bin + 1))
      ∧ ∀ n, s.guard.nearNotch m bin = some n → ∃ y, s.guard.pool[n]? = some y
        ∧ y.kind ≠ .free ∧ y.mic = m ∧ bin ≤ y.bin + 1 ∧ y.bin ≤ bin + 1
        ∧ ∀ z ∈ s.guard.pool, z.kind ≠ .free → z.mic = m → (z.bin = bin → y.bin = bin) ∧ (z.bin + 1 = bin → y.bin ≤ bin))
    ∧ (∀ (s : State) (m bin n : Nat), s.guard.nearNotch m bin = some n →
      let y := if .depthGlide n ∈ s.todo then (State.perform (.depthGlide n) s).entry n else s.entry n
      (y.kind = .floating → y.depth < 1800 →
        (s.actOn (m, bin)).entry n = { y with
          depth := y.depth + 300, hold := s.guard.settings.hold
          filter := { y.filter with glide := some ⟨y.filter.depth, ((y.depth + 300 : ℕ) : ℤ), 4, 0⟩ } }
        ∧ (∀ j, j ≠ n → (s.actOn (m, bin)).entry j = s.entry j)
        ∧ (s.actOn (m, bin)).mics = s.mics ∧ (s.actOn (m, bin)).guard.beta = s.guard.beta)
      ∧ (y.kind = .fixed ∨ 1800 ≤ y.depth → s.actOn (m, bin) = s.fallbackStep m))
    ∧ (∀ (s : State) (rank : Nat),
      let place (z : Notch) : Nat := rankOf s.guard.settings.order (s.mic z.mic).group
      let age (z : Notch) : Nat := (s.guard.analyses - z.stamp).toNat
      (s.victim rank = none ↔ ∀ z ∈ s.guard.pool, z.kind = .floating → place z < rank)
      ∧ ∀ v, s.victim rank = some v → ∃ y, s.guard.pool[v]? = some y ∧ y.kind = .floating ∧ rank ≤ place y
        ∧ ∀ j z, s.guard.pool[j]? = some z → z.kind = .floating → place z < place y
          ∨ (place z = place y ∧ (age z < age y ∨ (age z = age y ∧ v ≤ j))))
    ∧ ∀ (s : State) (m bin : Nat), s.guard.nearNotch m bin = none → (∀ z ∈ s.guard.pool, z.kind ≠ .free) →
      let own := rankOf s.guard.settings.order (s.mic m).group
      (s.victim own = none → s.actOn (m, bin) = s.fallbackStep m)
      ∧ ∀ v, s.victim own = some v → (s.entry v).mic < 48 → s.mics.length = 48 → s.att.notices.length = 14 →
        let t := s.actOn (m, bin)
        let x := (s.entry v).mic
        let phi := min ((s.mic x).phi + 300) 1800
        (t.entry v).kind = .floating ∧ (t.entry v).mic = m ∧ (t.entry v).bin = bin ∧ (t.entry v).depth = 600
        ∧ (t.entry v).hold = s.guard.settings.hold ∧ (t.entry v).stamp = s.guard.analyses
        ∧ (∀ j, j ≠ v → t.entry j = s.entry j)
        ∧ (t.mic x).phi = phi ∧ t.guard.beta = min (s.guard.beta + 20) 300
        ∧ t.att.notice 5 = ⟨true, min 255 ((s.att.notice 5).count + 1),
            BitVec.ofNat 32 (v + 256 * x + 65536 * (s.entry v).bin), s.frame⟩
        ∧ t.att.notice 6 = ⟨true, min 255 ((s.att.notice 6).count + 1), BitVec.ofNat 32 (x + 65536 * phi), s.frame⟩

/-- Stage 5: a floating notch whose hold comes to 0 becomes 300 shallower with its hold set anew, or at 300 FREE, its filter gliding
to 0 or, at depth 0, leaving at once; before that the hold falls by 1; a candidate within ±1 leaves it alone, as does an entry that
is no floating notch. Stage 6: at the recovery interval phi recovers by 100 with a fallback glide, and the quiet count is 0; below
it the count rises by 1, or stays at the 0 that a confirmation or a fallback step of this analysis has set. Stage 7: at the recovery
interval beta recovers by 5, and the device quiet count is 0; below it the count rises by 1; a confirmed ring sets it to 0 (06 R135,
R136, R137). Stage 8: a beta other than at the analysis's start requests the LIVE slot, if there is one, with a glide of 32 frames,
and the analysis is over (06 R126, R138). The step of a depth glide that is still to be made is made before the notch changes (06
R121). That a freed notch's filter leaves at once at depth 0 is the model's reading of R121 (log 16); the zeros that stand in the
fields of the FREE entry are the model's, R130 gives them no meaning (log 6). -/
def Obligations.TheGuardRecovers : Prop :=
  ∀ s : State, s.guard.pool.length = 16 → s.mics.length = 48 →
    (∀ n < 16,
      let x := if .depthGlide n ∈ s.todo then (State.perform (.depthGlide n) s).entry n else s.entry n
      let quiet := ∀ c, s.candidate x.mic = some c → ¬ (c ≤ x.bin + 1 ∧ x.bin ≤ c + 1)
      let after (u : State) (y : Notch) : State :=
        ((u.doing (.depthGlide n)).setGuard { s.guard with pool := s.guard.pool.set n y }).judge .poolFull
          ((s.guard.pool.set n y).all fun n => n.kind != .free) ((s.guard.pool.set n y).countP fun n => n.kind == .fixed)
      (s.stageDue (.hold n) → x.kind = .floating → x.hold ≤ 1 →
        let u := s.doing (.hold n)
        (¬ quiet → exec (.notchHoldExpiry n) s = .next u)
        ∧ (quiet → 300 < x.depth → exec (.notchHoldExpiry n) s = .next (after u { x with
            depth := x.depth - 300, hold := s.guard.settings.hold
            filter := { x.filter with glide := some ⟨x.filter.depth, ((x.depth - 300 : Nat) : ℤ), 4, 0⟩ } }))
        ∧ (quiet → x.depth ≤ 300 → exec (.notchHoldExpiry n) s = .next (after u ⟨.free, 0, 0, 0, 0, 0,
            if x.filter.depth = 0 then { x.filter with glide := none, engaged := false }
            else { x.filter with glide := some ⟨x.filter.depth, 0, 4, 0⟩ }⟩)))
      ∧ (x.kind = .floating → 1 < x.hold → quiet → State.perform (.hold n) s = after s { x with hold := x.hold - 1 })
      ∧ (¬ (x.kind = .floating ∧ quiet) → State.perform (.hold n) s = s))
    ∧ (∀ m x p, m < 48 → s.mics[m]? = some x → s.guard.progress = some p →
      let y := if .fallbackGlide m ∈ s.todo then (State.perform (.fallbackGlide m) s).mic m else x
      (s.stageDue (.quiet m) → m ∉ p.touched → s.guard.settings.recovery ≤ x.quiet + 1 →
        (x.phi = 0 → exec (.phiRecovery m) s = .next ((s.doing (.quiet m)).setMics (s.mics.set m { x with quiet := 0 })))
        ∧ (0 < x.phi → exec (.phiRecovery m) s = .next (((s.doing (.quiet m)).doing (.fallbackGlide m)).setMics
          (s.mics.set m { y with
            phi := x.phi - 100, quiet := 0
            fallbackGlide := some ⟨y.fallbackWord, gainWord (-((x.phi - 100 : Nat) : ℤ)), 16, 0⟩ }))))
      ∧ (m ∉ p.touched → x.quiet + 1 < s.guard.settings.recovery →
        State.perform (.quiet m) s = s.setMics (s.mics.set m { x with quiet := x.quiet + 1 }))
      ∧ (m ∈ p.touched → x.quiet = 0 → 0 < s.guard.settings.recovery → State.perform (.quiet m) s = s))
    ∧ ∀ p, s.guard.progress = some p →
      (s.stageDue .deviceQuiet → p.confirmed = false → s.guard.settings.recovery ≤ s.guard.deviceQuiet + 1 →
        exec .betaRecovery s = .next (((s.doing .deviceQuiet).setGuard
          { s.guard with deviceQuiet := 0, beta := s.guard.beta - 5 }).judge .backOffActive (5 < s.guard.beta)
            (s.guard.beta - 5)))
      ∧ (p.confirmed = false → s.guard.deviceQuiet + 1 < s.guard.settings.recovery →
        State.perform .deviceQuiet s = s.setGuard { s.guard with deviceQuiet := s.guard.deviceQuiet + 1 })
      ∧ (p.confirmed = true → State.perform .deviceQuiet s = s.setGuard { s.guard with deviceQuiet := 0 })
      ∧ (let u := match s.live with
          | some k => if p.betaStart ≠ s.guard.beta then s.request ⟨k, some 32, false, false⟩ else s
          | none => s
        State.perform .betaRequest s = u.setGuard { s.guard with progress := none })

/-! ### Lanes, samples, clock, mode (07) -/

/-- A frame boundary: the frame counter advances by 1, whatever the order of the works (the command's operand, log 1), and a frame
begins; it ends every 64th sample period, and before 64 of them it falls nowhere and the command has no effect (07 R150, log 2).
What falls due: four takes, the refusals, the gap timer and the publication always, an analysis at multiples of 16 of the counter, a
meter write at multiples of 32 (01 R9, 06 R125, 07 R150, 09 R177); the taking of requests and the lanes' work always; every glide,
ramp, fade, tail, scrub, copy, claim and lockout in progress, and a computation at the second frame boundary after its start (02
R24; 03 R53; 04 R82, R84, R87; 05 R101, R103, R110, R111; 06 R119, R121, R122; 07 R148, R152, R155, R159, R160; 08 R169). The works
named in the order are then done, each with what comes before it: the stages of an analysis in progress, the refusals before a take,
refusals and takes before the gap timer; the publication waits until it is the last (01 R9, R11; 06 R126; log 1). What is still due
stays due with the operand leave, and is otherwise done in the order in which it stands, each work with what comes before it, until
nothing is left. -/
def Obligations.FrameBoundaryAdvances : Prop :=
  (∀ (s : State), s.resetHeld = false →
    (s.framePos < 64 → ∀ (order : List Work) (leave : Bool), exec (.frameBoundary order leave) s = .next s)
    ∧ (64 ≤ s.framePos →
      (∀ (order : List Work) (leave : Bool), ∃ t, exec (.frameBoundary order leave) s = .next t ∧ t.frame = s.frame + 1
        ∧ t.framePos = 0 ∧ t.att.mask = s.att.mask ∧ t.runctl = s.runctl ∧ t.outputs = s.outputs)
      ∧ (s.todo = [] → ∃ t, exec (.frameBoundary [] true) s = .next t
        ∧ t = ((((s.setFrame (s.frame + 1)).setFramePos 0).setCues { s.cues with tookNow := false })).setTodo t.todo
        ∧ t.todo.count .take = 4 ∧ t.todo.count .refuse = 1 ∧ t.todo.count .gap = 1 ∧ t.todo.count .publish = 1
        ∧ (.analysis ∈ t.todo ↔ t.frame.toNat % 16 = 0) ∧ (.meters ∈ t.todo ↔ t.frame.toNat % 32 = 0)
        ∧ t.todo.count .modeTake = 1 ∧ t.todo.count .clockTake = 1 ∧ t.todo.count .lanes = 1
        ∧ (.modeRamp ∈ t.todo ↔ ∃ g, s.mode.ramp = some g)
        ∧ (.resyncRamp ∈ t.todo ↔ (∃ g, s.clock.ramp = some g) ∨ s.clock.turnUp = true)
        ∧ (∀ e b, .decayGlide e b ∈ t.todo ↔ ∃ x g, s.engines[e]? = some x ∧ x.glides.get b = some g)
        ∧ (.epsGlide ∈ t.todo ↔ ∃ g, s.coef.epsilonGlide = some g)
        ∧ (∀ m, .trimGlide m ∈ t.todo ↔ ∃ x g, s.mics[m]? = some x ∧ x.trimGlide = some g)
        ∧ (∀ m, .fallbackGlide m ∈ t.todo ↔ ∃ x g, s.mics[m]? = some x ∧ x.fallbackGlide = some g)
        ∧ (∀ n, .depthGlide n ∈ t.todo ↔ ∃ x g, s.guard.pool[n]? = some x ∧ x.filter.glide = some g)
        ∧ (∀ e, .scrub e ∈ t.todo ↔ ∃ x, s.engines[e]? = some x ∧ x.state = .scrubbing)
        ∧ (∀ k, .tail k ∈ t.todo ↔ ∃ x ∈ s.tails, x.slot = k)
        ∧ (.fade ∈ t.todo ↔ ∃ x, s.trans = some x ∧ (x.phase = .fade ∨ x.phase = .out ∨ x.phase = .in_))
        ∧ (.claim ∈ t.todo ↔ ∃ x, s.trans = some x ∧ x.phase = .claim)
        ∧ (.compute ∈ t.todo ↔ ∃ c, s.coef.underWay = some c ∧ c.start + 2 = t.frame)
        ∧ (.copy ∈ t.todo ↔ ∃ l, s.loader = some l ∧ l.phase = .copying)
        ∧ (.lockout ∈ t.todo ↔ 0 < s.lock.lockout))
      ∧ ∃ t, exec (.frameBoundary [] true) s = .next t ∧ ∀ w ∈ t.todo, w ≠ .take → w ≠ .gap → w ≠ .publish →
        exec (.frameBoundary [w] true) s = .next ((t.doing w).perform w))
    ∧ (64 ≤ s.framePos → ∃ t, exec (.frameBoundary [] true) s = .next t ∧ ∀ (order : List Work) (leave : Bool),
      let u := order.foldl State.doWork t
      exec (.frameBoundary order leave) s = .next (if leave = true then u else u.settle))
    ∧ (64 ≤ s.framePos → s.todo = [] → s.engines.length = 32 → s.mics.length = 48 → s.guard.pool.length = 16 →
      s.tails.length ≤ 8 → ∀ order : List Work, ∃ t, exec (.frameBoundary order false) s = .next t ∧ t.todo = []))
  ∧ (∀ (s : State) (w : Work),
    let stage (x : Work) : Bool := match x with
      | .hold _ | .quiet _ | .deviceQuiet | .betaRequest => true
      | _ => false
    let stages := s.todo.filter stage
    let before : List Work := if stage w = true then stages.takeWhile (· != w)
      else stages ++ (if w = .take ∨ w = .gap then [.refuse] else []) ++ (if w = .gap then [.take, .take, .take, .take] else [])
    let once (u : State) (x : Work) : State := if x ∈ u.todo then (u.doing x).perform x else u
    (w ∉ s.todo → s.doWork w = s)
    ∧ (w = .publish → s.todo ≠ [.publish] → s.doWork w = s)
    ∧ (w ∈ s.todo → w ≠ .publish ∨ s.todo = [.publish] → s.doWork w = (before ++ [w]).foldl once s))
  ∧ (∀ s : State, s.todo = [] → s.settle = s)
  ∧ ∀ (s : State) (w : Work) (rest : List Work), s.todo = w :: rest →
    let weight (x : Work) : Nat := match x with
      | .analysis => 201
      | .claim | .publish => 1
      | _ => 3
    (s.todo.map weight).sum ≤ 1024 → s.todo.count .claim + s.todo.count .publish ≤ 2 → .publish ∉ s.todo.dropLast →
    s.settle = (s.doWork w).settle ∧ s.settle.todo = []

/-- The gap timer's 750th frame raises CUE GAP with E and the lowest waiting number, and starts over; before that it advances by 1
at a frame boundary where no cue was taken, no candidate holds E and a number ahead waits, and returns to 0 at any other (01 R11). A
frame boundary that makes its refusals and its four takes goes on with this work of the gap timer, on the state they leave (01 R9,
R11). -/
def Obligations.TheGapIsReported : Prop :=
  (∀ (s : State) (k : Nat), s.due .gap → .refuse ∉ s.todo → .take ∉ s.todo → s.cues.tookNow = false →
    s.expectedSlot = none → s.cues.gapTimer = 749 → k < 32 → s.isCandidate k = true →
    isAhead s.cues.expected (cueNumber s.ram k) = true →
    (∀ j < 32, s.isCandidate j = true → isAhead s.cues.expected (cueNumber s.ram j) = true →
      (cueNumber s.ram k - s.cues.expected).toNat ≤ (cueNumber s.ram j - s.cues.expected).toNat) →
    exec .cueGap s = .next (((s.doing .gap).setCues { s.cues with gapTimer := 0 }).raise .cueGap
      (s.cues.expected.toNat + 65536 * (cueNumber s.ram k).toNat)))
    ∧ (∀ s u : State, s.resetHeld = false → 64 ≤ s.framePos →
      exec (.frameBoundary [.refuse, .take, .take, .take, .take] true) s = .next u →
      exec (.frameBoundary [.gap] true) s = .next ((u.doing .gap).perform .gap))
    ∧ ∀ s : State,
      let waits : Prop := ∃ k < 32, s.isCandidate k = true ∧ isAhead s.cues.expected (cueNumber s.ram k) = true
      (s.cues.tookNow = true ∨ s.expectedSlot ≠ none ∨ ¬ waits →
        State.perform .gap s = s.setCues { s.cues with gapTimer := 0 })
      ∧ (s.cues.tookNow = false → s.expectedSlot = none → waits → s.cues.gapTimer < 749 →
        State.perform .gap s = s.setCues { s.cues with gapTimer := s.cues.gapTimer + 1 })

/-- A mode request taken: the mode, a ramp of 64 frames toward its level from the factor as it stands, the network running for
ACTIVE and DRY; the end of a STOPPED ramp, be it at once, halts the network and aborts every changeover; a STOPPED ramp whose last
step falls where ACTIVE or DRY is taken first makes its step and neither halts nor aborts (05 R114, 07 R159, R160, R162). A request
taken marks the page's engine mode field, be it for the mode already held, and the publication of that frame boundary writes it (07
R159). A ramp's step before the last leaves the factor at start + trunc((end - start) × j / 64) (07 R160). A step still to be made
where a mode is taken is made first, and the new ramp starts from the factor it leaves (07 R160). The abort: the held GO is answered
ABORTED with its CLAMPED bit, with CUE ANSWERED and no CHANGEOVER ENDED, the record goes, no request serves the changeover unit any
longer, and the slots that own engines are released and READY (05 R114). -/
def Obligations.ModeRequestsAndRampsEnd : Prop :=
  ∀ s : State,
    let stop (u : State) : State := (u.setMode { u.mode with halted := true }).stopChangeovers
    (∀ m, s.due .modeTake → .modeRamp ∉ s.todo → s.mode.request = some m →
      let level : Nat := if m = .active then 32768 else 0
      let ramp : Option Glide := if s.mode.factor = level then none else some ⟨s.mode.factor, level, 64, 0⟩
      let v := s.doing .modeTake
      let u := (if s.mode.mode = .active ∧ m ≠ .active then v.setMics (s.mics.map fun x => { x with persistence := 0 })
        else v).setMode ⟨m, s.mode.factor, ramp, decide (m = .stopped), s.mode.halted && decide (m = .stopped), none⟩
      let w := u.setChanged (u.changed ||| 2 ^ 0x002)
      exec (.modeRequest .taken) s = .next (if ramp = none ∧ m = .stopped then stop w else w))
    ∧ (s.changed.testBit 0x002 = true → Memory.wf s.ram = true → s.lanes.length = 6 → s.att.notices.length = 14 →
        s.slots.length = 8 → s.engines.length = 32 → s.guard.pool.length = 16 → s.mics.length = 48 →
        s.shown.map (fun e => (e.1, e.2.length)) = s.view.map (fun e => (e.1, e.2.length)) →
        readBytes (State.perform .publish s).ram 0x002 1 = leBytes 1 (match s.mode.mode with
          | .stopped => 0
          | .active => 1
          | .dry => 2))
    ∧ (∀ g, s.mode.ramp = some g → g.step + 1 < g.length → State.perform .modeRamp s = s.setMode { s.mode with
        factor := (g.start + ((g.stop - g.start) * (g.step + 1 : ℕ)).tdiv g.length).toNat
        ramp := some { g with step := g.step + 1 } })
    ∧ (∀ g, s.due .modeRamp → s.mode.ramp = some g → 0 < g.length → g.step + 1 = g.length →
      let u := (s.doing .modeRamp).setMode { s.mode with factor := g.stop.toNat, ramp := none }
      exec .modeRampEnd s = .next (if s.mode.rampStops = true ∧ s.mode.mode = .stopped then stop u else u))
    ∧ (s.slots.length = 8 → s.stopChangeovers.trans = none ∧ s.stopChangeovers.tails = []
      ∧ ∀ k < 8, s.stopChangeovers.ownsEngines k = false
        ∧ (s.ownsEngines k = true → (s.stopChangeovers.slot k).state = .ready)
        ∧ (s.ownsEngines k = false → s.stopChangeovers.slot k = s.slot k))
    ∧ (let u : State := match s.trans with
        | some t => ((s.answerHeld t.cueSlot .aborted (if t.clamped then 2 ^ 31 else 0)).setTrans none).setCoef { s.coef with
            requests := s.coef.requests.map fun e => { e with changeover := false }
            underWay := s.coef.underWay.map fun c => { c with changeover := false } }
        | none => s
      s.stopChangeovers = ((List.range 8).foldl (fun (v : State) k => if v.ownsEngines k = true then
        (v.releaseSlot k).onSlot k fun x => { x with state := .ready } else v) u).setTails []
      ∧ s.stopChangeovers.att = u.att ∧ s.stopChangeovers.ram = u.ram ∧ s.stopChangeovers.cues = u.cues
      ∧ s.stopChangeovers.coef = u.coef
      ∧ (s.stopChangeovers.att.notice 3 = s.att.notice 3)
      ∧ ∀ t bs, s.trans = some t → s.cues.held.getD t.cueSlot none = some bs → s.att.notices.length = 14 →
        (s.stopChangeovers.att.notice 0).pending = true
        ∧ (s.stopChangeovers.att.notice 0).detail = BitVec.ofNat 32 (t.cueSlot + 256 * 0x0D + 65536 * u16 bs 4))
    ∧ (∀ m g, s.due .modeTake → .modeRamp ∈ s.todo → s.mode.request = some m → s.mode.ramp = some g →
      (g.step + 1 < g.length ∨ (g.step + 1 = g.length ∧ (s.mode.rampStops = false ∨ m ≠ .stopped))) →
      let f : Nat := (g.start + ((g.stop - g.start) * (g.step + 1 : ℕ)).tdiv g.length).toNat
      let level : Nat := if m = .active then 32768 else 0
      let ramp : Option Glide := if f = level then none else some ⟨f, level, 64, 0⟩
      let v := (s.doing .modeTake).doing .modeRamp
      let u := (if s.mode.mode = .active ∧ m ≠ .active then v.setMics (s.mics.map fun x => { x with persistence := 0 })
        else v).setMode ⟨m, f, ramp, decide (m = .stopped), s.mode.halted && decide (m = .stopped), none⟩
      let w := u.setChanged (u.changed ||| 2 ^ 0x002)
      exec (.modeRequest .taken) s = .next (if ramp = none ∧ m = .stopped then stop w else w))
    ∧ ∀ m g, s.due .modeTake → .modeRamp ∈ s.todo → s.mode.request = some m → m ≠ .stopped → s.mode.mode = .stopped →
      s.mode.ramp = some g → 0 < g.length → g.step + 1 = g.length → g.stop = 0 → ∃ t,
        exec (.modeRequest .taken) s = .next t ∧ t.trans = s.trans ∧ t.tails = s.tails ∧ t.engines = s.engines
        ∧ t.slots = s.slots ∧ t.net = s.net ∧ t.cues = s.cues ∧ t.changed = s.changed ||| 2 ^ 0x002
        ∧ t.mode = ⟨m, 0, if m = .active then some ⟨0, 32768, 64, 0⟩ else none, false, false, none⟩

/-- The resync ramp: at the down ramp's last step the clock switches to its destination and an up ramp of 64 frames starts from 0;
the up ramp's last step ends it (07 R155). A step before the last, of either ramp, leaves the factor at start + trunc((end - start)
× j / 64) (07 R155, R160). Where the word clock was lost in RESYNC, the down ramp makes its step and ends, and an up ramp of 64
frames starts from the factor it leaves, none from full level (07 R156). CLOCK HOLDOVER, which the clock tells after its work, holds
while the source is EXTERNAL and the clock is in HOLDOVER, in HELD, or in RESYNC toward the word clock (07 R152). With neither a
source that differs nor a RESYNC written since, the clock's work at a frame boundary tells CLOCK HOLDOVER and nothing else: it
starts at the frame boundary after a loss of the word clock, and ends at the first at which it holds no longer (07 R152, R153). That
a request is taken on a state that has been told, the condition being judged first as the frame left it and again after the request,
is the model's reading of R152 and R153 (log 20). -/
def Obligations.TheResyncRampTurns : Prop :=
  (∀ (s : State) (g : Glide), s.due .resyncRamp → s.clock.turnUp = false → s.clock.ramp = some g → 0 < g.length →
    g.step + 1 = g.length →
    (s.clock.state = .resync → g.stop = 0 →
      exec .resyncSwitch s = .next (((s.doing .resyncRamp).setClock { s.clock with
        factor := 0, ramp := some ⟨0, 32768, 64, 0⟩, destination := none
        state := if s.clock.destination = some .wordClock then .following else .internal }).judgeClock))
    ∧ (s.clock.state ≠ .resync → exec .resyncUpEnd s = .next (((s.doing .resyncRamp).setClock
        { s.clock with factor := g.stop.toNat, ramp := none }).judgeClock)))
    ∧ (∀ (s : State) (g : Glide), s.clock.turnUp = false → s.clock.ramp = some g → g.step + 1 < g.length →
      State.perform .resyncRamp s = (s.setClock { s.clock with
        factor := (g.start + ((g.stop - g.start) * (g.step + 1 : ℕ)).tdiv g.length).toNat
        ramp := some { g with step := g.step + 1 } }).judgeClock)
    ∧ ∀ s : State,
      let f : ℕ := match s.clock.ramp with
        | some g => (g.start + ((g.stop - g.start) * (g.step + 1 : ℕ)).tdiv g.length).toNat
        | none => s.clock.factor
      (s.clock.turnUp = true → State.perform .resyncRamp s = (s.setClock { s.clock with
        factor := f, ramp := if f = 32768 then none else some ⟨f, 32768, 64, 0⟩, turnUp := false }).judgeClock)
      ∧ s.judgeClock = s.judge .clockHoldover s.clock.holdsOver 0
      ∧ (s.clock.holdsOver = true ↔ s.clock.external = true ∧ (s.clock.state = .holdover ∨ s.clock.state = .held
          ∨ (s.clock.state = .resync ∧ s.clock.destination = some .wordClock)))
      ∧ (s.clock.newSource = none ∨ s.clock.newSource = some s.clock.external → s.clock.newResync = false →
        let t := State.perform .clockTake s
        let n := s.att.notice 10
        t = s.judgeClock.setClock { s.clock with newSource := none, newResync := false }
        ∧ (s.att.notices.length = 14 →
          (s.clock.holdsOver = true → n.pending = false →
            t.att.notice 10 = ⟨true, min 255 (n.count + 1), 0, s.frame⟩)
          ∧ (s.clock.holdsOver = n.pending → t.att = s.att)
          ∧ (s.clock.holdsOver = false → t.att.notice 10 = { n with pending := false })
          ∧ ∀ i, i ≠ 10 → t.att.notice i = s.att.notice i))
      ∧ (s.att.notices.length = 14 → State.perform .clockTake s = State.perform .clockTake s.judgeClock
        ∧ (s.judgeClock.att.notice 10).pending = s.clock.holdsOver
        ∧ (s.due .clockTake →
          (s.clock.newSource = some (!s.clock.external) →
            exec (.clockSource .taken) s = exec (.clockSource .taken) s.judgeClock)
          ∧ (s.clock.newResync = true → exec (.resync .taken) s = exec (.resync .taken) s.judgeClock)))

/-- A source change taken at a frame boundary, by the clock state (07 R152, R155, R156, R157). A down ramp that starts at factor 0
has ended at once and the switch is made at the same frame boundary, where CLOCK HOLDOVER, when the resynchronization started it,
both starts and ends: that reading is the model's (log 20). A ramp's step still to be made is made first: in RESYNC without the
switch, in another clock state whole (07 R155, R156). A RESYNC taken with a source change comes after it and has no effect: no
source change leads to HELD (07 R152, R154). That CLOCK HOLDOVER is judged before the request, as the frame left it, and again after
it is the model's reading too (log 20). -/
def Obligations.SourceChangesAreTaken : Prop :=
  (∀ (s : State) (x : Bool), s.due .clockTake → .resyncRamp ∉ s.todo → s.clock.newSource = some x → s.clock.newResync = false →
    s.clock.external ≠ x → (s.att.notice 10).pending = s.clock.holdsOver →
    let c : Clock := { s.clock with external := x, newSource := none }
    let down (d : Destination) : Clock :=
      { c with state := .resync, destination := some d, ramp := some ⟨s.clock.factor, 0, 64, 0⟩, turnUp := false }
    let become (c' : Clock) : Prop :=
      exec (.clockSource .taken) s = .next (((s.doing .clockTake).setClock c').judgeClock)
    (x = true → s.clock.state = .internal → s.clock.present = true → s.clock.factor ≠ 0 → become (down .wordClock))
    ∧ (x = true → s.clock.state = .internal → s.clock.present = false → become { c with state := .holdover })
    ∧ (x = false → s.clock.state = .following → s.clock.factor ≠ 0 → become (down .crystal))
    ∧ (x = false → s.clock.state = .holdover ∨ s.clock.state = .held → become { c with state := .internal })
    ∧ (s.clock.state = .resync → s.clock.factor ≠ 32768 → become { c with
        state := if x = true then .following else .internal, destination := none, turnUp := false
        ramp := some ⟨s.clock.factor, 32768, 64, 0⟩ })
    ∧ (x = true → s.clock.state = .internal → s.clock.present = true → s.clock.factor = 0 → s.att.notices.length = 14 → ∃ t,
        exec (.clockSource .taken) s = .next t
        ∧ t.clock = { c with state := .following, destination := none, turnUp := false, ramp := some ⟨0, 32768, 64, 0⟩ }
        ∧ t.att.notice 10 = ⟨false, min 255 ((s.att.notice 10).count + 1), 0, s.frame⟩
        ∧ ∀ i, i ≠ 10 → t.att.notice i = s.att.notice i)
    ∧ (x = false → s.clock.state = .following → s.clock.factor = 0 →
        become { c with state := .internal, destination := none, turnUp := false, ramp := some ⟨0, 32768, 64, 0⟩ }))
    ∧ ∀ (s : State) (x : Bool), s.due .clockTake → s.clock.newSource = some x → s.clock.external ≠ x →
      s.att.notices.length = 14 → (s.att.notice 10).pending = s.clock.holdsOver →
      (s.todo.count .resyncRamp = 1 →
        let c : Clock := match s.clock.ramp with
          | some g => { s.clock with
              factor := (g.start + ((g.stop - g.start) * (g.step + 1 : ℕ)).tdiv g.length).toNat
              ramp := if g.length ≤ g.step + 1 then none else some { g with step := g.step + 1 } }
          | none => s.clock
        let u := if s.clock.state = .resync then s.setClock c else State.perform .resyncRamp s
        exec (.clockSource .taken) s = exec (.clockSource .taken) (u.doing .resyncRamp))
      ∧ (s.clock.newResync = true →
        exec (.clockSource .taken) s = exec (.clockSource .taken) (s.setClock { s.clock with newResync := false })
        ∧ exec (.resync .taken) s = exec (.clockSource .taken) s)

/-- A RESYNC request taken at a frame boundary begins a resynchronization toward the word clock in HELD, with a down ramp from the
resync factor, and has no effect in the other clock states; a RESYNC that has no effect is not remembered (07 R154, R155). That a
down ramp starting at factor 0 ends at once, with the switch made at the same frame boundary, is the model's reading of R155 and
R160 (log 20). The write that asked for it names the source that stands, or nothing was written since (01 R3). In HELD a ramp's step
still to be made is made first; in another clock state it stays to be made (07 R155). That CLOCK HOLDOVER is judged before the
request, as the frame left it, and again after it is the model's reading too (log 20). -/
def Obligations.ResyncActsInHeldAlone : Prop :=
  (∀ s : State, s.due .clockTake → .resyncRamp ∉ s.todo →
    (s.clock.newSource = none ∨ s.clock.newSource = some s.clock.external) → s.clock.newResync = true →
    (s.att.notice 10).pending = s.clock.holdsOver →
    let c : Clock := { s.clock with newSource := none, newResync := false }
    (s.clock.state = .held → s.clock.factor ≠ 0 → exec (.resync .taken) s = .next
      (((s.doing .clockTake).setClock { c with
        state := .resync, destination := some .wordClock, ramp := some ⟨s.clock.factor, 0, 64, 0⟩
        turnUp := false }).judgeClock))
    ∧ (s.clock.state = .held → s.clock.factor = 0 → exec (.resync .taken) s = .next
      (((s.doing .clockTake).setClock { c with
        state := .following, destination := none, ramp := some ⟨0, 32768, 64, 0⟩, turnUp := false }).judgeClock))
    ∧ (s.clock.state ≠ .held → exec (.resync .taken) s = .next ((s.doing .clockTake).setClock c)))
    ∧ ∀ s : State, s.due .clockTake → s.todo.count .resyncRamp = 1 →
      (s.clock.newSource = none ∨ s.clock.newSource = some s.clock.external) → s.clock.newResync = true →
      s.att.notices.length = 14 → (s.att.notice 10).pending = s.clock.holdsOver →
      (s.clock.state = .held → exec (.resync .taken) s =
        exec (.resync .taken) ((State.perform .resyncRamp s).doing .resyncRamp))
      ∧ (s.clock.state ≠ .held → exec (.resync .taken) s = .next ((s.doing .clockTake).setClock
          { s.clock with newSource := none, newResync := false }))

/-- The word clock: an absence acts by the clock state; 64 good intervals in succession make it present, 63 do not, and presence
turns HOLDOVER into HELD (07 R151, R153, R156). An interval from 0.5 to 1.5 crystal periods while it is present leaves the clock as
it is; while it is absent, an interval that is not good, or 4 periods without an edge, starts the run over, and a good one counts on
(07 R151). That intervals of exactly 0.9 and 1.1 crystal periods are good and that those of exactly 0.5 and 1.5 do not make it
absent is the model's reading (log 14). -/
def Obligations.TheWordClockIsJudged : Prop :=
  ∀ s : State, s.resetHeld = false →
    (s.clock.present = true →
      let c : Clock := { s.clock with present := false, good := 0 }
      let lost (c' : Clock) : Prop := exec (.wordClockAbsent .silence) s = .next (s.setClock c')
        ∧ ∀ i : Interval, (2 * i.num < i.den ∨ 3 * i.den < 2 * i.num) →
          exec (.wordClockAbsent (.interval i)) s = .next (s.setClock c')
      (s.clock.state = .internal ∨ s.clock.state = .holdover → lost c)
      ∧ (s.clock.state = .following ∨ s.clock.state = .held → lost { c with state := .holdover })
      ∧ (s.clock.state = .resync → s.clock.destination = some .wordClock →
          lost { c with state := .holdover, destination := none, turnUp := true })
      ∧ (s.clock.state = .resync → s.clock.destination = some .crystal →
          lost { c with state := .internal, destination := none, turnUp := true })
      ∧ ∀ i : Interval, i.den ≤ 2 * i.num → 2 * i.num ≤ 3 * i.den →
          exec (.wordClockAbsent (.interval i)) s = .next s ∧ exec (.wordClockPresent [i]) s = .next s)
    ∧ (s.clock.present = false →
        let sees (i : Interval) (c : Clock) : Prop := exec (.wordClockPresent [i]) s = .next (s.setClock c)
          ∧ exec (.wordClockAbsent (.interval i)) s = .next (s.setClock c)
        exec (.wordClockAbsent .silence) s = .next (s.setClock { s.clock with good := 0 })
        ∧ (∀ i : Interval, ¬ (9 * i.den ≤ 10 * i.num ∧ 10 * i.num ≤ 11 * i.den) → sees i { s.clock with good := 0 })
        ∧ ∀ i : Interval, 9 * i.den ≤ 10 * i.num → 10 * i.num ≤ 11 * i.den → s.clock.good < 63 →
          sees i { s.clock with good := s.clock.good + 1 })
    ∧ (s.clock.present = false → s.clock.good = 0 → ∀ is : List Interval,
        (∀ i ∈ is, 9 * i.den ≤ 10 * i.num ∧ 10 * i.num ≤ 11 * i.den ∧ 0 < i.den) →
        (is.length = 64 → exec (.wordClockPresent is) s = .next (s.setClock { s.clock with
          present := true, good := 0, state := if s.clock.state = .holdover then .held else s.clock.state }))
        ∧ (is.length < 64 → exec (.wordClockPresent is) s = .next (s.setClock { s.clock with good := is.length })))

/-- A whole lane frame at a receiver that holds its framing: a LOCKED lane with a good sync word stores the frame with its samples
and has count 0; with a first bad one it stores a bad frame and has count 1; a second bad one in succession makes it SEEKING with
count 0, an empty store and its loss mark, and hunting from the next bit on; a SEEKING lane's fourth good sync word makes it LOCKED
(07 R144, R145, R146). The lanes' work at a frame boundary: the loss marks are read and cleared, the microphones of a lost lane lose
their persistence counts, and LANE DOWN starts, with the mask of the down lanes that carry a present microphone, goes on or ends (06
R129, 07 R148); where it held and still holds it is told nothing (log 32). A sample period's take: a SEEKING lane hands 0; a LOCKED
one the samples of the frame taken when it is good, those of the last good frame taken when it is bad or there is none, which counts
as a bad sync word, and 0 when that loses the lock (07 R146, R147). A SEEKING lane counts its good sync words and loses its framing
at a bad one; bits are received one by one, and a receiver that hunts finds the sync word at whatever bit it ends (07 R145). An
output lane sends, in every sample period, the sync word and the eight samples of its speakers, each most significant bit first;
none while the reset pin is held (07 R144, R149). With no good frame taken since the lock a take hands 0, which R147 says of a bad
frame and log 31 of an empty take. That hunting counts only the bits received since it began, that a lost lane hunts again with no
bit seen, and that a frame enters the store at its last bit, is the model's reading of R145 and R146 (log 19). -/
def Obligations.LaneFramesAreReceived : Prop :=
  (∀ (s : State) (i : Nat) (l : InputLane) (bits : List Bool), i < 6 → s.resetHeld = false → s.lanes[i]? = some l →
    bits.length = 216 → l.framing = .framed 0 0 → l.store.length ≤ 4 →
    let value : Nat := bits.foldl (fun n b => 2 * n + if b then 1 else 0) 0
    let good := value / 2 ^ 192 = 0x9E2B47
    let kept := if l.store.length = 4 then l.store.drop 1 else l.store
    let becomes (l' : InputLane) : Prop := exec (.inputLaneFrame i bits) s = .next (s.setLanes (s.lanes.set i l'))
    (l.locked = true → good → becomes { l with count := 0, store := kept ++ [⟨true, frameSamples value⟩] })
    ∧ (l.locked = true → ¬ good → l.count = 0 →
        becomes { l with count := 1, store := kept ++ [⟨false, frameSamples value⟩] })
    ∧ (l.locked = true → ¬ good → l.count = 1 →
        becomes ((bits.drop 24).foldl InputLane.receive ⟨false, 0, .hunting 0 0, [], none, true⟩))
    ∧ (l.locked = false → good → l.count = 3 → becomes { l with
        locked := true, count := 0, lastGood := none, store := kept ++ [⟨true, frameSamples value⟩] })
    ∧ (l.locked = false → good → l.count < 3 → becomes { l with count := l.count + 1 })
    ∧ (l.locked = false → ¬ good →
        becomes ((bits.drop 24).foldl InputLane.receive { l with count := 0, framing := .hunting 0 0 })))
    ∧ (∀ (s : State) (i : Nat) (l : InputLane) (bits : List Bool), i < 6 → s.resetHeld = false → s.lanes[i]? = some l →
      exec (.inputLaneFrame i bits) s = .next (s.setLanes (s.lanes.set i (bits.foldl InputLane.receive l))))
    ∧ (∀ (l : InputLane) (n v : Nat) (b : Bool),
      let next := 2 * v + if b then 1 else 0
      (l.framing = .hunting n v → l.receive b =
        if 23 ≤ n ∧ next % 2 ^ 24 = 0x9E2B47 then { l with framing := .framed 24 0x9E2B47, count := 1 }
        else { l with framing := .hunting (min 24 (n + 1)) (next % 2 ^ 24) })
      ∧ (l.framing = .framed n v → n ≠ 23 → n < 215 → l.receive b = { l with framing := .framed (n + 1) next }))
    ∧ (∀ (l : InputLane) (bits : List Bool), l.framing = .hunting 0 0 →
      let value (k : Nat) : Nat := ((bits.take k).foldl (fun n b => 2 * n + if b then 1 else 0) 0) % 2 ^ 24
      (∀ k < bits.length, 24 ≤ k → value k ≠ 0x9E2B47) →
      (24 ≤ bits.length → value bits.length = 0x9E2B47 →
        bits.foldl InputLane.receive l = { l with framing := .framed 24 0x9E2B47, count := 1 })
      ∧ (bits.length < 24 ∨ value bits.length ≠ 0x9E2B47 →
        bits.foldl InputLane.receive l = { l with framing := .hunting (min 24 bits.length) (value bits.length) }))
    ∧ (∀ (s : State) (k : Nat), (s.resetHeld = true → s.outputFrame k = [])
      ∧ (s.resetHeld = false → k < 16 → s.outputs.sent.length = 128 → (s.outputFrame k).length = 216
        ∧ (∀ j < 24, (s.outputFrame k)[j]? = some (Nat.testBit 0x9E2B47 (23 - j)))
        ∧ ∀ p < 8, ∀ j < 24, (s.outputFrame k)[24 * (p + 1) + j]? =
          some (((s.outputs.sent.getD (8 * k + p) 0) % 2 ^ 24).toNat.testBit (23 - j))))
    ∧ (∀ l : InputLane,
      let zeros : List ℤ := [0, 0, 0, 0, 0, 0, 0, 0]
      (l.locked = false → l.take = (zeros, l))
      ∧ (∀ f rest, l.locked = true → l.store = f :: rest →
        (f.good = true → l.take = (f.samples, { l with store := rest, lastGood := some f.samples }))
        ∧ (f.good = false → l.take = (l.lastGood.getD zeros, { l with store := rest })))
      ∧ (l.locked = true → l.store = [] →
        (l.count = 0 → l.take = (l.lastGood.getD zeros, { l with count := 1 }))
        ∧ (0 < l.count → l.take = (zeros, ⟨false, 0, .hunting 0 0, [], none, true⟩))))
    ∧ (∀ s : State, s.takeLanes =
      (s.lanes.flatMap (fun l => l.take.1), s.setLanes (s.lanes.map fun l => l.take.2)))
    ∧ ∀ s : State, s.lanes.length = 6 → s.mics.length = 48 → s.att.notices.length = 14 →
      let t := State.perform .lanes s
      let down (i : Nat) : Prop := ((s.lane i).locked = false ∨ (s.lane i).lost = true)
        ∧ ∃ p < 8, (s.mic (8 * i + p)).present = true
      t.lanes = s.lanes.map (fun l => { l with lost := false })
      ∧ (∀ m < 48, t.mic m = if (s.lane (m / 8)).lost = true then { s.mic m with persistence := 0 } else s.mic m)
      ∧ (∃ mask : BitVec 6, (∀ i : Fin 6, mask[i] = true ↔ down i)
        ∧ ((∃ i < 6, down i) → (s.att.notice 8).pending = false → t.att.notice 8 =
          ⟨true, min 255 ((s.att.notice 8).count + 1), mask.setWidth 32, s.frame⟩))
      ∧ ((∃ i < 6, down i) → (s.att.notice 8).pending = true → t.att = s.att)
      ∧ ((∀ i < 6, ¬ down i) → t.att.notice 8 = { s.att.notice 8 with pending := false })
      ∧ (∀ i, i ≠ 8 → t.att.notice i = s.att.notice i) ∧ t.ram = s.ram ∧ t.guard = s.guard

/-- A sample period: what is left of the last frame boundary, or after 64 sample periods the whole frame boundary, comes first (07
R150, log 2); then the lanes are taken, the microphones conditioned, the lanes send what the period before formed, and the sample
joins the frame and the meters. Conditioning runs in every mode: trim, notch filters, fallback, each saturated; an absent
microphone, or one whose lane is not LOCKED, gives 0 (06 R120; log 8), and its buffer takes the sample. Halted, the network holds
and every output sample is 0; running, each output is its speaker total under the mute factor, rounded down and saturated, and a
sample that the saturation changes is a clip: its count rises up to 65535, and from 0 raises OUTPUT CLIP, whose count rises by one
for every such speaker, up to 255 (03 R56, R57, R66 to R68; 07 R149, R161; 09 R171). The order in which speakers clip is the
command's operand, the model's choice (log 13). -/
def Obligations.SamplePeriodRuns : Prop :=
  (∀ (s : State) (first : Nat), first < 128 → s.resetHeld = false →
    let u := s.beforeSample
    (s.framePos < 64 → u = s.settle ∧ (s.todo = [] → u = s))
    ∧ (64 ≤ s.framePos → exec (.frameBoundary [] false) s = .next u)
    ∧ ∃ t, exec (.samplePeriod first) s = .next t
      ∧ t.framePos = u.framePos + 1 ∧ t.frame = u.frame ∧ t.ram = u.ram ∧ t.outputs.sent = u.outputs.formed
      ∧ t.lanes = u.lanes.map (fun l => l.take.2) ∧ t.cues = u.cues ∧ t.slots = u.slots
      ∧ t.meters.periods = u.meters.periods + 1
      ∧ (let c := u.takeLanes.2.condition u.takeLanes.1
        t.mics = c.2.mics ∧ t.guard = c.2.guard ∧ t.meters = u.meters.collect c.1 t.outputs.formed)
      ∧ (u.mode.halted = true → t.engines = u.engines ∧ t.outputs.formed = List.replicate 128 0 ∧ t.net = u.net ∧ t.att = u.att)
      ∧ (u.mode.halted = false →
          let c := u.takeLanes.2.condition u.takeLanes.1
          let r := networkPeriod c.2 c.1
          let q : ℤ := (u.mode.factor * u.clock.factor / 32768 : Nat)
          let v (x : Nat) : ℤ := r.2.getD x 0 * q / 32768
          let clips (x : Nat) : Prop := v x < -8388607 ∨ 8388607 < v x
          let new (x : Nat) : Prop := clips x ∧ u.net.clips.getD x 0 = 0
          t.engines = r.1 ∧ t.outputs.formed = r.2.map (fun v => max (-8388607) (min 8388607 (v * q / 32768)))
          ∧ t.net.play = u.net.play ∧ t.net.draining = u.net.draining
          ∧ (u.net.clips.length = 128 → ∀ x < 128,
            (clips x → t.net.clips.getD x 0 = min 65535 (u.net.clips.getD x 0 + 1))
            ∧ (¬ clips x → t.net.clips.getD x 0 = u.net.clips.getD x 0))
          ∧ ((∀ x < 128, ¬ new x) → t.att = u.att)
          ∧ (∀ i, i ≠ 9 → t.att.notice i = u.att.notice i)
          ∧ (u.net.clips.length = 128 → u.att.notices.length = 14 → (u.att.notice 9).count ≤ 255 →
            (t.att.notice 9).count = min 255 ((u.att.notice 9).count + (List.range 128).countP fun x =>
              (decide (v x < -8388607) || decide (8388607 < v x)) && u.net.clips.getD x 0 == 0))
          ∧ (u.net.clips.length = 128 → u.att.notices.length = 14 → ∀ x < 128, new x →
            (t.att.notice 9).pending = true
            ∧ ((u.att.notice 9).pending = true → (t.att.notice 9).detail = (u.att.notice 9).detail)
            ∧ ((u.att.notice 9).pending = false → (∀ y < 128, new y → (x + 128 - first) % 128 ≤ (y + 128 - first) % 128) →
              (t.att.notice 9).detail = BitVec.ofNat 32 x ∧ (t.att.notice 9).stamp = u.frame))))
    ∧ ∀ (s : State) (samples : List ℤ) (m : Nat) (x : Mic), s.mics[m]? = some x →
      let c := s.condition samples
      let heard := x.present = true ∧ (s.lane (m / 8)).locked = true
      let x0 : ℤ := if heard then samples.getD m 0 else 0
      let x2 := (notchChain m s.guard.pool (sat32 (x0 * x.trimWord / 8192))).1
      let out : ℤ := if heard then sat32 (x2 * x.fallbackWord / 8192) else 0
      c.1[m]? = some out ∧ c.2.mics[m]? = some { x with buffer := out :: x.buffer }
      ∧ c.2.guard = { s.guard with pool := c.2.guard.pool } ∧ c.2.guard.pool.length = s.guard.pool.length
      ∧ ∀ (n : Nat) (y : Notch), s.guard.pool[n]? = some y → y.filter.engaged = true → y.filter.mic = m →
        c.2.guard.pool[n]? = (notchChain m s.guard.pool (sat32 (x0 * x.trimWord / 8192))).2[n]?

/-! ### Show lock (08) and meters (09) -/

/-- LOCK and SET KEY in the order of their cases (08 R166, R167). -/
def Obligations.LockAndSetKey : Prop :=
  ∀ (s : State) (k : Nat),
    let b := cueBytes s.ram k
    let t := s.took k
    let key := (b.drop 12).take 12
    (s.takeable k .lock → exec (.lock k) s = .next (
      if s.lock.key = none then t.answer k b .key 0
      else if s.lock.locked = true then t.answer k b .done 0
      else if s.lock.key ≠ some key then t.answer k b .key 0
      else (t.setLock { s.lock with locked := true }).answer k b .done 0))
    ∧ (s.takeable k .setKey →
      ((∃ x, ∀ y ∈ key, y = x) → exec (.setKey k) s = .next (t.answer k b .range 0))
      ∧ ((¬ ∃ x, ∀ y ∈ key, y = x) →
          exec (.setKey k) s = .next ((t.setLock { s.lock with key := some key }).answer k b .done 0)))

/-- UNLOCK in the order of its cases, the third refusal in succession starting the lockout of 45000 frames; the lockout timer's
last frame stops it and changes nothing else, and a frame before the last lowers it by 1 (08 R168, R169). -/
def Obligations.UnlockCountsItsRefusals : Prop :=
  (∀ s : State, s.due .lockout → s.lock.lockout = 1 →
    exec .lockoutEnd s = .next ((s.doing .lockout).setLock { s.lock with lockout := 0 }))
  ∧ (∀ s : State, State.perform .lockout s = s.setLock { s.lock with lockout := s.lock.lockout - 1 })
  ∧ ∀ (s : State) (k : Nat), s.takeable k .unlock →
    let b := cueBytes s.ram k
    let t := s.took k
    exec (.unlock k) s = .next (
      if s.lock.locked = false then t.answer k b .done 0
      else if 0 < s.lock.lockout then t.answer k b .key 0
      else if s.lock.key ≠ some ((b.drop 12).take 12) then
        if s.lock.failures = 2 then
          ((t.setLock { s.lock with failures := 0, lockout := 45000 }).answer k b .key 0).raise .unlockRefused 0x100
        else ((t.setLock { s.lock with failures := s.lock.failures + 1 }).answer k b .key 0).raise .unlockRefused
          (s.lock.failures + 1)
      else (t.setLock { s.lock with locked := false, failures := 0 }).answer k b .done 0)

/-- The meter write: every microphone's and speaker's entry from the collections, tau, epsilon, beta and the frame counter; the
collections start over, clip counts stay, and no byte outside the meter area changes (09 R177, R178, R179). The publication that
ends a frame boundary: each field of the engine page and each mirror entry that has changed since it was last written is written
whole with the value it has then, even the value that stood before, and no other byte of common memory changes (01 R5, 09 R176,
R180; the fields `shown` and `changed` that remember this are the model's own, log 10). The page's and the mirrors' entries are
those of the Formats (01 Formats; 02 R20; 03 R43; 05 R91; 06 R143; 09 R176, R180), and a block that changes a value of a mirror
entry, a notice record or the lock marks that entry, and no other. The publication forms the words of the filters on a microphone
from bin and depth, and keeps the last 1024 samples of the analysis buffers (06 R120, R121); the words and the levels of the meters
are those of R121 and R178 at values. That the words are formed at the end of the frame boundary (log 16) and the buffers are cut
there (log 23) is the model's reading. -/
def Obligations.MetersAreWritten : Prop :=
  (∀ s : State, s.due .meters → Memory.wf s.ram = true → s.meters.micPeaks.length = 48 → s.meters.micSquares.length = 48 →
    s.meters.speakerPeaks.length = 128 → s.net.clips.length = 128 → ∃ t, exec .meterWrite s = .next t
    ∧ t = ((s.doing .meters).setRam t.ram).setMeters ⟨List.replicate 48 0, List.replicate 48 0, List.replicate 128 0, 0⟩
    ∧ (∀ m < 48, readBytes t.ram (0x4000 + 4 * m) 4 =
        leBytes 2 (twos16 (peakLevel (s.meters.micPeaks.getD m 0)))
          ++ leBytes 2 (twos16 (rmsLevel (s.meters.micSquares.getD m 0) s.meters.periods)))
    ∧ (∀ x < 128, readBytes t.ram (0x40C0 + 4 * x) 4 =
        leBytes 2 (twos16 (peakLevel (s.meters.speakerPeaks.getD x 0))) ++ leBytes 2 (s.net.clips.getD x 0))
    ∧ readBytes t.ram 0x42C0 6 = leBytes 2 (twos16 s.coef.tau) ++ leBytes 2 (twos16 s.coef.epsilon) ++ leBytes 2 s.guard.beta
    ∧ readBytes t.ram 0x42C8 4 = leBytes 4 s.frame.toNat
    ∧ ∀ a, (a < 0x4000 ∨ 0x42CC ≤ a ∨ a = 0x42C6 ∨ a = 0x42C7) → readByte t.ram a = readByte s.ram a)
    ∧ (∀ s : State, s.framePos < 64 → s.todo = [.publish] → s.beforeSample = State.perform .publish (s.setTodo []))
    ∧ (∀ s : State, let t := State.perform .publish s
      t.shown = s.view ∧ t.view = s.view ∧ t.changed = 0 ∧ t.todo = s.todo ∧ t.cues = s.cues ∧ t.att = s.att ∧ t.slots = s.slots
      ∧ t.guard = { s.guard with pool := s.guard.pool.map fun n => if n.filter.engaged = true then
          { n with filter := { n.filter with words := notchWords n.filter.bin n.filter.depth } } else n }
      ∧ t.mics = s.mics.map (fun m => { m with buffer := m.buffer.take 1024 })
      ∧ (Memory.wf s.ram = true → s.lanes.length = 6 → s.att.notices.length = 14 → s.slots.length = 8 → s.engines.length = 32 →
        s.guard.pool.length = 16 → s.mics.length = 48 →
        s.shown.map (fun e => (e.1, e.2.length)) = s.view.map (fun e => (e.1, e.2.length)) →
        (∀ (i a : Nat) (old new : List Byte), s.shown[i]? = some (a, old) → s.view[i]? = some (a, new) →
          readBytes t.ram a new.length =
            if old ≠ new ∨ s.changed.testBit a = true then new else readBytes s.ram a new.length)
        ∧ ∀ b, (∀ a bs, (a, bs) ∈ s.view → b < a ∨ a + bs.length ≤ b) → readByte t.ram b = readByte s.ram b))
    ∧ (let q := 2 ^ 30
      [notchWords 2 300, notchWords 53 150, notchWords 53 600, notchWords 256 1500, notchWords 426 0, notchWords 426 1800] =
        [⟨1073583358, -2146236846, 1072815108, -2146236846, 1072656642⟩, ⟨1071674289, -2010219565, 1049737838, -2010219565, 1047670303⟩,
          ⟨1065346882, -2003029123, 1048477074, -2003029123, 1040082133⟩, ⟨972761507, 0, 929079356, 0, 828099038⟩,
          ⟨q, 1700486472, 894475649, 1700486472, 894475649⟩, ⟨882025774, 1476381081, 826802311, 1476381081, 635086261⟩])
    ∧ [0, 1, 2, 1000, 83886, 838861, 4194304, 5931642, 8388607, 8388608, 16777216, 2147483648].map peakLevel =
        [-14400, -13847, -13245, -7847, -4000, -2000, -602, -301, 0, 0, 602, 4816]
    ∧ [(0, 2048), (1, 1), (1, 2048), (2048 * 838861 ^ 2, 2048), (2048 * 4194304 ^ 2, 2048), (1024 * 8388608 ^ 2, 2048),
        (2048 * 8388608 ^ 2, 2048)].map (fun x => rmsLevel x.1 x.2) = [-14400, -13847, -14400, -2000, -602, -301, 0]
    ∧ (let size (x : Slot) : Nat × Nat := match x.state with
        | .vacant | .loading | .faulted => (0, 0)
        | .ready | .live | .outgoing => ((x.record.map (·.lines.length)).getD 0, ((x.record.bind (·.computed)).map fun c =>
            c.times.foldl (fun m v => max m (max v.lf (max v.mf v.hf))) 0).getD 0)
      (∀ s : State,
        let flag (b : Bool) : List Byte := leBytes 1 (if b then 1 else 0)
        let zeros (n : Nat) : List Byte := List.replicate n 0
        (0x000, leBytes 2 s.cues.expected.toNat) ∈ s.view
        ∧ (0x002, leBytes 1 (match s.mode.mode with | .stopped => 0 | .active => 1 | .dry => 2)) ∈ s.view
        ∧ (0x004, leBytes 2 (s.mode.factor * s.clock.factor / 32768)) ∈ s.view ∧ (0x006, flag s.clock.external) ∈ s.view
        ∧ (0x007, leBytes 1 (match s.clock.state with
            | .internal => 0 | .following => 1 | .holdover => 2 | .held => 3 | .resync => 4)) ∈ s.view
        ∧ (∀ i l, s.lanes[i]? = some l → (0x008 + i, flag l.locked) ∈ s.view)
        ∧ (0x00E, flag s.lock.locked) ∈ s.view ∧ (0x00F, flag s.lock.key.isSome) ∈ s.view
        ∧ (0x010, leBytes 1 s.lock.failures) ∈ s.view ∧ (0x012, leBytes 2 s.lock.lockout) ∈ s.view
        ∧ (0x014, leBytes 4 s.frame.toNat) ∈ s.view
        ∧ (∀ n x, s.att.notices[n]? = some x → (0x100 + 16 * n, flag x.pending) ∈ s.view
          ∧ (0x101 + 16 * n, leBytes 1 x.count) ∈ s.view ∧ (0x104 + 16 * n, leBytes 4 x.detail.toNat) ∈ s.view
          ∧ (0x108 + 16 * n, leBytes 4 x.stamp.toNat) ∈ s.view)
        ∧ (∀ k x, s.slots[k]? = some x → (0x2000 + 8 * k,
            leBytes 1 (match x.state with
              | .vacant => 0 | .loading => 1 | .ready => 2 | .faulted => 3 | .live => 4 | .outgoing => 5)
            ++ leBytes 1 (size x).1 ++ leBytes 1 ((if x.flags.floor then 1 else 0) + (if x.flags.ceil then 2 else 0)
              + (if x.flags.tclamp then 4 else 0) + (if x.flags.gclamp then 8 else 0))
            ++ zeros 1 ++ leBytes 2 (size x).2 ++ zeros 2) ∈ s.view)
        ∧ (∀ e x, s.engines[e]? = some x → (0x2040 + 2 * e,
            leBytes 1 (match x.state with | .free => 0 | .assigned => 1 | .draining => 2 | .scrubbing => 3)
              ++ leBytes 1 (x.owner.getD 255)) ∈ s.view)
        ∧ (0x2080, match s.trans with
          | none => zeros 32
          | some t => leBytes 1 1 ++ leBytes 1 (t.target.getD 255) ++ leBytes 1 (t.source.getD 255)
              ++ leBytes 1 (match t.style with | some .overlap => 0 | some .sequential => 1 | none => 255)
              ++ leBytes 1 (match t.phase with | .prepare => 0 | .claim => 1 | .out => 2 | .in_ => 3 | .fade => 4)
              ++ leBytes 1 t.cueSlot ++ leBytes 2 t.fade ++ leBytes 2 t.position ++ leBytes 1 t.cuts.length
              ++ ((List.range 7).flatMap fun i => leBytes 1 (t.cuts.getD i 255)) ++ zeros 14) ∈ s.view
        ∧ (∀ n x, s.guard.pool[n]? = some x → (0x20A0 + 16 * n,
            leBytes 1 (match x.kind with | .free => 0 | .floating => 1 | .fixed => 2) ++ leBytes 1 x.mic ++ leBytes 2 x.bin
              ++ leBytes 2 x.depth ++ leBytes 2 x.hold ++ leBytes 4 x.stamp.toNat ++ zeros 4) ∈ s.view)
        ∧ (∀ m x, s.mics[m]? = some x → (0x21A0 + 8 * m,
            leBytes 1 x.persistence ++ zeros 1 ++ leBytes 2 x.persistenceBin ++ leBytes 2 x.phi ++ leBytes 2 x.quiet) ∈ s.view)
        ∧ (0x2320, leBytes 2 (twos16 s.coef.tau) ++ leBytes 2 (twos16 s.coef.epsilon) ++ leBytes 2 s.guard.beta) ∈ s.view)
      ∧ ∀ (s : State) (a : Nat),
        let marks (t : State) (p : Prop) : Prop := t.changed.testBit a = true ↔ s.changed.testBit a = true ∨ p
        (∀ v, marks (s.setSlots v) (∃ k x y, a = 0x2000 + 8 * k ∧ s.slots[k]? = some x ∧ v[k]? = some y
          ∧ (x.state ≠ y.state ∨ x.flags ≠ y.flags ∨ size x ≠ size y)))
        ∧ (∀ v, marks (s.setEngines v) (∃ e x y, a = 0x2040 + 2 * e ∧ s.engines[e]? = some x ∧ v[e]? = some y
          ∧ (x.state ≠ y.state ∨ x.owner ≠ y.owner)))
        ∧ (∀ v, marks (s.setTrans v) (a = 0x2080
          ∧ s.trans.map (fun t => { t with clamped := false }) ≠ v.map (fun t => { t with clamped := false })))
        ∧ (∀ v, marks (s.setGuard v) ((∃ n x y, a = 0x20A0 + 16 * n ∧ s.guard.pool[n]? = some x ∧ v.pool[n]? = some y
            ∧ (x.kind ≠ y.kind ∨ x.mic ≠ y.mic ∨ x.bin ≠ y.bin ∨ x.depth ≠ y.depth ∨ x.hold ≠ y.hold ∨ x.stamp ≠ y.stamp))
          ∨ (a = 0x2320 ∧ s.guard.beta ≠ v.beta)))
        ∧ (∀ v, marks (s.setMics v) (∃ m x y, a = 0x21A0 + 8 * m ∧ s.mics[m]? = some x ∧ v[m]? = some y
          ∧ (x.persistence ≠ y.persistence ∨ x.persistenceBin ≠ y.persistenceBin ∨ x.phi ≠ y.phi ∨ x.quiet ≠ y.quiet)))
        ∧ (∀ v, marks (s.setCoef v) (a = 0x2320 ∧ (s.coef.tau ≠ v.tau ∨ s.coef.epsilon ≠ v.epsilon)))
        ∧ (∀ v, marks (s.setLock v) ((a = 0x00E ∧ s.lock.locked ≠ v.locked) ∨ (a = 0x00F ∧ s.lock.key.isSome ≠ v.key.isSome)
          ∨ (a = 0x010 ∧ s.lock.failures ≠ v.failures) ∨ (a = 0x012 ∧ s.lock.lockout ≠ v.lockout)))
        ∧ ∀ v, marks (s.setAtt v) (∃ n x y, s.att.notices[n]? = some x ∧ v.notices[n]? = some y
          ∧ ((a = 0x100 + 16 * n ∧ x.pending ≠ y.pending) ∨ (a = 0x101 + 16 * n ∧ x.count ≠ y.count)
            ∨ (a = 0x104 + 16 * n ∧ x.detail ≠ y.detail) ∨ (a = 0x108 + 16 * n ∧ x.stamp ≠ y.stamp))))
end

