-- ==== Sys2Proof/Laws/State.lean ====
section
/-! SUPPORT. One lemma per field per update of the state record, each true by rfl, so that no later proof unfolds a
record update. -/

namespace Sys2Proof.Machine

@[simp] theorem State.setRam_ram (s : State) (v) : (s.setRam v).ram = v := rfl
@[simp] theorem State.setRam_runctl (s : State) (v) : (s.setRam v).runctl = s.runctl := rfl
@[simp] theorem State.setRam_cues (s : State) (v) : (s.setRam v).cues = s.cues := rfl
@[simp] theorem State.setRam_slots (s : State) (v) : (s.setRam v).slots = s.slots := rfl
@[simp] theorem State.setRam_loader (s : State) (v) : (s.setRam v).loader = s.loader := rfl
@[simp] theorem State.setRam_coef (s : State) (v) : (s.setRam v).coef = s.coef := rfl
@[simp] theorem State.setRam_engines (s : State) (v) : (s.setRam v).engines = s.engines := rfl
@[simp] theorem State.setRam_net (s : State) (v) : (s.setRam v).net = s.net := rfl
@[simp] theorem State.setRam_trans (s : State) (v) : (s.setRam v).trans = s.trans := rfl
@[simp] theorem State.setRam_tails (s : State) (v) : (s.setRam v).tails = s.tails := rfl
@[simp] theorem State.setRam_mics (s : State) (v) : (s.setRam v).mics = s.mics := rfl
@[simp] theorem State.setRam_guard (s : State) (v) : (s.setRam v).guard = s.guard := rfl
@[simp] theorem State.setRam_lanes (s : State) (v) : (s.setRam v).lanes = s.lanes := rfl
@[simp] theorem State.setRam_outputs (s : State) (v) : (s.setRam v).outputs = s.outputs := rfl
@[simp] theorem State.setRam_clock (s : State) (v) : (s.setRam v).clock = s.clock := rfl
@[simp] theorem State.setRam_mode (s : State) (v) : (s.setRam v).mode = s.mode := rfl
@[simp] theorem State.setRam_lock (s : State) (v) : (s.setRam v).lock = s.lock := rfl
@[simp] theorem State.setRam_att (s : State) (v) : (s.setRam v).att = s.att := rfl
@[simp] theorem State.setRam_meters (s : State) (v) : (s.setRam v).meters = s.meters := rfl
@[simp] theorem State.setRam_frame (s : State) (v) : (s.setRam v).frame = s.frame := rfl
@[simp] theorem State.setRam_framePos (s : State) (v) : (s.setRam v).framePos = s.framePos := rfl
@[simp] theorem State.setRam_resetHeld (s : State) (v) : (s.setRam v).resetHeld = s.resetHeld := rfl
@[simp] theorem State.setRam_todo (s : State) (v) : (s.setRam v).todo = s.todo := rfl
@[simp] theorem State.setRam_shown (s : State) (v) : (s.setRam v).shown = s.shown := rfl
@[simp] theorem State.setRam_changed (s : State) (v) : (s.setRam v).changed = s.changed := rfl
@[simp] theorem State.setRam_pending (s : State) (v) : (s.setRam v).pending = s.pending := rfl
@[simp] theorem State.setRunctl_ram (s : State) (v) : (s.setRunctl v).ram = s.ram := rfl
@[simp] theorem State.setRunctl_runctl (s : State) (v) : (s.setRunctl v).runctl = v := rfl
@[simp] theorem State.setRunctl_cues (s : State) (v) : (s.setRunctl v).cues = s.cues := rfl
@[simp] theorem State.setRunctl_slots (s : State) (v) : (s.setRunctl v).slots = s.slots := rfl
@[simp] theorem State.setRunctl_loader (s : State) (v) : (s.setRunctl v).loader = s.loader := rfl
@[simp] theorem State.setRunctl_coef (s : State) (v) : (s.setRunctl v).coef = s.coef := rfl
@[simp] theorem State.setRunctl_engines (s : State) (v) : (s.setRunctl v).engines = s.engines := rfl
@[simp] theorem State.setRunctl_net (s : State) (v) : (s.setRunctl v).net = s.net := rfl
@[simp] theorem State.setRunctl_trans (s : State) (v) : (s.setRunctl v).trans = s.trans := rfl
@[simp] theorem State.setRunctl_tails (s : State) (v) : (s.setRunctl v).tails = s.tails := rfl
@[simp] theorem State.setRunctl_mics (s : State) (v) : (s.setRunctl v).mics = s.mics := rfl
@[simp] theorem State.setRunctl_guard (s : State) (v) : (s.setRunctl v).guard = s.guard := rfl
@[simp] theorem State.setRunctl_lanes (s : State) (v) : (s.setRunctl v).lanes = s.lanes := rfl
@[simp] theorem State.setRunctl_outputs (s : State) (v) : (s.setRunctl v).outputs = s.outputs := rfl
@[simp] theorem State.setRunctl_clock (s : State) (v) : (s.setRunctl v).clock = s.clock := rfl
@[simp] theorem State.setRunctl_mode (s : State) (v) : (s.setRunctl v).mode = s.mode := rfl
@[simp] theorem State.setRunctl_lock (s : State) (v) : (s.setRunctl v).lock = s.lock := rfl
@[simp] theorem State.setRunctl_att (s : State) (v) : (s.setRunctl v).att = s.att := rfl
@[simp] theorem State.setRunctl_meters (s : State) (v) : (s.setRunctl v).meters = s.meters := rfl
@[simp] theorem State.setRunctl_frame (s : State) (v) : (s.setRunctl v).frame = s.frame := rfl
@[simp] theorem State.setRunctl_framePos (s : State) (v) : (s.setRunctl v).framePos = s.framePos := rfl
@[simp] theorem State.setRunctl_resetHeld (s : State) (v) : (s.setRunctl v).resetHeld = s.resetHeld := rfl
@[simp] theorem State.setRunctl_todo (s : State) (v) : (s.setRunctl v).todo = s.todo := rfl
@[simp] theorem State.setRunctl_shown (s : State) (v) : (s.setRunctl v).shown = s.shown := rfl
@[simp] theorem State.setRunctl_changed (s : State) (v) : (s.setRunctl v).changed = s.changed := rfl
@[simp] theorem State.setRunctl_pending (s : State) (v) : (s.setRunctl v).pending = s.pending := rfl
@[simp] theorem State.setCues_ram (s : State) (v) : (s.setCues v).ram = s.ram := rfl
@[simp] theorem State.setCues_runctl (s : State) (v) : (s.setCues v).runctl = s.runctl := rfl
@[simp] theorem State.setCues_cues (s : State) (v) : (s.setCues v).cues = v := rfl
@[simp] theorem State.setCues_slots (s : State) (v) : (s.setCues v).slots = s.slots := rfl
@[simp] theorem State.setCues_loader (s : State) (v) : (s.setCues v).loader = s.loader := rfl
@[simp] theorem State.setCues_coef (s : State) (v) : (s.setCues v).coef = s.coef := rfl
@[simp] theorem State.setCues_engines (s : State) (v) : (s.setCues v).engines = s.engines := rfl
@[simp] theorem State.setCues_net (s : State) (v) : (s.setCues v).net = s.net := rfl
@[simp] theorem State.setCues_trans (s : State) (v) : (s.setCues v).trans = s.trans := rfl
@[simp] theorem State.setCues_tails (s : State) (v) : (s.setCues v).tails = s.tails := rfl
@[simp] theorem State.setCues_mics (s : State) (v) : (s.setCues v).mics = s.mics := rfl
@[simp] theorem State.setCues_guard (s : State) (v) : (s.setCues v).guard = s.guard := rfl
@[simp] theorem State.setCues_lanes (s : State) (v) : (s.setCues v).lanes = s.lanes := rfl
@[simp] theorem State.setCues_outputs (s : State) (v) : (s.setCues v).outputs = s.outputs := rfl
@[simp] theorem State.setCues_clock (s : State) (v) : (s.setCues v).clock = s.clock := rfl
@[simp] theorem State.setCues_mode (s : State) (v) : (s.setCues v).mode = s.mode := rfl
@[simp] theorem State.setCues_lock (s : State) (v) : (s.setCues v).lock = s.lock := rfl
@[simp] theorem State.setCues_att (s : State) (v) : (s.setCues v).att = s.att := rfl
@[simp] theorem State.setCues_meters (s : State) (v) : (s.setCues v).meters = s.meters := rfl
@[simp] theorem State.setCues_frame (s : State) (v) : (s.setCues v).frame = s.frame := rfl
@[simp] theorem State.setCues_framePos (s : State) (v) : (s.setCues v).framePos = s.framePos := rfl
@[simp] theorem State.setCues_resetHeld (s : State) (v) : (s.setCues v).resetHeld = s.resetHeld := rfl
@[simp] theorem State.setCues_todo (s : State) (v) : (s.setCues v).todo = s.todo := rfl
@[simp] theorem State.setCues_shown (s : State) (v) : (s.setCues v).shown = s.shown := rfl
@[simp] theorem State.setCues_changed (s : State) (v) : (s.setCues v).changed = s.changed := rfl
@[simp] theorem State.setCues_pending (s : State) (v) : (s.setCues v).pending = s.pending := rfl
@[simp] theorem State.setSlots_ram (s : State) (v) : (s.setSlots v).ram = s.ram := rfl
@[simp] theorem State.setSlots_runctl (s : State) (v) : (s.setSlots v).runctl = s.runctl := rfl
@[simp] theorem State.setSlots_cues (s : State) (v) : (s.setSlots v).cues = s.cues := rfl
@[simp] theorem State.setSlots_slots (s : State) (v) : (s.setSlots v).slots = v := rfl
@[simp] theorem State.setSlots_loader (s : State) (v) : (s.setSlots v).loader = s.loader := rfl
@[simp] theorem State.setSlots_coef (s : State) (v) : (s.setSlots v).coef = s.coef := rfl
@[simp] theorem State.setSlots_engines (s : State) (v) : (s.setSlots v).engines = s.engines := rfl
@[simp] theorem State.setSlots_net (s : State) (v) : (s.setSlots v).net = s.net := rfl
@[simp] theorem State.setSlots_trans (s : State) (v) : (s.setSlots v).trans = s.trans := rfl
@[simp] theorem State.setSlots_tails (s : State) (v) : (s.setSlots v).tails = s.tails := rfl
@[simp] theorem State.setSlots_mics (s : State) (v) : (s.setSlots v).mics = s.mics := rfl
@[simp] theorem State.setSlots_guard (s : State) (v) : (s.setSlots v).guard = s.guard := rfl
@[simp] theorem State.setSlots_lanes (s : State) (v) : (s.setSlots v).lanes = s.lanes := rfl
@[simp] theorem State.setSlots_outputs (s : State) (v) : (s.setSlots v).outputs = s.outputs := rfl
@[simp] theorem State.setSlots_clock (s : State) (v) : (s.setSlots v).clock = s.clock := rfl
@[simp] theorem State.setSlots_mode (s : State) (v) : (s.setSlots v).mode = s.mode := rfl
@[simp] theorem State.setSlots_lock (s : State) (v) : (s.setSlots v).lock = s.lock := rfl
@[simp] theorem State.setSlots_att (s : State) (v) : (s.setSlots v).att = s.att := rfl
@[simp] theorem State.setSlots_meters (s : State) (v) : (s.setSlots v).meters = s.meters := rfl
@[simp] theorem State.setSlots_frame (s : State) (v) : (s.setSlots v).frame = s.frame := rfl
@[simp] theorem State.setSlots_framePos (s : State) (v) : (s.setSlots v).framePos = s.framePos := rfl
@[simp] theorem State.setSlots_resetHeld (s : State) (v) : (s.setSlots v).resetHeld = s.resetHeld := rfl
@[simp] theorem State.setSlots_todo (s : State) (v) : (s.setSlots v).todo = s.todo := rfl
@[simp] theorem State.setSlots_shown (s : State) (v) : (s.setSlots v).shown = s.shown := rfl
@[simp] theorem State.setSlots_changed (s : State) (v) : (s.setSlots v).changed =
    s.changed ||| changedFrom 8 0x02000 (s.slots.map Slot.mirrored) (v.map Slot.mirrored) := rfl
@[simp] theorem State.setSlots_pending (s : State) (v) : (s.setSlots v).pending = s.pending := rfl
@[simp] theorem State.setLoader_ram (s : State) (v) : (s.setLoader v).ram = s.ram := rfl
@[simp] theorem State.setLoader_runctl (s : State) (v) : (s.setLoader v).runctl = s.runctl := rfl
@[simp] theorem State.setLoader_cues (s : State) (v) : (s.setLoader v).cues = s.cues := rfl
@[simp] theorem State.setLoader_slots (s : State) (v) : (s.setLoader v).slots = s.slots := rfl
@[simp] theorem State.setLoader_loader (s : State) (v) : (s.setLoader v).loader = v := rfl
@[simp] theorem State.setLoader_coef (s : State) (v) : (s.setLoader v).coef = s.coef := rfl
@[simp] theorem State.setLoader_engines (s : State) (v) : (s.setLoader v).engines = s.engines := rfl
@[simp] theorem State.setLoader_net (s : State) (v) : (s.setLoader v).net = s.net := rfl
@[simp] theorem State.setLoader_trans (s : State) (v) : (s.setLoader v).trans = s.trans := rfl
@[simp] theorem State.setLoader_tails (s : State) (v) : (s.setLoader v).tails = s.tails := rfl
@[simp] theorem State.setLoader_mics (s : State) (v) : (s.setLoader v).mics = s.mics := rfl
@[simp] theorem State.setLoader_guard (s : State) (v) : (s.setLoader v).guard = s.guard := rfl
@[simp] theorem State.setLoader_lanes (s : State) (v) : (s.setLoader v).lanes = s.lanes := rfl
@[simp] theorem State.setLoader_outputs (s : State) (v) : (s.setLoader v).outputs = s.outputs := rfl
@[simp] theorem State.setLoader_clock (s : State) (v) : (s.setLoader v).clock = s.clock := rfl
@[simp] theorem State.setLoader_mode (s : State) (v) : (s.setLoader v).mode = s.mode := rfl
@[simp] theorem State.setLoader_lock (s : State) (v) : (s.setLoader v).lock = s.lock := rfl
@[simp] theorem State.setLoader_att (s : State) (v) : (s.setLoader v).att = s.att := rfl
@[simp] theorem State.setLoader_meters (s : State) (v) : (s.setLoader v).meters = s.meters := rfl
@[simp] theorem State.setLoader_frame (s : State) (v) : (s.setLoader v).frame = s.frame := rfl
@[simp] theorem State.setLoader_framePos (s : State) (v) : (s.setLoader v).framePos = s.framePos := rfl
@[simp] theorem State.setLoader_resetHeld (s : State) (v) : (s.setLoader v).resetHeld = s.resetHeld := rfl
@[simp] theorem State.setLoader_todo (s : State) (v) : (s.setLoader v).todo = s.todo := rfl
@[simp] theorem State.setLoader_shown (s : State) (v) : (s.setLoader v).shown = s.shown := rfl
@[simp] theorem State.setLoader_changed (s : State) (v) : (s.setLoader v).changed = s.changed := rfl
@[simp] theorem State.setLoader_pending (s : State) (v) : (s.setLoader v).pending = s.pending := rfl
@[simp] theorem State.setCoef_ram (s : State) (v) : (s.setCoef v).ram = s.ram := rfl
@[simp] theorem State.setCoef_runctl (s : State) (v) : (s.setCoef v).runctl = s.runctl := rfl
@[simp] theorem State.setCoef_cues (s : State) (v) : (s.setCoef v).cues = s.cues := rfl
@[simp] theorem State.setCoef_slots (s : State) (v) : (s.setCoef v).slots = s.slots := rfl
@[simp] theorem State.setCoef_loader (s : State) (v) : (s.setCoef v).loader = s.loader := rfl
@[simp] theorem State.setCoef_coef (s : State) (v) : (s.setCoef v).coef = v := rfl
@[simp] theorem State.setCoef_engines (s : State) (v) : (s.setCoef v).engines = s.engines := rfl
@[simp] theorem State.setCoef_net (s : State) (v) : (s.setCoef v).net = s.net := rfl
@[simp] theorem State.setCoef_trans (s : State) (v) : (s.setCoef v).trans = s.trans := rfl
@[simp] theorem State.setCoef_tails (s : State) (v) : (s.setCoef v).tails = s.tails := rfl
@[simp] theorem State.setCoef_mics (s : State) (v) : (s.setCoef v).mics = s.mics := rfl
@[simp] theorem State.setCoef_guard (s : State) (v) : (s.setCoef v).guard = s.guard := rfl
@[simp] theorem State.setCoef_lanes (s : State) (v) : (s.setCoef v).lanes = s.lanes := rfl
@[simp] theorem State.setCoef_outputs (s : State) (v) : (s.setCoef v).outputs = s.outputs := rfl
@[simp] theorem State.setCoef_clock (s : State) (v) : (s.setCoef v).clock = s.clock := rfl
@[simp] theorem State.setCoef_mode (s : State) (v) : (s.setCoef v).mode = s.mode := rfl
@[simp] theorem State.setCoef_lock (s : State) (v) : (s.setCoef v).lock = s.lock := rfl
@[simp] theorem State.setCoef_att (s : State) (v) : (s.setCoef v).att = s.att := rfl
@[simp] theorem State.setCoef_meters (s : State) (v) : (s.setCoef v).meters = s.meters := rfl
@[simp] theorem State.setCoef_frame (s : State) (v) : (s.setCoef v).frame = s.frame := rfl
@[simp] theorem State.setCoef_framePos (s : State) (v) : (s.setCoef v).framePos = s.framePos := rfl
@[simp] theorem State.setCoef_resetHeld (s : State) (v) : (s.setCoef v).resetHeld = s.resetHeld := rfl
@[simp] theorem State.setCoef_todo (s : State) (v) : (s.setCoef v).todo = s.todo := rfl
@[simp] theorem State.setCoef_shown (s : State) (v) : (s.setCoef v).shown = s.shown := rfl
@[simp] theorem State.setCoef_changed (s : State) (v) : (s.setCoef v).changed =
    s.changed ||| changedFrom 0 0x02320 [(s.coef.tau, s.coef.epsilon)] [(v.tau, v.epsilon)] := rfl
@[simp] theorem State.setCoef_pending (s : State) (v) : (s.setCoef v).pending = s.pending := rfl
@[simp] theorem State.setEngines_ram (s : State) (v) : (s.setEngines v).ram = s.ram := rfl
@[simp] theorem State.setEngines_runctl (s : State) (v) : (s.setEngines v).runctl = s.runctl := rfl
@[simp] theorem State.setEngines_cues (s : State) (v) : (s.setEngines v).cues = s.cues := rfl
@[simp] theorem State.setEngines_slots (s : State) (v) : (s.setEngines v).slots = s.slots := rfl
@[simp] theorem State.setEngines_loader (s : State) (v) : (s.setEngines v).loader = s.loader := rfl
@[simp] theorem State.setEngines_coef (s : State) (v) : (s.setEngines v).coef = s.coef := rfl
@[simp] theorem State.setEngines_engines (s : State) (v) : (s.setEngines v).engines = v := rfl
@[simp] theorem State.setEngines_net (s : State) (v) : (s.setEngines v).net = s.net := rfl
@[simp] theorem State.setEngines_trans (s : State) (v) : (s.setEngines v).trans = s.trans := rfl
@[simp] theorem State.setEngines_tails (s : State) (v) : (s.setEngines v).tails = s.tails := rfl
@[simp] theorem State.setEngines_mics (s : State) (v) : (s.setEngines v).mics = s.mics := rfl
@[simp] theorem State.setEngines_guard (s : State) (v) : (s.setEngines v).guard = s.guard := rfl
@[simp] theorem State.setEngines_lanes (s : State) (v) : (s.setEngines v).lanes = s.lanes := rfl
@[simp] theorem State.setEngines_outputs (s : State) (v) : (s.setEngines v).outputs = s.outputs := rfl
@[simp] theorem State.setEngines_clock (s : State) (v) : (s.setEngines v).clock = s.clock := rfl
@[simp] theorem State.setEngines_mode (s : State) (v) : (s.setEngines v).mode = s.mode := rfl
@[simp] theorem State.setEngines_lock (s : State) (v) : (s.setEngines v).lock = s.lock := rfl
@[simp] theorem State.setEngines_att (s : State) (v) : (s.setEngines v).att = s.att := rfl
@[simp] theorem State.setEngines_meters (s : State) (v) : (s.setEngines v).meters = s.meters := rfl
@[simp] theorem State.setEngines_frame (s : State) (v) : (s.setEngines v).frame = s.frame := rfl
@[simp] theorem State.setEngines_framePos (s : State) (v) : (s.setEngines v).framePos = s.framePos := rfl
@[simp] theorem State.setEngines_resetHeld (s : State) (v) : (s.setEngines v).resetHeld = s.resetHeld := rfl
@[simp] theorem State.setEngines_todo (s : State) (v) : (s.setEngines v).todo = s.todo := rfl
@[simp] theorem State.setEngines_shown (s : State) (v) : (s.setEngines v).shown = s.shown := rfl
@[simp] theorem State.setEngines_changed (s : State) (v) : (s.setEngines v).changed =
    s.changed ||| changedFrom 2 0x02040 (s.engines.map Engine.mirrored) (v.map Engine.mirrored) := rfl
@[simp] theorem State.setEngines_pending (s : State) (v) : (s.setEngines v).pending = s.pending := rfl
@[simp] theorem State.setNet_ram (s : State) (v) : (s.setNet v).ram = s.ram := rfl
@[simp] theorem State.setNet_runctl (s : State) (v) : (s.setNet v).runctl = s.runctl := rfl
@[simp] theorem State.setNet_cues (s : State) (v) : (s.setNet v).cues = s.cues := rfl
@[simp] theorem State.setNet_slots (s : State) (v) : (s.setNet v).slots = s.slots := rfl
@[simp] theorem State.setNet_loader (s : State) (v) : (s.setNet v).loader = s.loader := rfl
@[simp] theorem State.setNet_coef (s : State) (v) : (s.setNet v).coef = s.coef := rfl
@[simp] theorem State.setNet_engines (s : State) (v) : (s.setNet v).engines = s.engines := rfl
@[simp] theorem State.setNet_net (s : State) (v) : (s.setNet v).net = v := rfl
@[simp] theorem State.setNet_trans (s : State) (v) : (s.setNet v).trans = s.trans := rfl
@[simp] theorem State.setNet_tails (s : State) (v) : (s.setNet v).tails = s.tails := rfl
@[simp] theorem State.setNet_mics (s : State) (v) : (s.setNet v).mics = s.mics := rfl
@[simp] theorem State.setNet_guard (s : State) (v) : (s.setNet v).guard = s.guard := rfl
@[simp] theorem State.setNet_lanes (s : State) (v) : (s.setNet v).lanes = s.lanes := rfl
@[simp] theorem State.setNet_outputs (s : State) (v) : (s.setNet v).outputs = s.outputs := rfl
@[simp] theorem State.setNet_clock (s : State) (v) : (s.setNet v).clock = s.clock := rfl
@[simp] theorem State.setNet_mode (s : State) (v) : (s.setNet v).mode = s.mode := rfl
@[simp] theorem State.setNet_lock (s : State) (v) : (s.setNet v).lock = s.lock := rfl
@[simp] theorem State.setNet_att (s : State) (v) : (s.setNet v).att = s.att := rfl
@[simp] theorem State.setNet_meters (s : State) (v) : (s.setNet v).meters = s.meters := rfl
@[simp] theorem State.setNet_frame (s : State) (v) : (s.setNet v).frame = s.frame := rfl
@[simp] theorem State.setNet_framePos (s : State) (v) : (s.setNet v).framePos = s.framePos := rfl
@[simp] theorem State.setNet_resetHeld (s : State) (v) : (s.setNet v).resetHeld = s.resetHeld := rfl
@[simp] theorem State.setNet_todo (s : State) (v) : (s.setNet v).todo = s.todo := rfl
@[simp] theorem State.setNet_shown (s : State) (v) : (s.setNet v).shown = s.shown := rfl
@[simp] theorem State.setNet_changed (s : State) (v) : (s.setNet v).changed = s.changed := rfl
@[simp] theorem State.setNet_pending (s : State) (v) : (s.setNet v).pending = s.pending := rfl
@[simp] theorem State.setTrans_ram (s : State) (v) : (s.setTrans v).ram = s.ram := rfl
@[simp] theorem State.setTrans_runctl (s : State) (v) : (s.setTrans v).runctl = s.runctl := rfl
@[simp] theorem State.setTrans_cues (s : State) (v) : (s.setTrans v).cues = s.cues := rfl
@[simp] theorem State.setTrans_slots (s : State) (v) : (s.setTrans v).slots = s.slots := rfl
@[simp] theorem State.setTrans_loader (s : State) (v) : (s.setTrans v).loader = s.loader := rfl
@[simp] theorem State.setTrans_coef (s : State) (v) : (s.setTrans v).coef = s.coef := rfl
@[simp] theorem State.setTrans_engines (s : State) (v) : (s.setTrans v).engines = s.engines := rfl
@[simp] theorem State.setTrans_net (s : State) (v) : (s.setTrans v).net = s.net := rfl
@[simp] theorem State.setTrans_trans (s : State) (v) : (s.setTrans v).trans = v := rfl
@[simp] theorem State.setTrans_tails (s : State) (v) : (s.setTrans v).tails = s.tails := rfl
@[simp] theorem State.setTrans_mics (s : State) (v) : (s.setTrans v).mics = s.mics := rfl
@[simp] theorem State.setTrans_guard (s : State) (v) : (s.setTrans v).guard = s.guard := rfl
@[simp] theorem State.setTrans_lanes (s : State) (v) : (s.setTrans v).lanes = s.lanes := rfl
@[simp] theorem State.setTrans_outputs (s : State) (v) : (s.setTrans v).outputs = s.outputs := rfl
@[simp] theorem State.setTrans_clock (s : State) (v) : (s.setTrans v).clock = s.clock := rfl
@[simp] theorem State.setTrans_mode (s : State) (v) : (s.setTrans v).mode = s.mode := rfl
@[simp] theorem State.setTrans_lock (s : State) (v) : (s.setTrans v).lock = s.lock := rfl
@[simp] theorem State.setTrans_att (s : State) (v) : (s.setTrans v).att = s.att := rfl
@[simp] theorem State.setTrans_meters (s : State) (v) : (s.setTrans v).meters = s.meters := rfl
@[simp] theorem State.setTrans_frame (s : State) (v) : (s.setTrans v).frame = s.frame := rfl
@[simp] theorem State.setTrans_framePos (s : State) (v) : (s.setTrans v).framePos = s.framePos := rfl
@[simp] theorem State.setTrans_resetHeld (s : State) (v) : (s.setTrans v).resetHeld = s.resetHeld := rfl
@[simp] theorem State.setTrans_todo (s : State) (v) : (s.setTrans v).todo = s.todo := rfl
@[simp] theorem State.setTrans_shown (s : State) (v) : (s.setTrans v).shown = s.shown := rfl
@[simp] theorem State.setTrans_changed (s : State) (v) : (s.setTrans v).changed =
    s.changed ||| changedFrom 0 0x02080 [s.trans.map Transition.mirrored] [v.map Transition.mirrored] := rfl
@[simp] theorem State.setTrans_pending (s : State) (v) : (s.setTrans v).pending = s.pending := rfl
@[simp] theorem State.setTails_ram (s : State) (v) : (s.setTails v).ram = s.ram := rfl
@[simp] theorem State.setTails_runctl (s : State) (v) : (s.setTails v).runctl = s.runctl := rfl
@[simp] theorem State.setTails_cues (s : State) (v) : (s.setTails v).cues = s.cues := rfl
@[simp] theorem State.setTails_slots (s : State) (v) : (s.setTails v).slots = s.slots := rfl
@[simp] theorem State.setTails_loader (s : State) (v) : (s.setTails v).loader = s.loader := rfl
@[simp] theorem State.setTails_coef (s : State) (v) : (s.setTails v).coef = s.coef := rfl
@[simp] theorem State.setTails_engines (s : State) (v) : (s.setTails v).engines = s.engines := rfl
@[simp] theorem State.setTails_net (s : State) (v) : (s.setTails v).net = s.net := rfl
@[simp] theorem State.setTails_trans (s : State) (v) : (s.setTails v).trans = s.trans := rfl
@[simp] theorem State.setTails_tails (s : State) (v) : (s.setTails v).tails = v := rfl
@[simp] theorem State.setTails_mics (s : State) (v) : (s.setTails v).mics = s.mics := rfl
@[simp] theorem State.setTails_guard (s : State) (v) : (s.setTails v).guard = s.guard := rfl
@[simp] theorem State.setTails_lanes (s : State) (v) : (s.setTails v).lanes = s.lanes := rfl
@[simp] theorem State.setTails_outputs (s : State) (v) : (s.setTails v).outputs = s.outputs := rfl
@[simp] theorem State.setTails_clock (s : State) (v) : (s.setTails v).clock = s.clock := rfl
@[simp] theorem State.setTails_mode (s : State) (v) : (s.setTails v).mode = s.mode := rfl
@[simp] theorem State.setTails_lock (s : State) (v) : (s.setTails v).lock = s.lock := rfl
@[simp] theorem State.setTails_att (s : State) (v) : (s.setTails v).att = s.att := rfl
@[simp] theorem State.setTails_meters (s : State) (v) : (s.setTails v).meters = s.meters := rfl
@[simp] theorem State.setTails_frame (s : State) (v) : (s.setTails v).frame = s.frame := rfl
@[simp] theorem State.setTails_framePos (s : State) (v) : (s.setTails v).framePos = s.framePos := rfl
@[simp] theorem State.setTails_resetHeld (s : State) (v) : (s.setTails v).resetHeld = s.resetHeld := rfl
@[simp] theorem State.setTails_todo (s : State) (v) : (s.setTails v).todo = s.todo := rfl
@[simp] theorem State.setTails_shown (s : State) (v) : (s.setTails v).shown = s.shown := rfl
@[simp] theorem State.setTails_changed (s : State) (v) : (s.setTails v).changed = s.changed := rfl
@[simp] theorem State.setTails_pending (s : State) (v) : (s.setTails v).pending = s.pending := rfl
@[simp] theorem State.setMics_ram (s : State) (v) : (s.setMics v).ram = s.ram := rfl
@[simp] theorem State.setMics_runctl (s : State) (v) : (s.setMics v).runctl = s.runctl := rfl
@[simp] theorem State.setMics_cues (s : State) (v) : (s.setMics v).cues = s.cues := rfl
@[simp] theorem State.setMics_slots (s : State) (v) : (s.setMics v).slots = s.slots := rfl
@[simp] theorem State.setMics_loader (s : State) (v) : (s.setMics v).loader = s.loader := rfl
@[simp] theorem State.setMics_coef (s : State) (v) : (s.setMics v).coef = s.coef := rfl
@[simp] theorem State.setMics_engines (s : State) (v) : (s.setMics v).engines = s.engines := rfl
@[simp] theorem State.setMics_net (s : State) (v) : (s.setMics v).net = s.net := rfl
@[simp] theorem State.setMics_trans (s : State) (v) : (s.setMics v).trans = s.trans := rfl
@[simp] theorem State.setMics_tails (s : State) (v) : (s.setMics v).tails = s.tails := rfl
@[simp] theorem State.setMics_mics (s : State) (v) : (s.setMics v).mics = v := rfl
@[simp] theorem State.setMics_guard (s : State) (v) : (s.setMics v).guard = s.guard := rfl
@[simp] theorem State.setMics_lanes (s : State) (v) : (s.setMics v).lanes = s.lanes := rfl
@[simp] theorem State.setMics_outputs (s : State) (v) : (s.setMics v).outputs = s.outputs := rfl
@[simp] theorem State.setMics_clock (s : State) (v) : (s.setMics v).clock = s.clock := rfl
@[simp] theorem State.setMics_mode (s : State) (v) : (s.setMics v).mode = s.mode := rfl
@[simp] theorem State.setMics_lock (s : State) (v) : (s.setMics v).lock = s.lock := rfl
@[simp] theorem State.setMics_att (s : State) (v) : (s.setMics v).att = s.att := rfl
@[simp] theorem State.setMics_meters (s : State) (v) : (s.setMics v).meters = s.meters := rfl
@[simp] theorem State.setMics_frame (s : State) (v) : (s.setMics v).frame = s.frame := rfl
@[simp] theorem State.setMics_framePos (s : State) (v) : (s.setMics v).framePos = s.framePos := rfl
@[simp] theorem State.setMics_resetHeld (s : State) (v) : (s.setMics v).resetHeld = s.resetHeld := rfl
@[simp] theorem State.setMics_todo (s : State) (v) : (s.setMics v).todo = s.todo := rfl
@[simp] theorem State.setMics_shown (s : State) (v) : (s.setMics v).shown = s.shown := rfl
@[simp] theorem State.setMics_changed (s : State) (v) : (s.setMics v).changed =
    s.changed ||| changedFrom 8 0x021A0 (s.mics.map Mic.mirrored) (v.map Mic.mirrored) := rfl
@[simp] theorem State.setMics_pending (s : State) (v) : (s.setMics v).pending = s.pending := rfl
@[simp] theorem State.setGuard_ram (s : State) (v) : (s.setGuard v).ram = s.ram := rfl
@[simp] theorem State.setGuard_runctl (s : State) (v) : (s.setGuard v).runctl = s.runctl := rfl
@[simp] theorem State.setGuard_cues (s : State) (v) : (s.setGuard v).cues = s.cues := rfl
@[simp] theorem State.setGuard_slots (s : State) (v) : (s.setGuard v).slots = s.slots := rfl
@[simp] theorem State.setGuard_loader (s : State) (v) : (s.setGuard v).loader = s.loader := rfl
@[simp] theorem State.setGuard_coef (s : State) (v) : (s.setGuard v).coef = s.coef := rfl
@[simp] theorem State.setGuard_engines (s : State) (v) : (s.setGuard v).engines = s.engines := rfl
@[simp] theorem State.setGuard_net (s : State) (v) : (s.setGuard v).net = s.net := rfl
@[simp] theorem State.setGuard_trans (s : State) (v) : (s.setGuard v).trans = s.trans := rfl
@[simp] theorem State.setGuard_tails (s : State) (v) : (s.setGuard v).tails = s.tails := rfl
@[simp] theorem State.setGuard_mics (s : State) (v) : (s.setGuard v).mics = s.mics := rfl
@[simp] theorem State.setGuard_guard (s : State) (v) : (s.setGuard v).guard = v := rfl
@[simp] theorem State.setGuard_lanes (s : State) (v) : (s.setGuard v).lanes = s.lanes := rfl
@[simp] theorem State.setGuard_outputs (s : State) (v) : (s.setGuard v).outputs = s.outputs := rfl
@[simp] theorem State.setGuard_clock (s : State) (v) : (s.setGuard v).clock = s.clock := rfl
@[simp] theorem State.setGuard_mode (s : State) (v) : (s.setGuard v).mode = s.mode := rfl
@[simp] theorem State.setGuard_lock (s : State) (v) : (s.setGuard v).lock = s.lock := rfl
@[simp] theorem State.setGuard_att (s : State) (v) : (s.setGuard v).att = s.att := rfl
@[simp] theorem State.setGuard_meters (s : State) (v) : (s.setGuard v).meters = s.meters := rfl
@[simp] theorem State.setGuard_frame (s : State) (v) : (s.setGuard v).frame = s.frame := rfl
@[simp] theorem State.setGuard_framePos (s : State) (v) : (s.setGuard v).framePos = s.framePos := rfl
@[simp] theorem State.setGuard_resetHeld (s : State) (v) : (s.setGuard v).resetHeld = s.resetHeld := rfl
@[simp] theorem State.setGuard_todo (s : State) (v) : (s.setGuard v).todo = s.todo := rfl
@[simp] theorem State.setGuard_shown (s : State) (v) : (s.setGuard v).shown = s.shown := rfl
@[simp] theorem State.setGuard_changed (s : State) (v) : (s.setGuard v).changed = s.changed ||| s.guard.changes v := rfl
@[simp] theorem State.setGuard_pending (s : State) (v) : (s.setGuard v).pending = s.pending := rfl
@[simp] theorem State.setLanes_ram (s : State) (v) : (s.setLanes v).ram = s.ram := rfl
@[simp] theorem State.setLanes_runctl (s : State) (v) : (s.setLanes v).runctl = s.runctl := rfl
@[simp] theorem State.setLanes_cues (s : State) (v) : (s.setLanes v).cues = s.cues := rfl
@[simp] theorem State.setLanes_slots (s : State) (v) : (s.setLanes v).slots = s.slots := rfl
@[simp] theorem State.setLanes_loader (s : State) (v) : (s.setLanes v).loader = s.loader := rfl
@[simp] theorem State.setLanes_coef (s : State) (v) : (s.setLanes v).coef = s.coef := rfl
@[simp] theorem State.setLanes_engines (s : State) (v) : (s.setLanes v).engines = s.engines := rfl
@[simp] theorem State.setLanes_net (s : State) (v) : (s.setLanes v).net = s.net := rfl
@[simp] theorem State.setLanes_trans (s : State) (v) : (s.setLanes v).trans = s.trans := rfl
@[simp] theorem State.setLanes_tails (s : State) (v) : (s.setLanes v).tails = s.tails := rfl
@[simp] theorem State.setLanes_mics (s : State) (v) : (s.setLanes v).mics = s.mics := rfl
@[simp] theorem State.setLanes_guard (s : State) (v) : (s.setLanes v).guard = s.guard := rfl
@[simp] theorem State.setLanes_lanes (s : State) (v) : (s.setLanes v).lanes = v := rfl
@[simp] theorem State.setLanes_outputs (s : State) (v) : (s.setLanes v).outputs = s.outputs := rfl
@[simp] theorem State.setLanes_clock (s : State) (v) : (s.setLanes v).clock = s.clock := rfl
@[simp] theorem State.setLanes_mode (s : State) (v) : (s.setLanes v).mode = s.mode := rfl
@[simp] theorem State.setLanes_lock (s : State) (v) : (s.setLanes v).lock = s.lock := rfl
@[simp] theorem State.setLanes_att (s : State) (v) : (s.setLanes v).att = s.att := rfl
@[simp] theorem State.setLanes_meters (s : State) (v) : (s.setLanes v).meters = s.meters := rfl
@[simp] theorem State.setLanes_frame (s : State) (v) : (s.setLanes v).frame = s.frame := rfl
@[simp] theorem State.setLanes_framePos (s : State) (v) : (s.setLanes v).framePos = s.framePos := rfl
@[simp] theorem State.setLanes_resetHeld (s : State) (v) : (s.setLanes v).resetHeld = s.resetHeld := rfl
@[simp] theorem State.setLanes_todo (s : State) (v) : (s.setLanes v).todo = s.todo := rfl
@[simp] theorem State.setLanes_shown (s : State) (v) : (s.setLanes v).shown = s.shown := rfl
@[simp] theorem State.setLanes_changed (s : State) (v) : (s.setLanes v).changed = s.changed := rfl
@[simp] theorem State.setLanes_pending (s : State) (v) : (s.setLanes v).pending = s.pending := rfl
@[simp] theorem State.setOutputs_ram (s : State) (v) : (s.setOutputs v).ram = s.ram := rfl
@[simp] theorem State.setOutputs_runctl (s : State) (v) : (s.setOutputs v).runctl = s.runctl := rfl
@[simp] theorem State.setOutputs_cues (s : State) (v) : (s.setOutputs v).cues = s.cues := rfl
@[simp] theorem State.setOutputs_slots (s : State) (v) : (s.setOutputs v).slots = s.slots := rfl
@[simp] theorem State.setOutputs_loader (s : State) (v) : (s.setOutputs v).loader = s.loader := rfl
@[simp] theorem State.setOutputs_coef (s : State) (v) : (s.setOutputs v).coef = s.coef := rfl
@[simp] theorem State.setOutputs_engines (s : State) (v) : (s.setOutputs v).engines = s.engines := rfl
@[simp] theorem State.setOutputs_net (s : State) (v) : (s.setOutputs v).net = s.net := rfl
@[simp] theorem State.setOutputs_trans (s : State) (v) : (s.setOutputs v).trans = s.trans := rfl
@[simp] theorem State.setOutputs_tails (s : State) (v) : (s.setOutputs v).tails = s.tails := rfl
@[simp] theorem State.setOutputs_mics (s : State) (v) : (s.setOutputs v).mics = s.mics := rfl
@[simp] theorem State.setOutputs_guard (s : State) (v) : (s.setOutputs v).guard = s.guard := rfl
@[simp] theorem State.setOutputs_lanes (s : State) (v) : (s.setOutputs v).lanes = s.lanes := rfl
@[simp] theorem State.setOutputs_outputs (s : State) (v) : (s.setOutputs v).outputs = v := rfl
@[simp] theorem State.setOutputs_clock (s : State) (v) : (s.setOutputs v).clock = s.clock := rfl
@[simp] theorem State.setOutputs_mode (s : State) (v) : (s.setOutputs v).mode = s.mode := rfl
@[simp] theorem State.setOutputs_lock (s : State) (v) : (s.setOutputs v).lock = s.lock := rfl
@[simp] theorem State.setOutputs_att (s : State) (v) : (s.setOutputs v).att = s.att := rfl
@[simp] theorem State.setOutputs_meters (s : State) (v) : (s.setOutputs v).meters = s.meters := rfl
@[simp] theorem State.setOutputs_frame (s : State) (v) : (s.setOutputs v).frame = s.frame := rfl
@[simp] theorem State.setOutputs_framePos (s : State) (v) : (s.setOutputs v).framePos = s.framePos := rfl
@[simp] theorem State.setOutputs_resetHeld (s : State) (v) : (s.setOutputs v).resetHeld = s.resetHeld := rfl
@[simp] theorem State.setOutputs_todo (s : State) (v) : (s.setOutputs v).todo = s.todo := rfl
@[simp] theorem State.setOutputs_shown (s : State) (v) : (s.setOutputs v).shown = s.shown := rfl
@[simp] theorem State.setOutputs_changed (s : State) (v) : (s.setOutputs v).changed = s.changed := rfl
@[simp] theorem State.setOutputs_pending (s : State) (v) : (s.setOutputs v).pending = s.pending := rfl
@[simp] theorem State.setClock_ram (s : State) (v) : (s.setClock v).ram = s.ram := rfl
@[simp] theorem State.setClock_runctl (s : State) (v) : (s.setClock v).runctl = s.runctl := rfl
@[simp] theorem State.setClock_cues (s : State) (v) : (s.setClock v).cues = s.cues := rfl
@[simp] theorem State.setClock_slots (s : State) (v) : (s.setClock v).slots = s.slots := rfl
@[simp] theorem State.setClock_loader (s : State) (v) : (s.setClock v).loader = s.loader := rfl
@[simp] theorem State.setClock_coef (s : State) (v) : (s.setClock v).coef = s.coef := rfl
@[simp] theorem State.setClock_engines (s : State) (v) : (s.setClock v).engines = s.engines := rfl
@[simp] theorem State.setClock_net (s : State) (v) : (s.setClock v).net = s.net := rfl
@[simp] theorem State.setClock_trans (s : State) (v) : (s.setClock v).trans = s.trans := rfl
@[simp] theorem State.setClock_tails (s : State) (v) : (s.setClock v).tails = s.tails := rfl
@[simp] theorem State.setClock_mics (s : State) (v) : (s.setClock v).mics = s.mics := rfl
@[simp] theorem State.setClock_guard (s : State) (v) : (s.setClock v).guard = s.guard := rfl
@[simp] theorem State.setClock_lanes (s : State) (v) : (s.setClock v).lanes = s.lanes := rfl
@[simp] theorem State.setClock_outputs (s : State) (v) : (s.setClock v).outputs = s.outputs := rfl
@[simp] theorem State.setClock_clock (s : State) (v) : (s.setClock v).clock = v := rfl
@[simp] theorem State.setClock_mode (s : State) (v) : (s.setClock v).mode = s.mode := rfl
@[simp] theorem State.setClock_lock (s : State) (v) : (s.setClock v).lock = s.lock := rfl
@[simp] theorem State.setClock_att (s : State) (v) : (s.setClock v).att = s.att := rfl
@[simp] theorem State.setClock_meters (s : State) (v) : (s.setClock v).meters = s.meters := rfl
@[simp] theorem State.setClock_frame (s : State) (v) : (s.setClock v).frame = s.frame := rfl
@[simp] theorem State.setClock_framePos (s : State) (v) : (s.setClock v).framePos = s.framePos := rfl
@[simp] theorem State.setClock_resetHeld (s : State) (v) : (s.setClock v).resetHeld = s.resetHeld := rfl
@[simp] theorem State.setClock_todo (s : State) (v) : (s.setClock v).todo = s.todo := rfl
@[simp] theorem State.setClock_shown (s : State) (v) : (s.setClock v).shown = s.shown := rfl
@[simp] theorem State.setClock_changed (s : State) (v) : (s.setClock v).changed = s.changed := rfl
@[simp] theorem State.setClock_pending (s : State) (v) : (s.setClock v).pending = s.pending := rfl
@[simp] theorem State.setMode_ram (s : State) (v) : (s.setMode v).ram = s.ram := rfl
@[simp] theorem State.setMode_runctl (s : State) (v) : (s.setMode v).runctl = s.runctl := rfl
@[simp] theorem State.setMode_cues (s : State) (v) : (s.setMode v).cues = s.cues := rfl
@[simp] theorem State.setMode_slots (s : State) (v) : (s.setMode v).slots = s.slots := rfl
@[simp] theorem State.setMode_loader (s : State) (v) : (s.setMode v).loader = s.loader := rfl
@[simp] theorem State.setMode_coef (s : State) (v) : (s.setMode v).coef = s.coef := rfl
@[simp] theorem State.setMode_engines (s : State) (v) : (s.setMode v).engines = s.engines := rfl
@[simp] theorem State.setMode_net (s : State) (v) : (s.setMode v).net = s.net := rfl
@[simp] theorem State.setMode_trans (s : State) (v) : (s.setMode v).trans = s.trans := rfl
@[simp] theorem State.setMode_tails (s : State) (v) : (s.setMode v).tails = s.tails := rfl
@[simp] theorem State.setMode_mics (s : State) (v) : (s.setMode v).mics = s.mics := rfl
@[simp] theorem State.setMode_guard (s : State) (v) : (s.setMode v).guard = s.guard := rfl
@[simp] theorem State.setMode_lanes (s : State) (v) : (s.setMode v).lanes = s.lanes := rfl
@[simp] theorem State.setMode_outputs (s : State) (v) : (s.setMode v).outputs = s.outputs := rfl
@[simp] theorem State.setMode_clock (s : State) (v) : (s.setMode v).clock = s.clock := rfl
@[simp] theorem State.setMode_mode (s : State) (v) : (s.setMode v).mode = v := rfl
@[simp] theorem State.setMode_lock (s : State) (v) : (s.setMode v).lock = s.lock := rfl
@[simp] theorem State.setMode_att (s : State) (v) : (s.setMode v).att = s.att := rfl
@[simp] theorem State.setMode_meters (s : State) (v) : (s.setMode v).meters = s.meters := rfl
@[simp] theorem State.setMode_frame (s : State) (v) : (s.setMode v).frame = s.frame := rfl
@[simp] theorem State.setMode_framePos (s : State) (v) : (s.setMode v).framePos = s.framePos := rfl
@[simp] theorem State.setMode_resetHeld (s : State) (v) : (s.setMode v).resetHeld = s.resetHeld := rfl
@[simp] theorem State.setMode_todo (s : State) (v) : (s.setMode v).todo = s.todo := rfl
@[simp] theorem State.setMode_shown (s : State) (v) : (s.setMode v).shown = s.shown := rfl
@[simp] theorem State.setMode_changed (s : State) (v) : (s.setMode v).changed = s.changed := rfl
@[simp] theorem State.setMode_pending (s : State) (v) : (s.setMode v).pending = s.pending := rfl
@[simp] theorem State.setLock_ram (s : State) (v) : (s.setLock v).ram = s.ram := rfl
@[simp] theorem State.setLock_runctl (s : State) (v) : (s.setLock v).runctl = s.runctl := rfl
@[simp] theorem State.setLock_cues (s : State) (v) : (s.setLock v).cues = s.cues := rfl
@[simp] theorem State.setLock_slots (s : State) (v) : (s.setLock v).slots = s.slots := rfl
@[simp] theorem State.setLock_loader (s : State) (v) : (s.setLock v).loader = s.loader := rfl
@[simp] theorem State.setLock_coef (s : State) (v) : (s.setLock v).coef = s.coef := rfl
@[simp] theorem State.setLock_engines (s : State) (v) : (s.setLock v).engines = s.engines := rfl
@[simp] theorem State.setLock_net (s : State) (v) : (s.setLock v).net = s.net := rfl
@[simp] theorem State.setLock_trans (s : State) (v) : (s.setLock v).trans = s.trans := rfl
@[simp] theorem State.setLock_tails (s : State) (v) : (s.setLock v).tails = s.tails := rfl
@[simp] theorem State.setLock_mics (s : State) (v) : (s.setLock v).mics = s.mics := rfl
@[simp] theorem State.setLock_guard (s : State) (v) : (s.setLock v).guard = s.guard := rfl
@[simp] theorem State.setLock_lanes (s : State) (v) : (s.setLock v).lanes = s.lanes := rfl
@[simp] theorem State.setLock_outputs (s : State) (v) : (s.setLock v).outputs = s.outputs := rfl
@[simp] theorem State.setLock_clock (s : State) (v) : (s.setLock v).clock = s.clock := rfl
@[simp] theorem State.setLock_mode (s : State) (v) : (s.setLock v).mode = s.mode := rfl
@[simp] theorem State.setLock_lock (s : State) (v) : (s.setLock v).lock = v := rfl
@[simp] theorem State.setLock_att (s : State) (v) : (s.setLock v).att = s.att := rfl
@[simp] theorem State.setLock_meters (s : State) (v) : (s.setLock v).meters = s.meters := rfl
@[simp] theorem State.setLock_frame (s : State) (v) : (s.setLock v).frame = s.frame := rfl
@[simp] theorem State.setLock_framePos (s : State) (v) : (s.setLock v).framePos = s.framePos := rfl
@[simp] theorem State.setLock_resetHeld (s : State) (v) : (s.setLock v).resetHeld = s.resetHeld := rfl
@[simp] theorem State.setLock_todo (s : State) (v) : (s.setLock v).todo = s.todo := rfl
@[simp] theorem State.setLock_shown (s : State) (v) : (s.setLock v).shown = s.shown := rfl
@[simp] theorem State.setLock_changed (s : State) (v) : (s.setLock v).changed = s.changed ||| s.lock.changes v := rfl
@[simp] theorem State.setLock_pending (s : State) (v) : (s.setLock v).pending = s.pending := rfl
@[simp] theorem State.setAtt_ram (s : State) (v) : (s.setAtt v).ram = s.ram := rfl
@[simp] theorem State.setAtt_runctl (s : State) (v) : (s.setAtt v).runctl = s.runctl := rfl
@[simp] theorem State.setAtt_cues (s : State) (v) : (s.setAtt v).cues = s.cues := rfl
@[simp] theorem State.setAtt_slots (s : State) (v) : (s.setAtt v).slots = s.slots := rfl
@[simp] theorem State.setAtt_loader (s : State) (v) : (s.setAtt v).loader = s.loader := rfl
@[simp] theorem State.setAtt_coef (s : State) (v) : (s.setAtt v).coef = s.coef := rfl
@[simp] theorem State.setAtt_engines (s : State) (v) : (s.setAtt v).engines = s.engines := rfl
@[simp] theorem State.setAtt_net (s : State) (v) : (s.setAtt v).net = s.net := rfl
@[simp] theorem State.setAtt_trans (s : State) (v) : (s.setAtt v).trans = s.trans := rfl
@[simp] theorem State.setAtt_tails (s : State) (v) : (s.setAtt v).tails = s.tails := rfl
@[simp] theorem State.setAtt_mics (s : State) (v) : (s.setAtt v).mics = s.mics := rfl
@[simp] theorem State.setAtt_guard (s : State) (v) : (s.setAtt v).guard = s.guard := rfl
@[simp] theorem State.setAtt_lanes (s : State) (v) : (s.setAtt v).lanes = s.lanes := rfl
@[simp] theorem State.setAtt_outputs (s : State) (v) : (s.setAtt v).outputs = s.outputs := rfl
@[simp] theorem State.setAtt_clock (s : State) (v) : (s.setAtt v).clock = s.clock := rfl
@[simp] theorem State.setAtt_mode (s : State) (v) : (s.setAtt v).mode = s.mode := rfl
@[simp] theorem State.setAtt_lock (s : State) (v) : (s.setAtt v).lock = s.lock := rfl
@[simp] theorem State.setAtt_att (s : State) (v) : (s.setAtt v).att = v := rfl
@[simp] theorem State.setAtt_meters (s : State) (v) : (s.setAtt v).meters = s.meters := rfl
@[simp] theorem State.setAtt_frame (s : State) (v) : (s.setAtt v).frame = s.frame := rfl
@[simp] theorem State.setAtt_framePos (s : State) (v) : (s.setAtt v).framePos = s.framePos := rfl
@[simp] theorem State.setAtt_resetHeld (s : State) (v) : (s.setAtt v).resetHeld = s.resetHeld := rfl
@[simp] theorem State.setAtt_todo (s : State) (v) : (s.setAtt v).todo = s.todo := rfl
@[simp] theorem State.setAtt_shown (s : State) (v) : (s.setAtt v).shown = s.shown := rfl
@[simp] theorem State.setAtt_changed (s : State) (v) : (s.setAtt v).changed = s.changed ||| s.att.changes v := rfl
@[simp] theorem State.setAtt_pending (s : State) (v) : (s.setAtt v).pending = s.pending := rfl
@[simp] theorem State.setMeters_ram (s : State) (v) : (s.setMeters v).ram = s.ram := rfl
@[simp] theorem State.setMeters_runctl (s : State) (v) : (s.setMeters v).runctl = s.runctl := rfl
@[simp] theorem State.setMeters_cues (s : State) (v) : (s.setMeters v).cues = s.cues := rfl
@[simp] theorem State.setMeters_slots (s : State) (v) : (s.setMeters v).slots = s.slots := rfl
@[simp] theorem State.setMeters_loader (s : State) (v) : (s.setMeters v).loader = s.loader := rfl
@[simp] theorem State.setMeters_coef (s : State) (v) : (s.setMeters v).coef = s.coef := rfl
@[simp] theorem State.setMeters_engines (s : State) (v) : (s.setMeters v).engines = s.engines := rfl
@[simp] theorem State.setMeters_net (s : State) (v) : (s.setMeters v).net = s.net := rfl
@[simp] theorem State.setMeters_trans (s : State) (v) : (s.setMeters v).trans = s.trans := rfl
@[simp] theorem State.setMeters_tails (s : State) (v) : (s.setMeters v).tails = s.tails := rfl
@[simp] theorem State.setMeters_mics (s : State) (v) : (s.setMeters v).mics = s.mics := rfl
@[simp] theorem State.setMeters_guard (s : State) (v) : (s.setMeters v).guard = s.guard := rfl
@[simp] theorem State.setMeters_lanes (s : State) (v) : (s.setMeters v).lanes = s.lanes := rfl
@[simp] theorem State.setMeters_outputs (s : State) (v) : (s.setMeters v).outputs = s.outputs := rfl
@[simp] theorem State.setMeters_clock (s : State) (v) : (s.setMeters v).clock = s.clock := rfl
@[simp] theorem State.setMeters_mode (s : State) (v) : (s.setMeters v).mode = s.mode := rfl
@[simp] theorem State.setMeters_lock (s : State) (v) : (s.setMeters v).lock = s.lock := rfl
@[simp] theorem State.setMeters_att (s : State) (v) : (s.setMeters v).att = s.att := rfl
@[simp] theorem State.setMeters_meters (s : State) (v) : (s.setMeters v).meters = v := rfl
@[simp] theorem State.setMeters_frame (s : State) (v) : (s.setMeters v).frame = s.frame := rfl
@[simp] theorem State.setMeters_framePos (s : State) (v) : (s.setMeters v).framePos = s.framePos := rfl
@[simp] theorem State.setMeters_resetHeld (s : State) (v) : (s.setMeters v).resetHeld = s.resetHeld := rfl
@[simp] theorem State.setMeters_todo (s : State) (v) : (s.setMeters v).todo = s.todo := rfl
@[simp] theorem State.setMeters_shown (s : State) (v) : (s.setMeters v).shown = s.shown := rfl
@[simp] theorem State.setMeters_changed (s : State) (v) : (s.setMeters v).changed = s.changed := rfl
@[simp] theorem State.setMeters_pending (s : State) (v) : (s.setMeters v).pending = s.pending := rfl
@[simp] theorem State.setFrame_ram (s : State) (v) : (s.setFrame v).ram = s.ram := rfl
@[simp] theorem State.setFrame_runctl (s : State) (v) : (s.setFrame v).runctl = s.runctl := rfl
@[simp] theorem State.setFrame_cues (s : State) (v) : (s.setFrame v).cues = s.cues := rfl
@[simp] theorem State.setFrame_slots (s : State) (v) : (s.setFrame v).slots = s.slots := rfl
@[simp] theorem State.setFrame_loader (s : State) (v) : (s.setFrame v).loader = s.loader := rfl
@[simp] theorem State.setFrame_coef (s : State) (v) : (s.setFrame v).coef = s.coef := rfl
@[simp] theorem State.setFrame_engines (s : State) (v) : (s.setFrame v).engines = s.engines := rfl
@[simp] theorem State.setFrame_net (s : State) (v) : (s.setFrame v).net = s.net := rfl
@[simp] theorem State.setFrame_trans (s : State) (v) : (s.setFrame v).trans = s.trans := rfl
@[simp] theorem State.setFrame_tails (s : State) (v) : (s.setFrame v).tails = s.tails := rfl
@[simp] theorem State.setFrame_mics (s : State) (v) : (s.setFrame v).mics = s.mics := rfl
@[simp] theorem State.setFrame_guard (s : State) (v) : (s.setFrame v).guard = s.guard := rfl
@[simp] theorem State.setFrame_lanes (s : State) (v) : (s.setFrame v).lanes = s.lanes := rfl
@[simp] theorem State.setFrame_outputs (s : State) (v) : (s.setFrame v).outputs = s.outputs := rfl
@[simp] theorem State.setFrame_clock (s : State) (v) : (s.setFrame v).clock = s.clock := rfl
@[simp] theorem State.setFrame_mode (s : State) (v) : (s.setFrame v).mode = s.mode := rfl
@[simp] theorem State.setFrame_lock (s : State) (v) : (s.setFrame v).lock = s.lock := rfl
@[simp] theorem State.setFrame_att (s : State) (v) : (s.setFrame v).att = s.att := rfl
@[simp] theorem State.setFrame_meters (s : State) (v) : (s.setFrame v).meters = s.meters := rfl
@[simp] theorem State.setFrame_frame (s : State) (v) : (s.setFrame v).frame = v := rfl
@[simp] theorem State.setFrame_framePos (s : State) (v) : (s.setFrame v).framePos = s.framePos := rfl
@[simp] theorem State.setFrame_resetHeld (s : State) (v) : (s.setFrame v).resetHeld = s.resetHeld := rfl
@[simp] theorem State.setFrame_todo (s : State) (v) : (s.setFrame v).todo = s.todo := rfl
@[simp] theorem State.setFrame_shown (s : State) (v) : (s.setFrame v).shown = s.shown := rfl
@[simp] theorem State.setFrame_changed (s : State) (v) : (s.setFrame v).changed = s.changed := rfl
@[simp] theorem State.setFrame_pending (s : State) (v) : (s.setFrame v).pending = s.pending := rfl
@[simp] theorem State.setFramePos_ram (s : State) (v) : (s.setFramePos v).ram = s.ram := rfl
@[simp] theorem State.setFramePos_runctl (s : State) (v) : (s.setFramePos v).runctl = s.runctl := rfl
@[simp] theorem State.setFramePos_cues (s : State) (v) : (s.setFramePos v).cues = s.cues := rfl
@[simp] theorem State.setFramePos_slots (s : State) (v) : (s.setFramePos v).slots = s.slots := rfl
@[simp] theorem State.setFramePos_loader (s : State) (v) : (s.setFramePos v).loader = s.loader := rfl
@[simp] theorem State.setFramePos_coef (s : State) (v) : (s.setFramePos v).coef = s.coef := rfl
@[simp] theorem State.setFramePos_engines (s : State) (v) : (s.setFramePos v).engines = s.engines := rfl
@[simp] theorem State.setFramePos_net (s : State) (v) : (s.setFramePos v).net = s.net := rfl
@[simp] theorem State.setFramePos_trans (s : State) (v) : (s.setFramePos v).trans = s.trans := rfl
@[simp] theorem State.setFramePos_tails (s : State) (v) : (s.setFramePos v).tails = s.tails := rfl
@[simp] theorem State.setFramePos_mics (s : State) (v) : (s.setFramePos v).mics = s.mics := rfl
@[simp] theorem State.setFramePos_guard (s : State) (v) : (s.setFramePos v).guard = s.guard := rfl
@[simp] theorem State.setFramePos_lanes (s : State) (v) : (s.setFramePos v).lanes = s.lanes := rfl
@[simp] theorem State.setFramePos_outputs (s : State) (v) : (s.setFramePos v).outputs = s.outputs := rfl
@[simp] theorem State.setFramePos_clock (s : State) (v) : (s.setFramePos v).clock = s.clock := rfl
@[simp] theorem State.setFramePos_mode (s : State) (v) : (s.setFramePos v).mode = s.mode := rfl
@[simp] theorem State.setFramePos_lock (s : State) (v) : (s.setFramePos v).lock = s.lock := rfl
@[simp] theorem State.setFramePos_att (s : State) (v) : (s.setFramePos v).att = s.att := rfl
@[simp] theorem State.setFramePos_meters (s : State) (v) : (s.setFramePos v).meters = s.meters := rfl
@[simp] theorem State.setFramePos_frame (s : State) (v) : (s.setFramePos v).frame = s.frame := rfl
@[simp] theorem State.setFramePos_framePos (s : State) (v) : (s.setFramePos v).framePos = v := rfl
@[simp] theorem State.setFramePos_resetHeld (s : State) (v) : (s.setFramePos v).resetHeld = s.resetHeld := rfl
@[simp] theorem State.setFramePos_todo (s : State) (v) : (s.setFramePos v).todo = s.todo := rfl
@[simp] theorem State.setFramePos_shown (s : State) (v) : (s.setFramePos v).shown = s.shown := rfl
@[simp] theorem State.setFramePos_changed (s : State) (v) : (s.setFramePos v).changed = s.changed := rfl
@[simp] theorem State.setFramePos_pending (s : State) (v) : (s.setFramePos v).pending = s.pending := rfl
@[simp] theorem State.setResetHeld_ram (s : State) (v) : (s.setResetHeld v).ram = s.ram := rfl
@[simp] theorem State.setResetHeld_runctl (s : State) (v) : (s.setResetHeld v).runctl = s.runctl := rfl
@[simp] theorem State.setResetHeld_cues (s : State) (v) : (s.setResetHeld v).cues = s.cues := rfl
@[simp] theorem State.setResetHeld_slots (s : State) (v) : (s.setResetHeld v).slots = s.slots := rfl
@[simp] theorem State.setResetHeld_loader (s : State) (v) : (s.setResetHeld v).loader = s.loader := rfl
@[simp] theorem State.setResetHeld_coef (s : State) (v) : (s.setResetHeld v).coef = s.coef := rfl
@[simp] theorem State.setResetHeld_engines (s : State) (v) : (s.setResetHeld v).engines = s.engines := rfl
@[simp] theorem State.setResetHeld_net (s : State) (v) : (s.setResetHeld v).net = s.net := rfl
@[simp] theorem State.setResetHeld_trans (s : State) (v) : (s.setResetHeld v).trans = s.trans := rfl
@[simp] theorem State.setResetHeld_tails (s : State) (v) : (s.setResetHeld v).tails = s.tails := rfl
@[simp] theorem State.setResetHeld_mics (s : State) (v) : (s.setResetHeld v).mics = s.mics := rfl
@[simp] theorem State.setResetHeld_guard (s : State) (v) : (s.setResetHeld v).guard = s.guard := rfl
@[simp] theorem State.setResetHeld_lanes (s : State) (v) : (s.setResetHeld v).lanes = s.lanes := rfl
@[simp] theorem State.setResetHeld_outputs (s : State) (v) : (s.setResetHeld v).outputs = s.outputs := rfl
@[simp] theorem State.setResetHeld_clock (s : State) (v) : (s.setResetHeld v).clock = s.clock := rfl
@[simp] theorem State.setResetHeld_mode (s : State) (v) : (s.setResetHeld v).mode = s.mode := rfl
@[simp] theorem State.setResetHeld_lock (s : State) (v) : (s.setResetHeld v).lock = s.lock := rfl
@[simp] theorem State.setResetHeld_att (s : State) (v) : (s.setResetHeld v).att = s.att := rfl
@[simp] theorem State.setResetHeld_meters (s : State) (v) : (s.setResetHeld v).meters = s.meters := rfl
@[simp] theorem State.setResetHeld_frame (s : State) (v) : (s.setResetHeld v).frame = s.frame := rfl
@[simp] theorem State.setResetHeld_framePos (s : State) (v) : (s.setResetHeld v).framePos = s.framePos := rfl
@[simp] theorem State.setResetHeld_resetHeld (s : State) (v) : (s.setResetHeld v).resetHeld = v := rfl
@[simp] theorem State.setResetHeld_todo (s : State) (v) : (s.setResetHeld v).todo = s.todo := rfl
@[simp] theorem State.setResetHeld_shown (s : State) (v) : (s.setResetHeld v).shown = s.shown := rfl
@[simp] theorem State.setResetHeld_changed (s : State) (v) : (s.setResetHeld v).changed = s.changed := rfl
@[simp] theorem State.setResetHeld_pending (s : State) (v) : (s.setResetHeld v).pending = s.pending := rfl
@[simp] theorem State.setTodo_ram (s : State) (v) : (s.setTodo v).ram = s.ram := rfl
@[simp] theorem State.setTodo_runctl (s : State) (v) : (s.setTodo v).runctl = s.runctl := rfl
@[simp] theorem State.setTodo_cues (s : State) (v) : (s.setTodo v).cues = s.cues := rfl
@[simp] theorem State.setTodo_slots (s : State) (v) : (s.setTodo v).slots = s.slots := rfl
@[simp] theorem State.setTodo_loader (s : State) (v) : (s.setTodo v).loader = s.loader := rfl
@[simp] theorem State.setTodo_coef (s : State) (v) : (s.setTodo v).coef = s.coef := rfl
@[simp] theorem State.setTodo_engines (s : State) (v) : (s.setTodo v).engines = s.engines := rfl
@[simp] theorem State.setTodo_net (s : State) (v) : (s.setTodo v).net = s.net := rfl
@[simp] theorem State.setTodo_trans (s : State) (v) : (s.setTodo v).trans = s.trans := rfl
@[simp] theorem State.setTodo_tails (s : State) (v) : (s.setTodo v).tails = s.tails := rfl
@[simp] theorem State.setTodo_mics (s : State) (v) : (s.setTodo v).mics = s.mics := rfl
@[simp] theorem State.setTodo_guard (s : State) (v) : (s.setTodo v).guard = s.guard := rfl
@[simp] theorem State.setTodo_lanes (s : State) (v) : (s.setTodo v).lanes = s.lanes := rfl
@[simp] theorem State.setTodo_outputs (s : State) (v) : (s.setTodo v).outputs = s.outputs := rfl
@[simp] theorem State.setTodo_clock (s : State) (v) : (s.setTodo v).clock = s.clock := rfl
@[simp] theorem State.setTodo_mode (s : State) (v) : (s.setTodo v).mode = s.mode := rfl
@[simp] theorem State.setTodo_lock (s : State) (v) : (s.setTodo v).lock = s.lock := rfl
@[simp] theorem State.setTodo_att (s : State) (v) : (s.setTodo v).att = s.att := rfl
@[simp] theorem State.setTodo_meters (s : State) (v) : (s.setTodo v).meters = s.meters := rfl
@[simp] theorem State.setTodo_frame (s : State) (v) : (s.setTodo v).frame = s.frame := rfl
@[simp] theorem State.setTodo_framePos (s : State) (v) : (s.setTodo v).framePos = s.framePos := rfl
@[simp] theorem State.setTodo_resetHeld (s : State) (v) : (s.setTodo v).resetHeld = s.resetHeld := rfl
@[simp] theorem State.setTodo_todo (s : State) (v) : (s.setTodo v).todo = v := rfl
@[simp] theorem State.setTodo_shown (s : State) (v) : (s.setTodo v).shown = s.shown := rfl
@[simp] theorem State.setTodo_changed (s : State) (v) : (s.setTodo v).changed = s.changed := rfl
@[simp] theorem State.setTodo_pending (s : State) (v) : (s.setTodo v).pending = s.pending := rfl
@[simp] theorem State.setShown_ram (s : State) (v) : (s.setShown v).ram = s.ram := rfl
@[simp] theorem State.setShown_runctl (s : State) (v) : (s.setShown v).runctl = s.runctl := rfl
@[simp] theorem State.setShown_cues (s : State) (v) : (s.setShown v).cues = s.cues := rfl
@[simp] theorem State.setShown_slots (s : State) (v) : (s.setShown v).slots = s.slots := rfl
@[simp] theorem State.setShown_loader (s : State) (v) : (s.setShown v).loader = s.loader := rfl
@[simp] theorem State.setShown_coef (s : State) (v) : (s.setShown v).coef = s.coef := rfl
@[simp] theorem State.setShown_engines (s : State) (v) : (s.setShown v).engines = s.engines := rfl
@[simp] theorem State.setShown_net (s : State) (v) : (s.setShown v).net = s.net := rfl
@[simp] theorem State.setShown_trans (s : State) (v) : (s.setShown v).trans = s.trans := rfl
@[simp] theorem State.setShown_tails (s : State) (v) : (s.setShown v).tails = s.tails := rfl
@[simp] theorem State.setShown_mics (s : State) (v) : (s.setShown v).mics = s.mics := rfl
@[simp] theorem State.setShown_guard (s : State) (v) : (s.setShown v).guard = s.guard := rfl
@[simp] theorem State.setShown_lanes (s : State) (v) : (s.setShown v).lanes = s.lanes := rfl
@[simp] theorem State.setShown_outputs (s : State) (v) : (s.setShown v).outputs = s.outputs := rfl
@[simp] theorem State.setShown_clock (s : State) (v) : (s.setShown v).clock = s.clock := rfl
@[simp] theorem State.setShown_mode (s : State) (v) : (s.setShown v).mode = s.mode := rfl
@[simp] theorem State.setShown_lock (s : State) (v) : (s.setShown v).lock = s.lock := rfl
@[simp] theorem State.setShown_att (s : State) (v) : (s.setShown v).att = s.att := rfl
@[simp] theorem State.setShown_meters (s : State) (v) : (s.setShown v).meters = s.meters := rfl
@[simp] theorem State.setShown_frame (s : State) (v) : (s.setShown v).frame = s.frame := rfl
@[simp] theorem State.setShown_framePos (s : State) (v) : (s.setShown v).framePos = s.framePos := rfl
@[simp] theorem State.setShown_resetHeld (s : State) (v) : (s.setShown v).resetHeld = s.resetHeld := rfl
@[simp] theorem State.setShown_todo (s : State) (v) : (s.setShown v).todo = s.todo := rfl
@[simp] theorem State.setShown_shown (s : State) (v) : (s.setShown v).shown = v := rfl
@[simp] theorem State.setShown_changed (s : State) (v) : (s.setShown v).changed = s.changed := rfl
@[simp] theorem State.setShown_pending (s : State) (v) : (s.setShown v).pending = s.pending := rfl
@[simp] theorem State.setChanged_ram (s : State) (v) : (s.setChanged v).ram = s.ram := rfl
@[simp] theorem State.setChanged_runctl (s : State) (v) : (s.setChanged v).runctl = s.runctl := rfl
@[simp] theorem State.setChanged_cues (s : State) (v) : (s.setChanged v).cues = s.cues := rfl
@[simp] theorem State.setChanged_slots (s : State) (v) : (s.setChanged v).slots = s.slots := rfl
@[simp] theorem State.setChanged_loader (s : State) (v) : (s.setChanged v).loader = s.loader := rfl
@[simp] theorem State.setChanged_coef (s : State) (v) : (s.setChanged v).coef = s.coef := rfl
@[simp] theorem State.setChanged_engines (s : State) (v) : (s.setChanged v).engines = s.engines := rfl
@[simp] theorem State.setChanged_net (s : State) (v) : (s.setChanged v).net = s.net := rfl
@[simp] theorem State.setChanged_trans (s : State) (v) : (s.setChanged v).trans = s.trans := rfl
@[simp] theorem State.setChanged_tails (s : State) (v) : (s.setChanged v).tails = s.tails := rfl
@[simp] theorem State.setChanged_mics (s : State) (v) : (s.setChanged v).mics = s.mics := rfl
@[simp] theorem State.setChanged_guard (s : State) (v) : (s.setChanged v).guard = s.guard := rfl
@[simp] theorem State.setChanged_lanes (s : State) (v) : (s.setChanged v).lanes = s.lanes := rfl
@[simp] theorem State.setChanged_outputs (s : State) (v) : (s.setChanged v).outputs = s.outputs := rfl
@[simp] theorem State.setChanged_clock (s : State) (v) : (s.setChanged v).clock = s.clock := rfl
@[simp] theorem State.setChanged_mode (s : State) (v) : (s.setChanged v).mode = s.mode := rfl
@[simp] theorem State.setChanged_lock (s : State) (v) : (s.setChanged v).lock = s.lock := rfl
@[simp] theorem State.setChanged_att (s : State) (v) : (s.setChanged v).att = s.att := rfl
@[simp] theorem State.setChanged_meters (s : State) (v) : (s.setChanged v).meters = s.meters := rfl
@[simp] theorem State.setChanged_frame (s : State) (v) : (s.setChanged v).frame = s.frame := rfl
@[simp] theorem State.setChanged_framePos (s : State) (v) : (s.setChanged v).framePos = s.framePos := rfl
@[simp] theorem State.setChanged_resetHeld (s : State) (v) : (s.setChanged v).resetHeld = s.resetHeld := rfl
@[simp] theorem State.setChanged_todo (s : State) (v) : (s.setChanged v).todo = s.todo := rfl
@[simp] theorem State.setChanged_shown (s : State) (v) : (s.setChanged v).shown = s.shown := rfl
@[simp] theorem State.setChanged_changed (s : State) (v) : (s.setChanged v).changed = v := rfl
@[simp] theorem State.setChanged_pending (s : State) (v) : (s.setChanged v).pending = s.pending := rfl
@[simp] theorem State.setPending_ram (s : State) (v) : (s.setPending v).ram = s.ram := rfl
@[simp] theorem State.setPending_runctl (s : State) (v) : (s.setPending v).runctl = s.runctl := rfl
@[simp] theorem State.setPending_cues (s : State) (v) : (s.setPending v).cues = s.cues := rfl
@[simp] theorem State.setPending_slots (s : State) (v) : (s.setPending v).slots = s.slots := rfl
@[simp] theorem State.setPending_loader (s : State) (v) : (s.setPending v).loader = s.loader := rfl
@[simp] theorem State.setPending_coef (s : State) (v) : (s.setPending v).coef = s.coef := rfl
@[simp] theorem State.setPending_engines (s : State) (v) : (s.setPending v).engines = s.engines := rfl
@[simp] theorem State.setPending_net (s : State) (v) : (s.setPending v).net = s.net := rfl
@[simp] theorem State.setPending_trans (s : State) (v) : (s.setPending v).trans = s.trans := rfl
@[simp] theorem State.setPending_tails (s : State) (v) : (s.setPending v).tails = s.tails := rfl
@[simp] theorem State.setPending_mics (s : State) (v) : (s.setPending v).mics = s.mics := rfl
@[simp] theorem State.setPending_guard (s : State) (v) : (s.setPending v).guard = s.guard := rfl
@[simp] theorem State.setPending_lanes (s : State) (v) : (s.setPending v).lanes = s.lanes := rfl
@[simp] theorem State.setPending_outputs (s : State) (v) : (s.setPending v).outputs = s.outputs := rfl
@[simp] theorem State.setPending_clock (s : State) (v) : (s.setPending v).clock = s.clock := rfl
@[simp] theorem State.setPending_mode (s : State) (v) : (s.setPending v).mode = s.mode := rfl
@[simp] theorem State.setPending_lock (s : State) (v) : (s.setPending v).lock = s.lock := rfl
@[simp] theorem State.setPending_att (s : State) (v) : (s.setPending v).att = s.att := rfl
@[simp] theorem State.setPending_meters (s : State) (v) : (s.setPending v).meters = s.meters := rfl
@[simp] theorem State.setPending_frame (s : State) (v) : (s.setPending v).frame = s.frame := rfl
@[simp] theorem State.setPending_framePos (s : State) (v) : (s.setPending v).framePos = s.framePos := rfl
@[simp] theorem State.setPending_resetHeld (s : State) (v) : (s.setPending v).resetHeld = s.resetHeld := rfl
@[simp] theorem State.setPending_todo (s : State) (v) : (s.setPending v).todo = s.todo := rfl
@[simp] theorem State.setPending_shown (s : State) (v) : (s.setPending v).shown = s.shown := rfl
@[simp] theorem State.setPending_changed (s : State) (v) : (s.setPending v).changed = s.changed := rfl
@[simp] theorem State.setPending_pending (s : State) (v) : (s.setPending v).pending = v := rfl
@[simp] theorem State.markField_eq (s : State) (a : Nat) : s.markField a = s.setChanged (s.changed ||| 2 ^ a) := rfl

/-! ### What the page and the mirrors show of a change (log 10) -/

@[simp] theorem changedFrom_self {α : Type} [DecidableEq α] (n : Nat) : ∀ (a : Nat) (l : List α), changedFrom n a l l = 0
  | _, [] => rfl
  | a, x :: l => by simp [changedFrom, changedFrom_self n (a + n) l]

/-- Two changes in a row are noted as one when each entry is changed by one of them at most. -/
theorem changedFrom_trans {α : Type} [DecidableEq α] (n : Nat) : ∀ (a : Nat) (x y z : List α), x.length = y.length →
    y.length = z.length → (∀ i : Nat, x[i]? = y[i]? ∨ y[i]? = z[i]?) →
    changedFrom n a x y ||| changedFrom n a y z = changedFrom n a x z
  | _, [], [], [], _, _, _ => by simp [changedFrom]
  | a, x :: xs, y :: ys, z :: zs, h1, h2, h => by
    have ih := changedFrom_trans n (a + n) xs ys zs (by simpa using h1) (by simpa using h2) fun i => by simpa using h (i + 1)
    simp only [changedFrom, ← ih]
    rcases h 0 with h0 | h0 <;> simp only [List.getElem?_cons_zero, Option.some.injEq] at h0 <;> subst h0
    · simp only [if_true, Nat.zero_or, ← Nat.lor_assoc, Nat.lor_comm (changedFrom n (a + n) xs ys)]
    · simp only [if_true, Nat.zero_or, Nat.lor_assoc]

@[simp] theorem ShowLock.changes_self (l : ShowLock) : l.changes l = 0 := by simp [ShowLock.changes]
@[simp] theorem Attention.changes_self (a : Attention) : a.changes a = 0 := by simp [Attention.changes]
@[simp] theorem Guard.changes_self (g : Guard) : g.changes g = 0 := by simp [Guard.changes]

end Sys2Proof.Machine
end

