-- ==== Sys2Proof/Laws/Works.lean ====
section
/-! SUPPORT. Everything the works of a frame boundary can do, said once: whatever holds of a state and survives the updates
listed in `WorkClosed` survives every work but an analysis, and with `WorksClosed` every work. -/

namespace Sys2Proof.Machine

/-- `P` survives each update that a work of a frame boundary is made of, but for the stages that an analysis adds. -/
structure WorkClosed (P : State → Prop) : Prop where
  ram : ∀ s a bs, P s → P (s.setRam (writeBytes s.ram a bs))
  taken : ∀ s k bs, P s → P (s.setCues { s.cues with held := s.cues.held.set k (some bs), tookNow := true })
  letGo : ∀ s k, P s → P (s.setCues { s.cues with held := s.cues.held.set k none })
  gap : ∀ s n, P s → P (s.setGap n)
  advance : ∀ s, P s → P s.advanceE
  slots : ∀ s v, P s → P (s.setSlots v)
  loader : ∀ s v, P s → P (s.setLoader v)
  coef : ∀ s v, P s → P (s.setCoef v)
  engines : ∀ s v, P s → P (s.setEngines v)
  net : ∀ s v, P s → P (s.setNet v)
  trans : ∀ s v, P s → P (s.setTrans v)
  tails : ∀ s v, P s → P (s.setTails v)
  mics : ∀ s v, P s → P (s.setMics v)
  guard : ∀ s v, P s → P (s.setGuard v)
  lanes : ∀ s v, P s → P (s.setLanes v)
  clock : ∀ s v, P s → P (s.setClock v)
  mode : ∀ s v, P s → P (s.setMode v)
  key : ∀ s k, P s → P (s.setLock { s.lock with key := some k })
  locked : ∀ s, P s → s.lock.key.isSome → P (s.setLock { s.lock with locked := true })
  refused : ∀ s, P s → s.lock.locked = true → s.lock.lockout = 0 → P (s.setLock s.lock.fail)
  unlocked : ∀ s, P s → s.lock.lockout = 0 → P (s.setLock { s.lock with locked := false, failures := 0 })
  lockout : ∀ s, P s → P s.lockoutStep
  occur : ∀ s i d, i < 14 → P s → P (s.setAtt (s.att.change i (Notice.occur d s.frame)))
  finish : ∀ s i, isEventSource i = false → P s → P (s.setAtt (s.att.change i Notice.finish))
  meters : ∀ s v, P s → P (s.setMeters v)
  erase : ∀ s w, P s → P (s.setTodo (s.todo.erase w))
  drop : ∀ s w, P s → P (s.dropWork w)
  stand : ∀ s, P s → P s.standClaim
  shown : ∀ s v, P s → P (s.setShown v)
  changed : ∀ s v, P s → P (s.setChanged v)

/-- `P` survives each update that any work of a frame boundary is made of. -/
structure WorksClosed (P : State → Prop) : Prop extends WorkClosed P where
  stages : ∀ s, P s → P (s.setTodo (tailWorks ++ s.todo))

/-- What survives each step of a fold survives the fold. -/
theorem foldl_keeps {α β : Type} {P : β → Prop} {f : β → α → β} (h : ∀ b a, P b → P (f b a)) :
    ∀ (l : List α) (b : β), P b → P (l.foldl f b)
  | [], _, hb => hb
  | a :: l, b, hb => foldl_keeps h l (f b a) (h b a hb)

theorem Source.index_lt (x : Source) : x.index < 14 := by cases x <;> decide

section
variable {P : State → Prop} (h : WorkClosed P)
include h

namespace WorkClosed

/-! ### Ops -/

theorem raise {x : Source} (hx : x ≠ .outputClip) (d : Nat) {s : State} (hp : P s) : P (s.raise x d) := by
  simp only [State.raise, if_neg hx]; exact h.occur _ _ _ x.index_lt hp

theorem judge {x : Source} (hx : isEventSource x.index = false) (b : Bool) (d : Nat) {s : State} (hp : P s) :
    P (s.judge x b d) := by
  unfold State.judge
  split_ifs
  · exact h.occur _ _ _ x.index_lt hp
  · exact h.finish _ _ hx hp
  · exact hp

theorem onSlot {s : State} (hp : P s) (k : Nat) (f : Slot → Slot) : P (s.onSlot k f) := h.slots _ _ hp

theorem answer {s : State} (hp : P s) (k : Nat) (bs : List Byte) (o : Answer) (d : Nat) : P (s.answer k bs o d) := by
  unfold State.answer answerWrite
  have h1 := h.ram _ (Config.cueSlotBase k + 6) (leBytes 2 (256 * u8 bs 1 + o.code)) hp
  have h2 := h.ram _ (Config.cueSlotBase k + 8) (leBytes 4 (s.answerDetail bs o d)) h1
  have h3 := h.ram _ (Config.cueSlotBase k) [3] h2
  exact h.raise (by decide) _ (h.letGo _ k h3)

theorem answerHeld {s : State} (hp : P s) (k : Nat) (o : Answer) (d : Nat) : P (s.answerHeld k o d) := by
  unfold State.answerHeld
  split
  · exact h.answer hp _ _ _ _
  · exact hp

theorem onDue {s : State} (hp : P s) (w : Work) {f : State → State} (hf : ∀ s, P s → P (f s)) : P (s.onDue w f) := by
  unfold State.onDue
  split_ifs
  · exact hf _ (h.erase _ _ hp)
  · exact hp

theorem dropWork {s : State} (hp : P s) (w : Work) : P (s.dropWork w) := h.drop _ _ hp

/-! ### Coefficients -/

theorem startComputation {s : State} (hp : P s) (q : Request) : P (s.startComputation q) := h.coef _ _ hp

theorem request {s : State} (hp : P s) (q : Request) : P (s.request q) := by
  unfold State.request
  split
  · exact h.startComputation hp q
  · exact h.coef _ _ hp

theorem pick {s : State} (hp : P s) : P s.pick := by
  unfold State.pick
  dsimp only
  split
  · exact h.coef _ _ hp
  · exact h.startComputation (h.coef _ _ hp) _

theorem requestLive {s : State} (hp : P s) (g : Nat) : P (s.requestLive g) := by
  unfold State.requestLive
  split
  · exact h.request hp _
  · exact hp

theorem forgetChangeover {s : State} (hp : P s) : P s.forgetChangeover := h.coef _ _ hp
theorem forgetComputation {s : State} (hp : P s) (k : Nat) : P (s.forgetComputation k) := h.coef _ _ hp
theorem forgetLoad {s : State} (hp : P s) (k : Nat) : P (s.forgetLoad k) := h.coef _ _ hp
theorem onEngine {s : State} (hp : P s) (e : Nat) (f : Engine → Engine) : P (s.onEngine e f) := h.engines _ _ hp

theorem stepDecayGlide {s : State} (hp : P s) (e : Nat) (b : Band) : P (s.stepDecayGlide e b) :=
  h.onDue hp _ fun _ hp => h.onEngine hp _ _

theorem glideEngine {s : State} (hp : P s) (n : Nat) (d : List (Bands Nat)) (e j : Nat) : P (s.glideEngine n d e j) :=
  foldl_keeps (P := P) (fun _ _ hp => h.onEngine (h.stepDecayGlide hp _ _) _ _) _ _ hp

theorem glideSlot {s : State} (hp : P s) (k n : Nat) (d : List (Bands Nat)) : P (s.glideSlot k n d) := by
  unfold State.glideSlot
  split
  · exact foldl_keeps (P := P) (fun _ _ hp => h.glideEngine hp _ _ _ _) _ _ hp
  · exact hp

theorem stepEpsilon {s : State} (hp : P s) : P s.stepEpsilon := h.onDue hp _ fun _ hp => h.coef _ _ hp

theorem addFlags {s : State} (hp : P s) (k : Nat) (f : StatusFlags) : P (s.addFlags k f) := by
  unfold State.addFlags
  dsimp only
  split_ifs
  · exact h.onSlot hp _ _
  · exact h.raise (by decide) _ (h.onSlot hp _ _)

theorem keepResults {s : State} (hp : P s) (c : Computation) (r : SceneRecord) : P (s.keepResults c r) :=
  h.addFlags (h.onSlot hp _ _) _ _

theorem applyResults {s : State} (hp : P s) (c : Computation) : P (s.applyResults c) := by
  unfold State.applyResults
  split
  · exact hp
  · split
    · split_ifs
      · exact h.keepResults hp _ _
      · exact hp
    · exact h.keepResults hp _ _
    · exact h.glideSlot (h.keepResults hp _ _) _ _ _
    all_goals exact hp

/-! ### Network -/

theorem onPlay {s : State} (hp : P s) (k : Nat) (f : Play → Play) : P (s.onPlay k f) := h.net _ _ hp

theorem claimSlot {s : State} (hp : P s) (k : Nat) (r : SceneRecord) (p : Play) : P (s.claimSlot k r p) :=
  h.net _ _ (h.onSlot (h.engines _ _ hp) _ _)

theorem drainSlot {s : State} (hp : P s) (k : Nat) : P (s.drainSlot k) := by
  unfold State.drainSlot
  split_ifs
  · exact h.onPlay (h.net _ _ (h.engines _ _ hp)) _ _
  · exact hp

theorem releaseSlot {s : State} (hp : P s) (k : Nat) : P (s.releaseSlot k) := by
  unfold State.releaseSlot
  split_ifs
  · exact h.net _ _ (h.onSlot (h.engines _ _ hp) _ _)
  · exact hp

theorem scrubStep {s : State} (hp : P s) (e : Nat) : P (s.scrubStep e) := h.onEngine hp _ _

/-! ### Scenes -/

theorem endLoad {s : State} (hp : P s) (l : LoadRecord) (o : Answer) (d : Nat) : P (s.endLoad l o d) :=
  h.loader _ _ (h.raise (by decide) _ (h.answerHeld hp _ _ _))

theorem faultLoad {s : State} (hp : P s) (l : LoadRecord) (c i : Nat) : P (s.faultLoad l c i) :=
  h.endLoad (h.forgetComputation (h.onSlot hp _ _) _) _ _ _

theorem endCopy {s : State} (hp : P s) (l : LoadRecord) : P (s.endCopy l) := by
  unfold State.endCopy
  split_ifs
  · exact h.faultLoad hp _ _ _
  · split
    · exact h.faultLoad hp _ _ _
    · exact h.request (h.loader _ _ (h.onSlot hp _ _)) _

theorem loaderStep {s : State} (hp : P s) : P s.loaderStep := by
  unfold State.loaderStep
  split
  · exact hp
  · split
    · exact hp
    · dsimp only
      split_ifs
      · exact h.endCopy (h.loader _ _ (h.onSlot hp _ _)) _
      · exact h.loader _ _ (h.onSlot hp _ _)

theorem completeLoad {s : State} (hp : P s) : P s.completeLoad := by
  unfold State.completeLoad
  split
  · exact hp
  · exact h.endLoad (h.onSlot hp _ _) _ _ _

theorem abortLoad {s : State} (hp : P s) (k : Nat) : P (s.abortLoad k) := by
  unfold State.abortLoad
  split
  · exact hp
  · exact h.endLoad (h.forgetLoad (h.onSlot hp _ _) _) _ _ _

theorem cueLoadScene {s : State} (hp : P s) (k : Nat) (bs : List Byte) : P (cueLoadScene k bs s) := by
  unfold Machine.cueLoadScene
  dsimp only
  split_ifs
  iterate 4 exact h.answer hp _ _ _ _
  exact h.dropWork (h.loader _ _ (h.onSlot hp _ _)) _

theorem cueVacateScene {s : State} (hp : P s) (k : Nat) (bs : List Byte) : P (cueVacateScene k bs s) := by
  unfold Machine.cueVacateScene
  dsimp only
  split
  · exact h.answer hp _ _ _ _
  · split
    · exact h.answer hp _ _ _ _
    · exact h.answer hp _ _ _ _
    · split
      · exact h.answer hp _ _ _ _
      · exact h.answer (h.onSlot hp _ _) _ _ _ _
    · exact h.answer (h.onSlot hp _ _) _ _ _ _
    · exact h.answer hp _ _ _ _
    · exact h.answer (h.abortLoad hp _) _ _ _ _

theorem cueClearStatus {s : State} (hp : P s) (k : Nat) (bs : List Byte) : P (cueClearStatus k bs s) := by
  unfold Machine.cueClearStatus
  dsimp only
  split_ifs
  · exact h.answer hp _ _ _ _
  · exact h.answer (h.onSlot hp _ _) _ _ _ _

/-! ### Changeovers -/

theorem standClaim {s : State} (hp : P s) : P s.standClaim := h.stand _ hp
theorem setSlotState {s : State} (hp : P s) (k : Nat) (v : SlotState) : P (s.setSlotState k v) := h.onSlot hp _ _
theorem clearPersistence {s : State} (hp : P s) : P s.clearPersistence := h.mics _ _ hp
theorem startClosing {s : State} (hp : P s) (k : Nat) : P (s.startClosing k) := h.dropWork (h.tails _ _ hp) _

theorem cutSlot {s : State} (hp : P s) (k : Nat) : P (s.cutSlot k) := by
  unfold State.cutSlot
  split_ifs
  · exact h.trans _ _ (h.startClosing hp _)
  · exact hp

theorem endTail {s : State} (hp : P s) (k : Nat) : P (s.endTail k) :=
  h.tails _ _ (h.setSlotState (h.releaseSlot hp _) _ _)

theorem tailStep {s : State} (hp : P s) (k : Nat) : P (s.tailStep k) := by
  unfold State.tailStep
  split
  · exact hp
  · split
    · split_ifs
      · exact h.startClosing hp _
      · exact h.tails _ _ hp
    · dsimp only
      split_ifs
      · exact h.endTail (h.onPlay (h.tails _ _ hp) _ _) _
      · exact h.onPlay (h.tails _ _ hp) _ _

theorem drainSource {s : State} (hp : P s) (k : Nat) : P (s.drainSource k) := h.tails _ _ (h.drainSlot hp _)

theorem retire {s : State} (hp : P s) (k : Option Nat) : P (s.retire k) := by
  unfold State.retire
  split
  · exact h.setSlotState hp _ _
  · exact hp

theorem fadeSlot {s : State} (hp : P s) (k : Option Nat) (f : Play → Play) : P (s.fadeSlot k f) := by
  unfold State.fadeSlot
  split
  · exact h.onPlay hp _ _
  · exact hp

theorem claimTarget {s : State} (hp : P s) (t : Transition) (k : Nat) (r : SceneRecord) : P (s.claimTarget t k r) := by
  unfold State.claimTarget
  dsimp only
  refine h.trans _ _ ?_
  split_ifs
  · exact h.retire (h.setSlotState (h.claimSlot hp _ _ _) _ _) _
  · exact h.setSlotState (h.claimSlot hp _ _ _) _ _

theorem tryClaim {s : State} (hp : P s) : P s.tryClaim := by
  unfold State.tryClaim
  split
  · split
    · split
      · split_ifs
        · exact h.claimTarget hp _ _ _
        · exact hp
      · exact hp
    · exact hp
  · exact hp

theorem cutWalk (n : Nat) : ∀ (l : List Nat) (r : Nat) {s : State}, P s → P (cutWalk n l r s)
  | [], _, _, hp => hp
  | k :: l, r, s, hp => by
    unfold Machine.cutWalk
    split_ifs
    · exact hp
    · exact cutWalk n l _ (h.cutSlot hp _)
    · exact cutWalk n l _ hp

theorem plan {s : State} (hp : P s) : P s.plan := by
  unfold State.plan
  split
  · split
    · split
      · dsimp only
        split_ifs
        · exact h.claimTarget hp _ _ _
        · exact h.standClaim (h.cutWalk _ _ _ (h.trans _ _ hp))
        · exact h.retire (foldl_keeps (P := P) (fun _ k hp => h.cutSlot hp k) _ _ (h.trans _ _ hp)) _
      · exact hp
    · exact hp
  · exact hp

theorem finishChangeover {s : State} (hp : P s) (t : Transition) : P (s.finishChangeover t) :=
  h.trans _ _ (h.clearPersistence (h.raise (by decide) _ (h.answerHeld hp _ _ _)))

theorem endChangeover {s : State} (hp : P s) (t : Transition) : P (s.endChangeover t) := by
  unfold State.endChangeover
  split
  · exact h.finishChangeover (h.drainSource hp _) _
  · exact h.finishChangeover hp _

theorem endOut {s : State} (hp : P s) (t : Transition) : P (s.endOut t) := by
  unfold State.endOut
  dsimp only
  refine h.standClaim (h.trans _ _ ?_)
  split
  · exact h.setSlotState (h.releaseSlot hp _) _ _
  · exact hp

theorem fadeStep {s : State} (hp : P s) : P s.fadeStep := by
  unfold State.fadeStep
  split
  · exact hp
  · dsimp only
    split
    · split_ifs
      · exact h.endChangeover (h.fadeSlot (h.fadeSlot (h.trans _ _ hp) _ _) _ _) _
      · exact h.fadeSlot (h.fadeSlot (h.trans _ _ hp) _ _) _ _
    · split_ifs
      · exact h.endOut (h.fadeSlot (h.trans _ _ hp) _ _) _
      · exact h.fadeSlot (h.trans _ _ hp) _ _
    · split_ifs
      · exact h.endChangeover (h.fadeSlot (h.trans _ _ hp) _ _) _
      · exact h.fadeSlot (h.trans _ _ hp) _ _
    · exact hp
    · exact hp

theorem supersede {s : State} (hp : P s) (t : Transition) : P (s.supersede t) :=
  h.forgetChangeover (h.trans _ _ (h.answerHeld hp _ _ _))

theorem acceptGo {s : State} (hp : P s) (k : Nat) (target : Option Nat) (f : Nat) (c : Bool) :
    P (s.acceptGo k target f c) := by
  unfold State.acceptGo
  dsimp only
  split
  · exact h.request (h.trans _ _ hp) _
  · exact h.retire (h.trans _ _ hp) _

theorem cueGo {s : State} (hp : P s) (k : Nat) (bs : List Byte) : P (cueGo k bs s) := by
  unfold Machine.cueGo
  dsimp only
  split_ifs
  any_goals exact h.answer hp _ _ _ _
  all_goals
    split
    · exact h.acceptGo hp _ _ _ _
    · split_ifs
      · exact h.acceptGo (h.supersede hp _) _ _ _ _
      · exact h.answer hp _ _ _ _

theorem stopSlot {s : State} (hp : P s) (k : Nat) : P (s.stopSlot k) := by
  unfold State.stopSlot
  split_ifs
  · exact h.setSlotState (h.releaseSlot hp _) _ _
  · exact hp

theorem abortTransition {s : State} (hp : P s) : P s.abortTransition := by
  unfold State.abortTransition
  split
  · exact h.forgetChangeover (h.trans _ _ (h.answerHeld hp _ _ _))
  · exact hp

theorem stopChangeovers {s : State} (hp : P s) : P s.stopChangeovers :=
  h.tails _ _ (foldl_keeps (P := P) (fun _ k hp => h.stopSlot hp k) _ _ (h.abortTransition hp))

/-! ### Conditioning and guard -/

theorem onMic {s : State} (hp : P s) (m : Nat) (f : Mic → Mic) : P (s.onMic m f) := h.mics _ _ hp
theorem stepTrimGlide {s : State} (hp : P s) (m : Nat) : P (s.stepTrimGlide m) := h.onDue hp _ fun _ hp => h.onMic hp _ _
theorem stepFallbackGlide {s : State} (hp : P s) (m : Nat) : P (s.stepFallbackGlide m) :=
  h.onDue hp _ fun _ hp => h.onMic hp _ _

theorem setPhi {s : State} (hp : P s) (m v : Nat) : P (s.setPhi m v) := by
  unfold State.setPhi
  split_ifs
  · exact hp
  · exact h.onMic (h.stepFallbackGlide hp _) _ _

theorem cueLoadMicTable {s : State} (hp : P s) (k : Nat) (bs : List Byte) : P (cueLoadMicTable k bs s) := by
  unfold Machine.cueLoadMicTable
  dsimp only
  split_ifs
  · exact h.answer hp _ _ _ _
  · split
    · exact h.answer hp _ _ _ _
    · exact h.answer (h.mics _ _ (foldl_keeps (P := P) (fun _ m hp => h.stepTrimGlide hp m) _ _ hp)) _ _ _ _

theorem stepDepthGlide {s : State} (hp : P s) (n : Nat) : P (s.stepDepthGlide n) :=
  h.onDue hp _ fun _ hp => h.guard _ _ hp

theorem changeEntry {s : State} (hp : P s) (n : Nat) (f : Notch → Notch) : P (s.changeEntry n f) :=
  h.judge (by decide) _ _ (h.guard _ _ (h.stepDepthGlide hp _))

theorem setBeta {s : State} (hp : P s) (v : Nat) : P (s.setBeta v) := h.judge (by decide) _ _ (h.guard _ _ hp)
theorem touch {s : State} (hp : P s) (m : Nat) : P (s.touch m) := h.guard _ _ (h.onMic hp _ _)

theorem fallbackStep {s : State} (hp : P s) (m : Nat) : P (s.fallbackStep m) :=
  h.raise (by decide) _ (h.touch (h.setBeta (h.setPhi hp _ _) _) _)

theorem displace {s : State} (hp : P s) (v : Nat) : P (s.displace v) :=
  h.fallbackStep (h.raise (by decide) _ hp) _

theorem openAnalysis {s : State} (hp : P s) : P s.openAnalysis := h.guard _ _ hp

theorem persistMic {acc : State × List (Nat × Nat)} (hp : P acc.1) (m : Nat) : P (persistMic acc m).1 := by
  unfold Machine.persistMic
  dsimp only
  split_ifs
  · exact h.guard _ _ (h.raise (by decide) _ (h.touch (h.onMic (h.onMic hp _ _) _ _) _))
  · exact h.onMic hp _ _

theorem setFloating {s : State} (hp : P s) (n m b : Nat) : P (s.setFloating n m b) := h.changeEntry hp _ _

theorem actOn {s : State} (hp : P s) (c : Nat × Nat) : P (s.actOn c) := by
  unfold State.actOn
  split
  · split_ifs
    · exact h.changeEntry hp _ _
    · exact h.fallbackStep hp _
  · split
    · exact h.setFloating hp _ _ _
    · split
      · exact h.setFloating (h.displace hp _) _ _ _
      · exact h.fallbackStep hp _

theorem fourStages {s : State} (hp : P s) : P s.fourStages := by
  have h1 := foldl_keeps (P := fun acc : State × List (Nat × Nat) => P acc.1) (fun _ m hp => h.persistMic hp m)
    (List.range Config.microphones) (s.openAnalysis, []) (h.openAnalysis hp)
  exact foldl_keeps (P := P) (fun _ c hp => h.actOn hp c) _ _ h1

theorem holdStep {s : State} (hp : P s) (n : Nat) : P (s.holdStep n) := by
  unfold State.holdStep
  dsimp only
  split_ifs
  iterate 3 exact h.changeEntry hp _ _
  exact hp

theorem quietStep {s : State} (hp : P s) (m : Nat) : P (s.quietStep m) := by
  unfold State.quietStep
  dsimp only
  split_ifs
  · exact h.onMic (h.setPhi hp _ _) _ _
  · exact h.onMic hp _ _

theorem deviceQuietStep {s : State} (hp : P s) : P s.deviceQuietStep := by
  unfold State.deviceQuietStep
  split_ifs
  · exact h.guard _ _ hp
  · exact h.setBeta (h.guard _ _ hp) _
  · exact h.guard _ _ hp

theorem betaRequestStep {s : State} (hp : P s) : P s.betaRequestStep := by
  unfold State.betaRequestStep
  dsimp only
  split_ifs
  · exact h.guard _ _ (h.requestLive hp _)
  · exact h.guard _ _ hp

theorem cueSetGuard {s : State} (hp : P s) (k : Nat) (bs : List Byte) : P (cueSetGuard k bs s) := by
  unfold Machine.cueSetGuard
  dsimp only
  exact h.answer (h.clearPersistence (h.guard _ _ hp)) _ _ _ _

theorem freeOthers {s : State} (hp : P s) (x m b : Nat) : P (s.freeOthers x m b) := by
  refine foldl_keeps (P := P) (fun s n hp => ?_) _ _ hp
  split_ifs
  · exact h.changeEntry hp _ _
  · exact hp

theorem cueFixNotch {s : State} (hp : P s) (k : Nat) (bs : List Byte) : P (cueFixNotch k bs s) := by
  unfold Machine.cueFixNotch
  dsimp only
  split_ifs
  · exact h.answer hp _ _ _ _
  · exact h.answer hp _ _ _ _
  · split
    · exact h.answer (h.freeOthers (h.changeEntry hp _ _) _ _ _) _ _ _ _
    · split
      · exact h.answer (h.changeEntry hp _ _) _ _ _ _
      · split
        · refine h.answer ?_ _ _ _ _
          split_ifs
          · exact h.requestLive (h.changeEntry (h.displace hp _) _ _) _
          · exact h.changeEntry (h.displace hp _) _ _
        · exact h.answer hp _ _ _ _

theorem cueClearNotch {s : State} (hp : P s) (k : Nat) (bs : List Byte) : P (cueClearNotch k bs s) := by
  unfold Machine.cueClearNotch
  dsimp only
  split_ifs
  · exact h.answer hp _ _ _ _
  · exact h.answer (h.changeEntry hp _ _) _ _ _ _
  · exact h.answer hp _ _ _ _

theorem freeFloating {s : State} (hp : P s) : P s.freeFloating := by
  refine foldl_keeps (P := P) (fun s n hp => ?_) _ _ hp
  split_ifs
  · exact h.changeEntry hp _ _
  · exact hp

theorem cueClearGuard {s : State} (hp : P s) (k : Nat) (bs : List Byte) : P (cueClearGuard k bs s) := by
  unfold Machine.cueClearGuard
  dsimp only
  have h1 := foldl_keeps (P := P) (fun _ m hp => h.setPhi hp m 0) (List.range Config.microphones) _ (h.freeFloating hp)
  refine h.answer (h.guard _ _ (h.mics _ _ ?_)) _ _ _ _
  split_ifs
  · exact h.requestLive (h.setBeta h1 _) _
  · exact h1

/-! ### Trim, lock -/

theorem cueTrim {s : State} (hp : P s) (k : Nat) (bs : List Byte) : P (cueTrim k bs s) := by
  unfold Machine.cueTrim
  dsimp only
  refine h.answer ?_ _ _ _ _
  have h1 : P (if (u8 bs 12).testBit 0 = true then
      s.trimTau (clamp (-500) 500 (s16 bs 13)).1 (clamp 1 3000 (u16 bs 17)).1.toNat else s) := by
    split_ifs
    · exact h.requestLive (h.coef _ _ hp) _
    · exact hp
  generalize (if (u8 bs 12).testBit 0 = true then
      s.trimTau (clamp (-500) 500 (s16 bs 13)).1 (clamp 1 3000 (u16 bs 17)).1.toNat else s) = s1 at h1 ⊢
  split_ifs
  · exact h.coef _ _ (h.stepEpsilon h1)
  · exact h1

theorem cueSetKey {s : State} (hp : P s) (k : Nat) (bs : List Byte) : P (cueSetKey k bs s) := by
  unfold Machine.cueSetKey
  split_ifs
  · exact h.answer hp _ _ _ _
  · exact h.answer (h.key _ _ hp) _ _ _ _

theorem cueLock {s : State} (hp : P s) (k : Nat) (bs : List Byte) : P (cueLock k bs s) := by
  unfold Machine.cueLock
  split
  · exact h.answer hp _ _ _ _
  · rename_i hk
    split_ifs
    · exact h.answer hp _ _ _ _
    · exact h.answer hp _ _ _ _
    · exact h.answer (h.locked _ hp (by rw [hk]; rfl)) _ _ _ _

theorem cueUnlock {s : State} (hp : P s) (k : Nat) (bs : List Byte) : P (cueUnlock k bs s) := by
  unfold Machine.cueUnlock
  split_ifs with h1 h2 h3
  · exact h.answer hp _ _ _ _
  · exact h.answer hp _ _ _ _
  · exact h.raise (by decide) _ (h.answer (h.refused _ hp (by simpa using h1) (by omega)) _ _ _ _)
  · exact h.answer (h.unlocked _ hp (by omega)) _ _ _ _

/-! ### Lanes, clock, mode, publication, meters -/

theorem lanesStep {s : State} (hp : P s) : P s.lanesStep :=
  h.lanes _ _ (h.judge (by decide) _ _ (h.mics _ _ hp))

theorem judgeClock {s : State} (hp : P s) : P s.judgeClock := h.judge (by decide) _ _ hp
theorem resyncStep {s : State} (hp : P s) : P s.resyncStep := h.judgeClock (h.clock _ _ hp)

theorem settleRamp {s : State} (hp : P s) : P s.settleRamp := by
  unfold State.settleRamp
  split_ifs
  · exact h.onDue hp _ fun _ hp => h.clock _ _ hp
  · exact h.onDue hp _ fun _ hp => h.resyncStep hp

theorem settleClock {s : State} (hp : P s) : P s.settleClock := by
  unfold State.settleClock
  dsimp only
  split
  · exact h.judgeClock (h.clock _ _ (h.judgeClock hp))
  · exact h.judgeClock hp

theorem takeSource {s : State} (hp : P s) : P s.takeSource := by
  unfold State.takeSource
  split
  · split_ifs
    · exact h.settleClock (h.clock _ _ (h.settleRamp hp))
    · exact hp
  · exact hp

theorem takeResync {s : State} (hp : P s) : P s.takeResync := by
  unfold State.takeResync
  split_ifs
  · exact h.settleClock (h.clock _ _ (h.settleRamp hp))
  · exact hp

theorem takeClock {s : State} (hp : P s) : P s.takeClock :=
  h.clock _ _ (h.takeResync (h.takeSource (h.judgeClock hp)))

theorem endModeRamp {s : State} (hp : P s) : P s.endModeRamp := by
  unfold State.endModeRamp
  split_ifs
  · exact h.stopChangeovers (h.mode _ _ hp)
  · exact hp

theorem modeStep {s : State} (hp : P s) : P s.modeStep := by
  unfold State.modeStep
  split
  · exact hp
  · dsimp only
    split_ifs
    · exact h.endModeRamp (h.mode _ _ hp)
    · exact h.mode _ _ hp

theorem takeMode {s : State} (hp : P s) : P s.takeMode := by
  unfold State.takeMode
  split
  · exact hp
  · rename_i m _
    have h1 : P (if (decide (s.mode.mode = EngineMode.active) && m != EngineMode.active) = true then s.clearPersistence
        else s) := by
      split_ifs
      · exact h.clearPersistence hp
      · exact hp
    dsimp only
    generalize (if (decide (s.mode.mode = EngineMode.active) && m != EngineMode.active) = true then s.clearPersistence
        else s) = s1 at h1 ⊢
    have h2 : P (((s1.setMode { s1.mode with mode := m }).markField 0x002).onDue .modeRamp State.modeStep) :=
      h.onDue (h.changed _ _ (h.mode _ _ h1)) _ fun _ hp => h.modeStep hp
    split_ifs
    · exact h.endModeRamp (h.mode _ _ h2)
    · exact h.mode _ _ h2

theorem writeChanged (c : Nat) (old new : List (Nat × List Byte)) {s : State} (hp : P s) :
    P (s.setRam (writeChanged c old new s.ram)) := by
  induction new generalizing old s with
  | nil => cases old <;> exact hp
  | cons n new ih =>
    cases old with
    | nil => exact ih [] (h.ram _ n.1 n.2 hp)
    | cons o old =>
      simp only [Machine.writeChanged]
      split_ifs
      · exact ih old hp
      · exact ih old (h.ram _ n.1 n.2 hp)

theorem writeFields (fields : List (Nat × List Byte)) {s : State} (hp : P s) :
    P (s.setRam (writeFields fields s.ram)) := by
  induction fields generalizing s with
  | nil => exact hp
  | cons f fields ih => exact ih (h.ram _ f.1 f.2 hp)

theorem publish {s : State} (hp : P s) : P s.publish := by
  unfold State.publish
  dsimp only
  exact h.changed _ _ (h.shown _ _ (h.writeChanged _ _ _ (h.mics _ _ (h.guard _ _ hp))))

theorem metersStep {s : State} (hp : P s) : P s.metersStep := h.meters _ _ (h.writeFields _ hp)

/-! ### The cue unit -/

theorem refuseSlot (p : Word16 → Bool) (o : Answer) {s : State} (hp : P s) (k : Nat) : P (refuseSlot p o s k) := by
  unfold Machine.refuseSlot
  split_ifs
  · exact h.answer hp _ _ _ _
  · exact hp

theorem refuseAll (p : Word16 → Bool) (o : Answer) {s : State} (hp : P s) : P (s.refuseAll p o) :=
  foldl_keeps (P := P) (fun _ k hp => h.refuseSlot p o hp k) _ _ hp

theorem scanRefuse {s : State} (hp : P s) : P s.scanRefuse := h.refuseAll _ _ (h.refuseAll _ _ hp)

theorem executeCue (kind : CueKind) (k : Nat) (bs : List Byte) {s : State} (hp : P s) : P (executeCue kind k bs s) := by
  cases kind <;> simp only [Machine.executeCue]
  · exact h.answer hp _ _ _ _
  · exact h.cueLoadScene hp _ _
  · exact h.cueVacateScene hp _ _
  · exact h.cueGo hp _ _
  · exact h.cueTrim hp _ _
  · exact h.cueClearStatus hp _ _
  · exact h.cueLoadMicTable hp _ _
  · exact h.cueSetGuard hp _ _
  · exact h.cueFixNotch hp _ _
  · exact h.cueClearNotch hp _ _
  · exact h.cueClearGuard hp _ _
  · exact h.cueLock hp _ _
  · exact h.cueUnlock hp _ _
  · exact h.cueSetKey hp _ _

theorem dispatchCue (k : Nat) (bs : List Byte) {s : State} (hp : P s) : P (dispatchCue k bs s) := by
  unfold Machine.dispatchCue
  split_ifs
  · exact h.answer hp _ _ _ _
  · split
    · exact h.answer hp _ _ _ _
    · split_ifs
      · exact h.answer hp _ _ _ _
      · exact h.answer hp _ _ _ _
      · exact h.executeCue _ _ _ hp

theorem takeCopy {s : State} (hp : P s) (k : Nat) : P (s.takeCopy k) :=
  h.advance _ (h.ram _ _ _ (h.taken _ k _ hp))

theorem takeSlot {s : State} (hp : P s) (k : Nat) : P (s.takeSlot k) := by
  unfold State.takeSlot
  split_ifs
  · exact h.advance _ (h.answer hp _ _ _ _)
  · exact h.dispatchCue _ _ (h.takeCopy hp _)

theorem takeNext {s : State} (hp : P s) : P s.takeNext := by
  unfold State.takeNext
  split
  · exact h.takeSlot hp _
  · exact h.dropWork hp _

theorem gapStep {s : State} (hp : P s) : P s.gapStep := by
  unfold State.gapStep
  split
  · exact h.gap _ _ hp
  · split
    · exact h.gap _ _ hp
    · split
      · exact h.raise (by decide) _ (h.gap _ _ hp)
      · exact h.gap _ _ hp

/-! ### The works -/

theorem complete {s : State} (hp : P s) : P s.complete := by
  unfold State.complete
  split
  · exact hp
  · rename_i c _
    have h1 := h.applyResults hp c
    have h2 : P ((s.applyResults c).tellLoader c) := by
      unfold State.tellLoader
      split_ifs
      · exact h.completeLoad h1
      · exact h1
    have h3 : P (((s.applyResults c).tellLoader c).tellChangeover c) := by
      unfold State.tellChangeover
      split_ifs
      · exact h.plan h2
      · exact h2
    exact h.pick (h.coef _ _ h3)

/-- Every work of a frame boundary but an analysis. -/
theorem perform (w : Work) (hw : w ≠ .analysis) {s : State} (hp : P s) : P (s.perform w) := by
  cases w
  case refuse => exact h.scanRefuse hp
  case take => exact h.takeNext hp
  case gap => exact h.gapStep hp
  case copy => exact h.loaderStep hp
  case compute => exact h.complete hp
  case fade => exact h.fadeStep hp
  case claim => exact h.tryClaim hp
  case tail k => exact h.tailStep hp k
  case scrub e => exact h.scrubStep hp e
  case lockout => exact h.lockout _ hp
  case lanes => exact h.lanesStep hp
  case modeRamp => exact h.modeStep hp
  case modeTake => exact h.takeMode hp
  case resyncRamp => exact h.resyncStep hp
  case clockTake => exact h.takeClock hp
  case analysis => exact absurd rfl hw
  case hold n => exact h.holdStep hp n
  case quiet m => exact h.quietStep hp m
  case deviceQuiet => exact h.deviceQuietStep hp
  case betaRequest => exact h.betaRequestStep hp
  case meters => exact h.metersStep hp
  case decayGlide e b => exact h.onEngine hp _ _
  case epsGlide => exact h.coef _ _ hp
  case trimGlide m => exact h.onMic hp _ _
  case fallbackGlide m => exact h.onMic hp _ _
  case depthGlide n => exact h.guard _ _ hp
  case publish => exact h.publish hp

end WorkClosed
end

variable {P : State → Prop} (h : WorksClosed P)
include h

namespace WorksClosed

theorem beginAnalysis {s : State} (hp : P s) : P s.beginAnalysis := by
  unfold State.beginAnalysis
  split_ifs
  · exact h.stages _ (h.toWorkClosed.fourStages hp)
  · exact hp

/-- Every work of a frame boundary. -/
theorem perform (w : Work) {s : State} (hp : P s) : P (s.perform w) := by
  by_cases hw : w = .analysis
  · subst hw; exact h.beginAnalysis hp
  · exact h.toWorkClosed.perform w hw hp

theorem doOne {s : State} (hp : P s) (w : Work) : P (s.doOne w) := h.toWorkClosed.onDue hp w fun _ hp => h.perform w hp

theorem doWork {s : State} (hp : P s) (w : Work) : P (s.doWork w) := by
  unfold State.doWork
  split_ifs
  · exact hp
  · exact foldl_keeps (P := P) (fun _ w hp => h.doOne hp w) _ _ hp
  · exact hp

theorem runAll (n : Nat) {s : State} (hp : P s) : P (s.runAll n) := by
  induction n generalizing s with
  | zero => exact hp
  | succ n ih =>
    unfold State.runAll
    split
    · exact hp
    · exact ih (h.doWork hp _)

theorem settle {s : State} (hp : P s) : P s.settle := h.runAll _ hp

/-- A cue row, an event row. -/
theorem eventWork {s : State} (hp : P s) (w : Work) (c : Bool) : P (s.eventWork w c) := by
  unfold State.eventWork
  split_ifs
  · exact h.doWork hp _
  · exact hp

theorem takeRow (k c : Nat) {s : State} (hp : P s) : P (s.takeRow k c) := by
  unfold State.takeRow
  split
  · dsimp only
    split
    · exact h.doOne (foldl_keeps (P := P) (fun _ w hp => h.doOne hp w) _ _ hp) _
    · exact hp
  · exact hp

end WorksClosed

end Sys2Proof.Machine
end

