-- ==== Sys2Proof/Laws/Commands.lean ====
section
/-! SUPPORT. Everything a command can do, said once: whatever holds of a state and survives the updates listed in `Closed`
survives every command and every step. -/

namespace Sys2Proof.Machine

/-- `P` survives each update that a command is made of; no command changes the queue. -/
structure Closed (P : State → Prop) : Prop extends WorksClosed P where
  todo : ∀ s v, P s → P (s.setTodo v)
  erase := fun s _ hp => todo s _ hp
  drop := fun s _ hp => todo s _ hp
  stand := fun s hp => todo s _ hp
  stages := fun s hp => todo s _ hp
  ramClear : ∀ s lo hi, P s → P (s.setRam (sparseClear lo hi s.ram))
  runctl : ∀ s v, P s → P (s.setRunctl v)
  opened : ∀ s, P s → P (s.setCues { s.cues with tookNow := false })
  silent : ∀ s, P s → P (s.setOutputs { s.outputs with formed := List.replicate Config.speakers 0 })
  formed : ∀ s (l : List Int), P s → P (s.setOutputs { s.outputs with formed := l.map satSpeaker })
  sent : ∀ s, P s → P (s.setOutputs { s.outputs with sent := s.outputs.formed })
  clipped : ∀ s d, P s → P (s.setAtt (s.att.change Source.outputClip.index (Notice.occurKeeping d s.frame)))
  hostClear : ∀ s v, P s → P (s.setAtt (s.att.hostClear v))
  mask : ∀ s (v : Word32), P s → P (s.writeMask v)
  messages : ∀ s b, P s → P (s.setAtt { s.att with messagesEnabled := b })
  frame : ∀ s, P s → P (s.setFrame (s.frame + 1))
  framePos : ∀ s v, P s → P (s.setFramePos v)
  held : ∀ s, P s → P s.hold
  release : ∀ s, P s → P (State.reset.setPending s.pending)
  cleared : ∀ s, P s → P s.cleared

theorem State.setRam_setRam (s : State) (x y : List Host.Cell) : (s.setRam x).setRam y = s.setRam y := rfl

/-- A meaning that waits for the reset pin answers a next state in which what survives its effect holds. -/
theorem released_next {P : State → Prop} {s t : State} {f : State → State} (hp : P s) (hf : P s → P (f s))
    (e : s.released f = .next t) : P t := by
  unfold State.released at e
  simp only [Host.Outcome.next.injEq] at e
  subst e
  split
  · exact hp
  · exact hf hp

/-- A meaning that names a unit. -/
theorem forUnit_next {P : State → Prop} {s t : State} {b : Bool} {f : State → State} (hp : P s) (hf : P s → P (f s))
    (e : s.forUnit b f = .next t) : P t := by
  unfold State.forUnit at e
  split at e
  · exact released_next hp hf e
  · cases e

variable {P : State → Prop} (h : Closed P)
include h

namespace Closed

theorem abortHeld {s : State} (hp : P s) (k : Nat) : P (abortHeld s k) := by
  unfold Machine.abortHeld
  split
  · rename_i bs _
    unfold answerWrite
    have h1 := h.ram _ (Config.cueSlotBase k + 6) (leBytes 2 (256 * u8 bs 1 + Answer.aborted.code)) hp
    have h2 := h.ram _ (Config.cueSlotBase k + 8) (leBytes 4 0) h1
    have h3 := h.ram _ (Config.cueSlotBase k) [3] h2
    exact h.toWorkClosed.raise (by decide) _ (h.letGo _ k h3)
  · exact hp

theorem abortAll {s : State} (hp : P s) : P s.abortAll := by
  unfold State.abortAll
  have h1 := foldl_keeps (P := P) (fun _ k hp => h.abortHeld hp k) (List.range Config.cueSlots) _ hp
  dsimp only
  split
  · exact h.toWorkClosed.raise (by decide) _ h1
  · exact h1

theorem rewrite {s : State} (hp : P s) : P s.rewrite := by
  have h1 := h.ramClear _ 0x02000 0x04000 (h.ramClear _ 0x00000 0x01000 hp)
  have h2 := h.toWorkClosed.writeFields s.view (h.toWorkClosed.writeFields fixedNoticeBytes h1)
  simp only [State.setRam_ram, State.setRam_setRam] at h2
  exact h.shown _ _ h2

theorem engineReset {s : State} (hp : P s) : P s.engineReset := h.rewrite (h.cleared _ (h.abortAll hp))

theorem writeRunctl {s : State} (hp : P s) (v : Word32) : P (s.writeRunctl v) := by
  unfold State.writeRunctl
  split
  · exact h.engineReset hp
  · exact h.clock _ _ (h.mode _ _ (h.runctl _ _ hp))

theorem writeAttn {s : State} (hp : P s) (v : Word32) : P (s.writeAttn v) := by
  unfold State.writeAttn
  dsimp only
  split
  · exact h.net _ _ (h.hostClear _ _ hp)
  · exact h.hostClear _ _ hp

theorem writeRegister {s : State} (hp : P s) (o n : Nat) (v : Word32) : P (s.writeRegister o n v) := by
  unfold State.writeRegister
  split_ifs
  · exact hp
  · exact h.writeRunctl hp v
  · exact h.writeAttn hp v
  · exact h.mask _ v hp
  · exact hp

theorem clip {s : State} (hp : P s) (x : Nat) : P (s.clip x) := by
  unfold State.clip
  dsimp only
  split
  · simp only [State.raise, if_true]
    exact h.clipped _ _ (h.net _ _ hp)
  · exact h.net _ _ hp

theorem networkStep {s : State} (hp : P s) (first : Nat) (xs : List Int) : P (s.networkStep first xs) := by
  unfold State.networkStep
  split
  · exact h.silent _ hp
  · exact foldl_keeps (P := P) (fun _ x hp => h.clip hp x) _ _ (h.formed _ _ (h.engines _ _ hp))

theorem openBoundary {s : State} (hp : P s) : P s.openBoundary := by
  unfold State.openBoundary
  dsimp only
  exact h.todo _ _ (h.opened _ (h.framePos _ _ (h.frame _ (h.toWorksClosed.settle hp))))

theorem boundary {s : State} (hp : P s) (o : List Work) (l : Bool) : P (s.boundary o l) := by
  have h1 := foldl_keeps (P := P) (fun _ w hp => h.toWorksClosed.doWork hp w) o _ (h.openBoundary hp)
  unfold State.boundary
  dsimp only
  split
  · exact h1
  · exact h.toWorksClosed.settle h1

theorem beforeSample {s : State} (hp : P s) : P s.beforeSample := by
  unfold State.beforeSample
  split
  · exact h.boundary hp _ _
  · exact h.toWorksClosed.settle hp

theorem samplePeriod {s : State} (hp : P s) (first : Nat) : P (s.samplePeriod first) := by
  unfold State.samplePeriod
  dsimp only
  have h1 : P s.beforeSample.takeLanes.2 := h.lanes _ _ (h.beforeSample hp)
  have h2 : P (s.beforeSample.takeLanes.2.condition s.beforeSample.takeLanes.1).2 := h.guard _ _ (h.mics _ _ h1)
  exact h.framePos _ _ (h.meters _ _ (h.networkStep (h.sent _ h2) _ _))

/-- What every command keeps. -/
theorem exec {c : Instr} {s t : State} (hp : P s) (e : exec c s = .next t) : P t := by
  have w := h.toWorksClosed
  cases c with
  | powerOnReset b =>
    simp only [Machine.exec, execPowerOnReset, Host.Outcome.next.injEq] at e
    subst e
    split_ifs
    · exact h.held _ hp
    · exact h.release _ hp
    · exact hp
  | engineReset r => exact released_next hp (fun hp => h.engineReset hp) e
  | modeRequest ev =>
    simp only [Machine.exec, execModeRequest] at e
    refine released_next hp (fun hp => ?_) e
    cases ev with
    | written v => exact h.writeRunctl hp v
    | taken => dsimp only; split_ifs <;> first | exact w.doWork hp _ | exact hp
  | clockSource ev =>
    simp only [Machine.exec, execClockSource] at e
    refine released_next hp (fun hp => ?_) e
    cases ev with
    | written v => exact h.writeRunctl hp v
    | taken => dsimp only; split_ifs <;> first | exact w.doWork hp _ | exact hp
  | resync ev =>
    simp only [Machine.exec, execResync] at e
    refine released_next hp (fun hp => ?_) e
    cases ev with
    | written v => exact h.writeRunctl hp v
    | taken => dsimp only; split_ifs <;> first | exact w.doWork hp _ | exact hp
  | attn v => exact released_next hp (fun hp => h.writeAttn hp v) e
  | attnmask v => exact released_next hp (fun hp => h.mask _ v hp) e
  | registerWrite o n v =>
    simp only [Machine.exec, execRegisterWrite] at e
    split at e
    · exact released_next hp (fun hp => h.writeRegister hp o n v) e
    · cases e
  | commonMemoryWrite o n v =>
    simp only [Machine.exec, execCommonMemoryWrite] at e
    split at e
    · split at e
      · exact released_next hp (fun hp => h.ram _ _ _ hp) e
      · cases e
    · cases e; exact hp
  | mark k => exact forUnit_next hp (fun hp => w.takeRow k _ hp) e
  | loadScene k => exact forUnit_next hp (fun hp => w.takeRow k _ hp) e
  | vacateScene k => exact forUnit_next hp (fun hp => w.takeRow k _ hp) e
  | go k => exact forUnit_next hp (fun hp => w.takeRow k _ hp) e
  | trim k => exact forUnit_next hp (fun hp => w.takeRow k _ hp) e
  | clearStatus k => exact forUnit_next hp (fun hp => w.takeRow k _ hp) e
  | loadMicTable k => exact forUnit_next hp (fun hp => w.takeRow k _ hp) e
  | setGuard k => exact forUnit_next hp (fun hp => w.takeRow k _ hp) e
  | fixNotch k => exact forUnit_next hp (fun hp => w.takeRow k _ hp) e
  | clearNotch k => exact forUnit_next hp (fun hp => w.takeRow k _ hp) e
  | clearGuard k => exact forUnit_next hp (fun hp => w.takeRow k _ hp) e
  | lock k => exact forUnit_next hp (fun hp => w.takeRow k _ hp) e
  | unlock k => exact forUnit_next hp (fun hp => w.takeRow k _ hp) e
  | setKey k => exact forUnit_next hp (fun hp => w.takeRow k _ hp) e
  | frameBoundary o l =>
    simp only [Machine.exec, execFrameBoundary] at e
    refine released_next hp (fun hp => ?_) e
    split
    · exact h.boundary hp o l
    · exact hp
  | cueGap => exact released_next hp (fun hp => w.eventWork hp _ _) e
  | copyEnd => exact released_next hp (fun hp => w.eventWork hp _ _) e
  | computationComplete => exact released_next hp (fun hp => w.doWork hp _) e
  | claim => exact released_next hp (fun hp => w.eventWork hp _ _) e
  | changeoverEnd => exact released_next hp (fun hp => w.eventWork hp _ _) e
  | outEnd => exact released_next hp (fun hp => w.eventWork hp _ _) e
  | holdExpiry k => exact forUnit_next hp (fun hp => w.eventWork hp _ _) e
  | closingEnd k => exact forUnit_next hp (fun hp => w.eventWork hp _ _) e
  | scrubEnd k => exact forUnit_next hp (fun hp => w.eventWork hp _ _) e
  | decayGlideEnd k b => exact forUnit_next hp (fun hp => w.eventWork hp _ _) e
  | epsilonGlideEnd => exact released_next hp (fun hp => w.eventWork hp _ _) e
  | trimGlideEnd m => exact forUnit_next hp (fun hp => w.eventWork hp _ _) e
  | fallbackGlideEnd m => exact forUnit_next hp (fun hp => w.eventWork hp _ _) e
  | notchDepthGlideEnd n => exact forUnit_next hp (fun hp => w.eventWork hp _ _) e
  | modeRampEnd => exact released_next hp (fun hp => w.eventWork hp _ _) e
  | resyncSwitch => exact released_next hp (fun hp => w.eventWork hp _ _) e
  | resyncUpEnd => exact released_next hp (fun hp => w.eventWork hp _ _) e
  | lockoutEnd => exact released_next hp (fun hp => w.eventWork hp _ _) e
  | analysis b =>
    refine released_next hp (fun hp => ?_) e
    dsimp only
    split_ifs
    · exact w.doWork hp _
    · exact foldl_keeps (P := P) (fun _ x hp => w.doOne hp x) _ _ (w.doWork hp _)
    · exact hp
  | notchHoldExpiry n => exact forUnit_next hp (fun hp => w.eventWork hp _ _) e
  | phiRecovery m => exact forUnit_next hp (fun hp => w.eventWork hp _ _) e
  | betaRecovery => exact released_next hp (fun hp => w.eventWork hp _ _) e
  | meterWrite => exact released_next hp (fun hp => w.doWork hp _) e
  | samplePeriod x => exact forUnit_next hp (fun hp => h.samplePeriod hp x) e
  | inputLaneFrame l bs => exact forUnit_next hp (fun hp => h.lanes _ _ hp) e
  | wordClockAbsent c =>
    simp only [Machine.exec, execWordClockAbsent] at e
    refine released_next hp (fun hp => ?_) e
    cases c <;> exact h.clock _ _ hp
  | wordClockPresent is =>
    simp only [Machine.exec, execWordClockPresent] at e
    exact released_next hp (fun hp => h.clock _ _ hp) e
  | interruptMessageEnable b =>
    simp only [Machine.exec, execInterruptMessageEnable] at e
    exact released_next hp (fun hp => h.messages _ b hp) e

/-- What every step keeps, when it does not depend on the queue. -/
theorem step (hq : ∀ s v, P s → P (s.setPending v)) {s t : State} (hp : P s) (e : step s = .next t) : P t := by
  unfold Machine.step at e
  split at e
  · cases e; exact hp
  · exact h.exec (hq _ _ hp) e

end Closed

end Sys2Proof.Machine
end

