-- ==== Sys2Proof/Laws/Due.lean ====
section
/-! SUPPORT. What a command does when its work is due: the one equation a proof about a command starts from. -/

namespace Sys2Proof.Machine

/-! ### Updates of the queue of works -/

@[simp] theorem doing_resetHeld (s : State) (w : Work) : (s.doing w).resetHeld = s.resetHeld := rfl
@[simp] theorem doing_ram (s : State) (w : Work) : (s.doing w).ram = s.ram := rfl
@[simp] theorem doing_cues (s : State) (w : Work) : (s.doing w).cues = s.cues := rfl
@[simp] theorem doing_slots (s : State) (w : Work) : (s.doing w).slots = s.slots := rfl
@[simp] theorem doing_loader (s : State) (w : Work) : (s.doing w).loader = s.loader := rfl
@[simp] theorem doing_coef (s : State) (w : Work) : (s.doing w).coef = s.coef := rfl
@[simp] theorem doing_engines (s : State) (w : Work) : (s.doing w).engines = s.engines := rfl
@[simp] theorem doing_net (s : State) (w : Work) : (s.doing w).net = s.net := rfl
@[simp] theorem doing_trans (s : State) (w : Work) : (s.doing w).trans = s.trans := rfl
@[simp] theorem doing_tails (s : State) (w : Work) : (s.doing w).tails = s.tails := rfl
@[simp] theorem doing_mics (s : State) (w : Work) : (s.doing w).mics = s.mics := rfl
@[simp] theorem doing_guard (s : State) (w : Work) : (s.doing w).guard = s.guard := rfl
@[simp] theorem doing_lanes (s : State) (w : Work) : (s.doing w).lanes = s.lanes := rfl
@[simp] theorem doing_clock (s : State) (w : Work) : (s.doing w).clock = s.clock := rfl
@[simp] theorem doing_mode (s : State) (w : Work) : (s.doing w).mode = s.mode := rfl
@[simp] theorem doing_lock (s : State) (w : Work) : (s.doing w).lock = s.lock := rfl
@[simp] theorem doing_att (s : State) (w : Work) : (s.doing w).att = s.att := rfl
@[simp] theorem doing_meters (s : State) (w : Work) : (s.doing w).meters = s.meters := rfl
@[simp] theorem doing_frame (s : State) (w : Work) : (s.doing w).frame = s.frame := rfl
@[simp] theorem doing_todo (s : State) (w : Work) : (s.doing w).todo = s.todo.erase w := rfl

/-! ### Doing a work -/

/-- A work that is not due is left alone. -/
theorem doOne_of_not_mem {s : State} {w : Work} (h : w ∉ s.todo) : s.doOne w = s := by
  simp only [State.doOne, State.onDue, if_neg h]

/-- A work that is due is done. -/
theorem doOne_of_mem {s : State} {w : Work} (h : w ∈ s.todo) : s.doOne w = (s.doing w).perform w := by
  simp only [State.doOne, State.onDue, if_pos h, State.doing]

/-- Works that are not due change nothing. -/
theorem foldl_doOne_of_not_mem {s : State} : ∀ {l : List Work}, (∀ w ∈ l, w ∉ s.todo) → l.foldl State.doOne s = s
  | [], _ => rfl
  | w :: l, h => by
    rw [List.foldl_cons, doOne_of_not_mem (h w (by simp))]
    exact foldl_doOne_of_not_mem fun x hx => h x (by simp [hx])

/-- A work that may be done now, and that no other must precede, is done alone. -/
theorem doWork_of_due {s : State} {w : Work} (h : s.due w) (ht : w ≠ .take) (hg : w ≠ .gap) (hp : w ≠ .publish) :
    s.doWork w = (s.doing w).perform w := by
  obtain ⟨_, hm, hs⟩ := h
  have hw : isStage w = false := by
    by_contra hc
    have : w ∈ s.todo.filter isStage := List.mem_filter.2 ⟨hm, by simpa using hc⟩
    simp [hs] at this
  simp only [State.doWork, if_pos hm, hp, false_and, if_false, State.worksBefore, hw, Bool.false_eq_true, hs]
  have h1 : (w == Work.take) = false := by simpa using ht
  have h2 : (w == Work.gap) = false := by simpa using hg
  simp [h1, h2, doOne_of_mem hm]

/-- The gap timer, once the refusals and the takes are done. -/
theorem doWork_gap {s : State} (h : s.due .gap) (hr : .refuse ∉ s.todo) (ht : .take ∉ s.todo) :
    s.doWork .gap = (s.doing .gap).gapStep := by
  obtain ⟨_, hm, hs⟩ := h
  have hp : s.worksBefore .gap = .refuse :: List.replicate 4 .take := by simp [State.worksBefore, isStage, hs]; rfl
  have h1 : (s.worksBefore .gap).foldl State.doOne s = s := by
    rw [hp]
    refine foldl_doOne_of_not_mem fun w hw => ?_
    simp only [List.mem_cons, List.mem_replicate] at hw
    rcases hw with rfl | ⟨_, rfl⟩
    · exact hr
    · exact ht
  simp only [State.doWork, if_pos hm, reduceCtorEq, false_and, if_false, List.foldl_append, h1]
  exact doOne_of_mem hm

/-- The next stage of an analysis in progress is done alone. -/
theorem doWork_of_stageDue {s : State} {w : Work} (h : s.stageDue w) : s.doWork w = (s.doing w).perform w := by
  obtain ⟨_, hs⟩ := h
  have hf : w ∈ s.todo.filter isStage := List.mem_of_mem_head? hs
  obtain ⟨hm, hw⟩ := List.mem_filter.1 hf
  have hp : w ≠ .publish := by rintro rfl; simp [isStage] at hw
  have hb : (s.todo.filter isStage).takeWhile (· != w) = [] := by
    cases hl : s.todo.filter isStage with
    | nil => rfl
    | cons a l => rw [hl] at hs; simp only [List.head?_cons, Option.some.injEq] at hs; simp [hs]
  simp only [State.doWork, if_pos hm, hp, false_and, if_false, State.worksBefore, hw, if_true, hb]
  exact doOne_of_mem hm

/-- The analysis in progress leaves its stages in the order of the rules. -/
theorem due_doing_stages {s : State} {w : Work} (h : s.due w) : (s.doing w).todo.filter isStage = [] := by
  obtain ⟨_, _, hs⟩ := h
  rw [List.filter_eq_nil_iff] at hs ⊢
  exact fun x hx => hs x (List.mem_of_mem_erase hx)

/-! ### Event rows -/

theorem eventWork_true (s : State) (w : Work) : s.eventWork w true = s.doWork w := rfl

/-- A command that waits for the reset pin acts when the pin is released. -/
theorem released_of {s : State} (h : s.resetHeld = false) (f : State → State) : s.released f = .next (f s) := by
  simp [State.released, h]

theorem forUnit_of {s : State} (h : s.resetHeld = false) {b : Bool} (hb : b = true) (f : State → State) :
    s.forUnit b f = .next (f s) := by
  simp [State.forUnit, hb, released_of h]

/-! ### Cue rows -/

/-- The kind byte of a kind (01 R13). -/
def CueKind.code : CueKind → Nat
  | .mark => 0x01 | .loadScene => 0x11 | .vacateScene => 0x12 | .go => 0x21 | .trim => 0x22 | .clearStatus => 0x23
  | .loadMicTable => 0x31 | .setGuard => 0x32 | .fixNotch => 0x33 | .clearNotch => 0x34 | .clearGuard => 0x35
  | .lock => 0x41 | .unlock => 0x42 | .setKey => 0x43

/-- A choice by a number that gives a kind gives it here or later. -/
theorem ite_some {n c : Nat} {a kind : CueKind} {x : Option CueKind} (h : (if n = c then some a else x) = some kind) :
    (n = c ∧ a = kind) ∨ x = some kind := by
  by_cases hn : n = c
  · rw [if_pos hn] at h; exact .inl ⟨hn, by injection h⟩
  · rw [if_neg hn] at h; exact .inr h

theorem cueKindOf_code {n : Nat} {kind : CueKind} (h : cueKindOf n = some kind) : n = kind.code := by
  unfold cueKindOf at h
  iterate 14
    rcases ite_some h with ⟨h1, rfl⟩ | h
    · exact h1
  cases h

theorem exec_row (kind : CueKind) (k : Nat) (s : State) : exec (kind.row k) s = s.cueRow k kind.code := by
  cases kind <;> rfl

/-- The scan's refusals are made and it is the slot's turn: the row is the take of that slot. -/
theorem exec_of_turn {s : State} {k : Nat} {kind : CueKind} (h : s.turn k kind) :
    exec (kind.row k) s = .next ((s.doing .take).takeSlot k) := by
  obtain ⟨⟨hr, hm, hs⟩, hf, hk, he, hc⟩ := h
  have hb : s.worksBefore .take = [.refuse] := by simp [State.worksBefore, isStage, hs]
  have h1 : (s.worksBefore .take).foldl State.doOne s = s := by
    rw [hb]
    exact foldl_doOne_of_not_mem fun w hw => by simp only [List.mem_singleton] at hw; exact hw ▸ hf
  rw [exec_row, State.cueRow, forUnit_of hr (by simpa using hk)]
  simp only [State.takeRow, if_pos hm, h1, he, cueKindOf_code hc, and_self, if_true, doOne_of_mem hm]
  have h2 : (s.doing .take).expectedSlot = some k := he
  simp only [State.perform, State.takeNext, h2]

/-- A cue that passes the cue unit's checks: the row is its execution on the state of the take. -/
theorem exec_of_takeable {s : State} {k : Nat} {kind : CueKind} (h : s.takeable k kind) :
    exec (kind.row k) s = .next (executeCue kind k (cueBytes s.ram k) (s.took k)) := by
  obtain ⟨ht, hn, hc, hl, hm⟩ := h
  rw [exec_of_turn ht]
  obtain ⟨_, _, _, _, hk⟩ := ht
  have h1 : (s.doing .take).holdsNumber (s.doing .take).cues.expected = false := hn
  simp only [State.takeSlot, h1, Bool.false_eq_true, if_false, dispatchCue, doing_ram, hc, ne_eq, not_true_eq_false, hk]
  have h2 : (((s.doing .take).takeCopy k).lock.locked && kind.isProtected) = false := by
    show (s.lock.locked && kind.isProtected) = false
    cases hp : kind.isProtected
    · simp
    · simp [hl hp]
  have h3 : ¬ (kind = .go ∧ ((s.doing .take).takeCopy k).mode.mode = .stopped) := fun h => hm h.1 h.2
  simp only [h2, Bool.false_eq_true, if_false, if_neg h3]
  rfl

/-! ### The state of a take -/

@[simp] theorem took_slots (s : State) (k : Nat) : (s.took k).slots = s.slots := rfl
@[simp] theorem took_loader (s : State) (k : Nat) : (s.took k).loader = s.loader := rfl
@[simp] theorem took_coef (s : State) (k : Nat) : (s.took k).coef = s.coef := rfl
@[simp] theorem took_engines (s : State) (k : Nat) : (s.took k).engines = s.engines := rfl
@[simp] theorem took_net (s : State) (k : Nat) : (s.took k).net = s.net := rfl
@[simp] theorem took_trans (s : State) (k : Nat) : (s.took k).trans = s.trans := rfl
@[simp] theorem took_tails (s : State) (k : Nat) : (s.took k).tails = s.tails := rfl
@[simp] theorem took_mics (s : State) (k : Nat) : (s.took k).mics = s.mics := rfl
@[simp] theorem took_guard (s : State) (k : Nat) : (s.took k).guard = s.guard := rfl
@[simp] theorem took_lanes (s : State) (k : Nat) : (s.took k).lanes = s.lanes := rfl
@[simp] theorem took_mode (s : State) (k : Nat) : (s.took k).mode = s.mode := rfl
@[simp] theorem took_lock (s : State) (k : Nat) : (s.took k).lock = s.lock := rfl
@[simp] theorem took_att (s : State) (k : Nat) : (s.took k).att = s.att := rfl
@[simp] theorem took_frame (s : State) (k : Nat) : (s.took k).frame = s.frame := rfl
@[simp] theorem took_todo (s : State) (k : Nat) : (s.took k).todo = s.todo.erase .take := rfl
@[simp] theorem took_slot (s : State) (k n : Nat) : (s.took k).slot n = s.slot n := rfl
@[simp] theorem took_live (s : State) (k : Nat) : (s.took k).live = s.live := rfl

end Sys2Proof.Machine
end

