-- ==== Sys2Proof/Laws/Marks.lean ====
section
/-! SUPPORT. Which mirror entries and page fields an update marks as changed, and what a change of one notice record does. -/

namespace Sys2Proof.Machine

/-! ### Marks -/

/-- The mark at `a` is set exactly when the entry there is one of the list and differs. -/
theorem testBit_changedFrom {α : Type} [DecidableEq α] (stride a : Nat) (base : Nat) (old new : List α) :
    (changedFrom stride base old new).testBit a = true ↔
      ∃ k x y, a = base + stride * k ∧ old[k]? = some x ∧ new[k]? = some y ∧ x ≠ y := by
  induction old generalizing base new with
  | nil => simp [changedFrom]
  | cons x old ih =>
    cases new with
    | nil => simp [changedFrom]
    | cons y new =>
      simp only [changedFrom, Nat.testBit_or, Bool.or_eq_true, ih]
      constructor
      · rintro (h | ⟨k, x', y', h1, h2, h3, h4⟩)
        · refine ⟨0, x, y, ?_, rfl, rfl, ?_⟩
          · split at h
            · simp at h
            · rw [Nat.testBit_two_pow] at h; simp at h; omega
          · split at h
            · simp at h
            · assumption
        · exact ⟨k + 1, x', y', by rw [h1]; ring, h2, h3, h4⟩
      · rintro ⟨k, x', y', h1, h2, h3, h4⟩
        cases k with
        | zero =>
          simp at h2 h3; subst h2; subst h3
          left; simp [h4, h1]
        | succ k => exact Or.inr ⟨k, x', y', by rw [h1]; ring, h2, h3, h4⟩

/-- The mark at `a`, for entries that are read through a function `f` of the units. -/
theorem testBit_changedFrom_map {α β : Type} [DecidableEq β] (f : α → β) (stride a base : Nat) (old new : List α) :
    (changedFrom stride base (old.map f) (new.map f)).testBit a = true ↔
      ∃ k x y, a = base + stride * k ∧ old[k]? = some x ∧ new[k]? = some y ∧ f x ≠ f y := by
  rw [testBit_changedFrom]; simp only [List.getElem?_map, Option.map_eq_some_iff]
  constructor
  · rintro ⟨k, x, y, h, ⟨x', h1, rfl⟩, ⟨y', h2, rfl⟩, h3⟩; exact ⟨k, x', y', h, h1, h2, h3⟩
  · rintro ⟨k, x, y, h, h1, h2, h3⟩; exact ⟨k, _, _, h, ⟨_, h1, rfl⟩, ⟨_, h2, rfl⟩, h3⟩

/-- The mark of a single field. -/
theorem testBit_changedFrom_single {α : Type} [DecidableEq α] (stride a base : Nat) (x y : α) :
    (changedFrom stride base [x] [y]).testBit a = true ↔ a = base ∧ x ≠ y := by
  rw [testBit_changedFrom]
  constructor
  · rintro ⟨k, x', y', h, h1, h2, h3⟩; cases k <;> simp_all
  · rintro ⟨h1, h2⟩; exact ⟨0, x, y, by simpa using h1, rfl, rfl, h2⟩

/-- Writing the attention block as it stands changes nothing. -/
theorem setAtt_self (s : State) : s.setAtt s.att = s := by
  simp [State.setAtt, Attention.changes, changedFrom_self]

/-! ### One notice record -/

theorem notice_modify (a : Attention) (i j : Nat) (f : Notice → Notice) (hi : i < a.notices.length) :
    ({ a with notices := a.notices.modify i f } : Attention).notice j = if j = i then f (a.notice j) else a.notice j := by
  simp only [Attention.notice, List.getD_eq_getElem?_getD, List.getElem?_modify]
  by_cases h : j = i
  · subst h; simp [List.getElem?_eq_getElem hi]
  · simp [h, Ne.symm h]

theorem follow_notice (a b : Attention) (j : Nat) : (Attention.follow a b).notice j = b.notice j := by
  unfold Attention.follow; split <;> rfl

theorem follow_asserted (a b : Attention) : (Attention.follow a b).asserted = b.asserted := by
  unfold Attention.follow; split <;> rfl

/-- One message is sent when the output rises while messages are enabled, none otherwise (09 R175). -/
theorem follow_messages (a b : Attention) (h : b.messages = a.messages) (h2 : b.messagesEnabled = a.messagesEnabled) :
    (Attention.follow a b).messages = a.messages
      + (if a.asserted = false ∧ (Attention.follow a b).asserted = true ∧ a.messagesEnabled = true then 1 else 0) := by
  rw [follow_asserted]
  unfold Attention.follow
  cases ha : a.asserted <;> cases hb : b.asserted <;> cases hm : a.messagesEnabled <;> simp [h, h2, hm]

/-- A change of the record of one source: that record alone, the mask as it is, and the message of a rising output (09 R171, R173,
R175). -/
theorem setAtt_change (s : State) (x : Source) (f : Notice → Notice) (h : s.att.notices.length = 14) :
    let t := s.setAtt (s.att.change x.index f)
    t = s.setAtt t.att ∧ t.att.notice x.index = f (s.att.notice x.index) ∧ (∀ i, i ≠ x.index → t.att.notice i = s.att.notice i)
    ∧ t.att.mask = s.att.mask ∧ t.att.messagesEnabled = s.att.messagesEnabled
    ∧ t.att.messages = s.att.messages
        + (if s.att.asserted = false ∧ t.att.asserted = true ∧ s.att.messagesEnabled = true then 1 else 0) := by
  have hx : x.index < s.att.notices.length := by rw [h]; cases x <;> decide
  refine ⟨rfl, ?_, ?_, ?_, ?_, ?_⟩
  · show (Attention.follow _ _).notice _ = _
    rw [follow_notice, notice_modify _ _ _ _ hx]; simp
  · intro i hi
    show (Attention.follow _ _).notice _ = _
    rw [follow_notice, notice_modify _ _ _ _ hx]; simp [hi]
  · show (Attention.follow _ _).mask = _
    unfold Attention.follow; split <;> rfl
  · show (Attention.follow _ _).messagesEnabled = _
    unfold Attention.follow; split <;> rfl
  · exact follow_messages _ _ rfl rfl

end Sys2Proof.Machine
end

