-- ==== Sys2Proof/Laws/Memory.lean ====
section
/-! SUPPORT. Sparse memories: every operation keeps the canonical form, and reads after writes (log 7). -/

namespace Sys2Proof.Machine

variable {α : Type} [DecidableEq α] {d : α}

theorem sparseWf_weaken {lo lo' : Nat} {m : List (Nat × α)} (h : sparseWf d lo m = true) (hl : lo' ≤ lo) :
    sparseWf d lo' m = true := by
  cases m with
  | nil => rfl
  | cons c m =>
    obtain ⟨k, v⟩ := c
    simp only [sparseWf, Bool.and_eq_true, decide_eq_true_eq] at h ⊢
    exact ⟨⟨hl.trans h.1.1, h.1.2⟩, h.2⟩

/-- A write keeps the canonical form. -/
theorem sparseWrite_wf {lo : Nat} {m : List (Nat × α)} (h : sparseWf d lo m = true) {a : Nat} (ha : lo ≤ a) (v : α) :
    sparseWf d lo (sparseWrite d m a v) = true := by
  induction m generalizing lo with
  | nil =>
    by_cases hv : v = d <;> simp [sparseWrite, sparseWf, hv, ha]
  | cons c m ih =>
    obtain ⟨k, w⟩ := c
    simp only [sparseWf, Bool.and_eq_true, decide_eq_true_eq] at h
    simp only [sparseWrite]
    split_ifs with h1 h2 h3 h4
    · simp only [sparseWf, Bool.and_eq_true, decide_eq_true_eq]; exact h
    · simp only [sparseWf, Bool.and_eq_true, decide_eq_true_eq]
      exact ⟨⟨ha, h2⟩, ⟨⟨by omega, h.1.2⟩, h.2⟩⟩
    · exact sparseWf_weaken h.2 (by omega)
    · simp only [sparseWf, Bool.and_eq_true, decide_eq_true_eq]
      exact ⟨⟨ha, h4⟩, by subst h3; exact h.2⟩
    · simp only [sparseWf, Bool.and_eq_true, decide_eq_true_eq]
      exact ⟨h.1, ih h.2 (by omega)⟩

/-- An address below all listed ones reads as unlisted. -/
theorem sparseRead_below {lo : Nat} {m : List (Nat × α)} (h : sparseWf d lo m = true) {a : Nat} (ha : a < lo) :
    sparseRead d m a = d := by
  cases m with
  | nil => rfl
  | cons c m =>
    obtain ⟨k, w⟩ := c
    simp only [sparseWf, Bool.and_eq_true, decide_eq_true_eq] at h
    have h1 : a ≠ k := by omega
    have h2 : a < k := by omega
    simp [sparseRead, h1, h2]

/-- Reading after a write: the written address gives the value, every other address what it gave. -/
theorem sparseRead_sparseWrite {lo : Nat} {m : List (Nat × α)} (h : sparseWf d lo m = true) (a : Nat) (v : α) (b : Nat) :
    sparseRead d (sparseWrite d m a v) b = if b = a then v else sparseRead d m b := by
  induction m generalizing lo with
  | nil =>
    by_cases hv : v = d <;> by_cases hb : b = a <;> simp [sparseWrite, sparseRead, hv, hb]
  | cons c m ih =>
    obtain ⟨k, w⟩ := c
    simp only [sparseWf, Bool.and_eq_true, decide_eq_true_eq] at h
    have below : ∀ x, x < k + 1 → sparseRead d m x = d := fun x hx => sparseRead_below h.2 hx
    rcases Nat.lt_trichotomy a k with hak | hak | hak
    · by_cases hv : v = d
      · simp only [sparseWrite, hak, if_true, hv]
        by_cases hb : b = a
        · have h2 : b ≠ k := by omega
          have h3 : b < k := by omega
          simp [sparseRead, hb ▸ h2, hb ▸ h3, hb]
        · simp [hb]
      · simp only [sparseWrite, hak, if_true, hv, if_false]
        by_cases hb : b = a
        · simp [sparseRead, hb]
        · by_cases h3 : b < a
          · have h4 : b ≠ k := by omega
            have h5 : b < k := by omega
            simp [sparseRead, hb, h3, h4, h5]
          · simp [sparseRead, hb, h3]
    · subst hak
      by_cases hv : v = d
      · simp only [sparseWrite, lt_irrefl, if_false, if_true, hv]
        by_cases hb : b = a
        · simp [hb, below a (by omega)]
        · by_cases h3 : b < a
          · simp [sparseRead, hb, h3, below b (by omega)]
          · simp [sparseRead, hb, h3]
      · simp only [sparseWrite, lt_irrefl, if_false, if_true, hv]
        by_cases hb : b = a
        · simp [sparseRead, hb]
        · simp [sparseRead, hb]
    · have h1 : ¬ a < k := by omega
      have h2 : a ≠ k := by omega
      simp only [sparseWrite, h1, if_false, h2, sparseRead, ih h.2]
      by_cases hb : b = a
      · have h3 : b ≠ k := by omega
        have h4 : ¬ b < k := by omega
        simp [hb, h2, h1]
      · simp [hb]

/-- Clearing a range keeps the canonical form. -/
theorem sparseClear_wf {lo : Nat} {m : List (Nat × α)} (h : sparseWf d lo m = true) (x y : Nat) :
    sparseWf d lo (sparseClear x y m) = true := by
  induction m generalizing lo with
  | nil => rfl
  | cons c m ih =>
    obtain ⟨k, w⟩ := c
    simp only [sparseWf, Bool.and_eq_true, decide_eq_true_eq] at h
    simp only [sparseClear, List.filter_cons]
    split_ifs with h1
    · simp only [sparseWf, Bool.and_eq_true, decide_eq_true_eq]; exact ⟨h.1, ih h.2⟩
    · exact sparseWf_weaken (ih h.2) (by omega)

/-- Reading after a clear: unlisted inside the range, unchanged outside. -/
theorem sparseRead_sparseClear {lo : Nat} {m : List (Nat × α)} (h : sparseWf d lo m = true) (x y b : Nat) :
    sparseRead d (sparseClear x y m) b = if x ≤ b ∧ b < y then d else sparseRead d m b := by
  induction m generalizing lo with
  | nil => simp [sparseClear, sparseRead]
  | cons c m ih =>
    obtain ⟨k, w⟩ := c
    simp only [sparseWf, Bool.and_eq_true, decide_eq_true_eq] at h
    have ih := ih h.2
    have below : ∀ x, x < k + 1 → sparseRead d m x = d := fun x hx => sparseRead_below h.2 hx
    unfold sparseClear at ih ⊢
    rw [List.filter_cons]
    split_ifs with h1 h2 h2
    · simp only [sparseRead, ih]
      simp only [Bool.or_eq_true, decide_eq_true_eq] at h1
      by_cases h3 : b = k
      · omega
      · simp [h3, h2]
    · simp only [sparseRead, ih, if_neg h2]
    · rw [ih, if_pos h2]
    · rw [ih, if_neg h2]
      simp only [Bool.or_eq_true, decide_eq_true_eq] at h1
      have h3 : b ≠ k := by omega
      by_cases h4 : b < k
      · simp [sparseRead, h3, h4, below b (by omega)]
      · simp [sparseRead, h3, h4]

/-! ### Common memory -/

theorem writeBytes_wf {ram : List Host.Cell} (h : Memory.wf ram = true) (a : Nat) (bs : List Byte) :
    Memory.wf (writeBytes ram a bs) = true := by
  induction bs generalizing ram a with
  | nil => exact h
  | cons b bs ih => exact ih (sparseWrite_wf h (Nat.zero_le _) b) _

theorem sparseClear_memory_wf {ram : List Host.Cell} (h : Memory.wf ram = true) (lo hi : Nat) :
    Memory.wf (sparseClear lo hi ram) = true := sparseClear_wf h lo hi

/-- Reading a byte after writing bytes: inside the written range the byte written there, outside the byte before. -/
theorem readByte_writeBytes {ram : List Host.Cell} (h : Memory.wf ram = true) (a : Nat) (bs : List Byte) (x : Nat) :
    readByte (writeBytes ram a bs) x =
      if a ≤ x ∧ x < a + bs.length then bs.getD (x - a) 0 else readByte ram x := by
  induction bs generalizing ram a with
  | nil => simp only [writeBytes, List.length_nil, Nat.add_zero]; rw [if_neg (by omega)]
  | cons b bs ih =>
    simp only [writeBytes]
    rw [ih (sparseWrite_wf h (Nat.zero_le _) b)]
    simp only [readByte, sparseRead_sparseWrite h, List.length_cons]
    by_cases h1 : x = a
    · subst h1
      rw [if_neg (by omega), if_pos rfl, if_pos (by omega)]; simp
    · by_cases h2 : a + 1 ≤ x ∧ x < a + 1 + bs.length
      · rw [if_pos h2, if_pos (by omega)]
        have : x - a = (x - (a + 1)) + 1 := by omega
        rw [this]; simp
      · rw [if_neg h2, if_neg h1, if_neg (by omega)]

theorem readByte_writeBytes_outside {ram : List Host.Cell} (h : Memory.wf ram = true) {a x : Nat} {bs : List Byte}
    (hx : x < a ∨ a + bs.length ≤ x) : readByte (writeBytes ram a bs) x = readByte ram x := by
  rw [readByte_writeBytes h, if_neg (by omega)]

@[simp] theorem leBytes_length (n v : Nat) : (leBytes n v).length = n := by
  induction n generalizing v with
  | zero => rfl
  | succ n ih => simp [leBytes, ih]

/-- The bytes of a number that fits spell it. -/
theorem leNat_leBytes (n v : Nat) (h : v < 256 ^ n) : leNat (leBytes n v) = v := by
  induction n generalizing v with
  | zero => simp [leBytes, leNat] at *; omega
  | succ n ih =>
    simp only [leBytes, leNat, BitVec.toNat_ofNat]
    rw [ih (v / 256) (by rw [pow_succ] at h; omega)]
    omega

end Sys2Proof.Machine
end

