-- ==== Sys2Proof/Laws/PerInstr.lean ====
section
/-! SUPPORT. The per-instruction family Named: every number a well-formed command names is the number of something the part has
(00_scope Conventions, 01 R1). -/

namespace Sys2Proof.Laws.Named

/-- The number a work names, with how many of its kind the part has. -/
def workNames : Work → List (Nat × Nat)
  | .tail k => [(k, 8)]
  | .scrub e | .decayGlide e _ => [(e, 32)]
  | .hold n | .depthGlide n => [(n, 16)]
  | .quiet m | .trimGlide m | .fallbackGlide m => [(m, 48)]
  | .refuse | .take | .gap | .copy | .compute | .fade | .claim | .lockout | .lanes | .modeRamp | .modeTake | .resyncRamp
  | .clockTake | .analysis | .deviceQuiet | .betaRequest | .meters | .epsGlide | .publish => []

/-- The numbers a command names, each with how many of its kind the part has. -/
def names : Instr → List (Nat × Nat)
  | .registerWrite o _ _ => [(o, 0x1000)]
  | .commonMemoryWrite o _ _ => [(o, 0x80000)]
  | .mark k | .loadScene k | .vacateScene k | .go k | .trim k | .clearStatus k | .loadMicTable k | .setGuard k | .fixNotch k
  | .clearNotch k | .clearGuard k | .lock k | .unlock k | .setKey k => [(k, 32)]
  | .frameBoundary order _ => order.flatMap workNames
  | .holdExpiry k | .closingEnd k => [(k, 8)]
  | .scrubEnd e | .decayGlideEnd e _ => [(e, 32)]
  | .trimGlideEnd m | .fallbackGlideEnd m | .phiRecovery m => [(m, 48)]
  | .notchDepthGlideEnd n | .notchHoldExpiry n => [(n, 16)]
  | .samplePeriod x => [(x, 128)]
  | .inputLaneFrame l _ => [(l, 6)]
  | .powerOnReset _ | .engineReset _ | .modeRequest _ | .clockSource _ | .resync _ | .attn _ | .attnmask _ | .cueGap
  | .copyEnd | .computationComplete | .claim | .changeoverEnd | .outEnd | .epsilonGlideEnd | .modeRampEnd | .resyncSwitch
  | .resyncUpEnd | .lockoutEnd | .analysis _ | .betaRecovery | .meterWrite | .wordClockAbsent _ | .wordClockPresent _
  | .interruptMessageEnable _ => []

/-- Every number a well-formed command names is the number of something the part has. -/
def Statement (i : Instr) : Prop := i.wellFormed = true → ∀ x ∈ names i, x.1 < x.2

/-- One number below its bound. -/
theorem one {a b : Nat} (h : decide (a < b) = true) : ∀ x ∈ [(a, b)], x.1 < x.2 := by
  simpa using h

/-- The numbers of well-formed works. -/
theorem workNames_lt {w : Work} (h : w.wellFormed = true) : ∀ x ∈ workNames w, x.1 < x.2 := by
  cases w <;> first | exact one h | simp [workNames]

/-- An access that lies in a window begins in it. -/
theorem offset_lt {window o n : Nat} (h : inWindow window o n = true) : ∀ x ∈ [(o, window)], x.1 < x.2 := by
  simp only [inWindow, accessSize, Bool.and_eq_true, Bool.or_eq_true, beq_iff_eq, decide_eq_true_eq] at h
  simp only [List.mem_singleton, forall_eq]
  omega

theorem powerOnReset : ∀ a, Statement (.powerOnReset a) := fun _ _ _ h => nomatch h
theorem engineReset : ∀ a, Statement (.engineReset a) := fun _ _ _ h => nomatch h
theorem modeRequest : ∀ a, Statement (.modeRequest a) := fun _ _ _ h => nomatch h
theorem clockSource : ∀ a, Statement (.clockSource a) := fun _ _ _ h => nomatch h
theorem resync : ∀ a, Statement (.resync a) := fun _ _ _ h => nomatch h
theorem attn : ∀ a, Statement (.attn a) := fun _ _ _ h => nomatch h
theorem attnmask : ∀ a, Statement (.attnmask a) := fun _ _ _ h => nomatch h
theorem registerWrite : ∀ a b c, Statement (.registerWrite a b c) := fun _ _ _ h => one h
theorem commonMemoryWrite : ∀ a b c, Statement (.commonMemoryWrite a b c) := fun _ _ _ h => offset_lt h
theorem mark : ∀ a, Statement (.mark a) := fun _ h => one h
theorem loadScene : ∀ a, Statement (.loadScene a) := fun _ h => one h
theorem vacateScene : ∀ a, Statement (.vacateScene a) := fun _ h => one h
theorem go : ∀ a, Statement (.go a) := fun _ h => one h
theorem trim : ∀ a, Statement (.trim a) := fun _ h => one h
theorem clearStatus : ∀ a, Statement (.clearStatus a) := fun _ h => one h
theorem loadMicTable : ∀ a, Statement (.loadMicTable a) := fun _ h => one h
theorem setGuard : ∀ a, Statement (.setGuard a) := fun _ h => one h
theorem fixNotch : ∀ a, Statement (.fixNotch a) := fun _ h => one h
theorem clearNotch : ∀ a, Statement (.clearNotch a) := fun _ h => one h
theorem clearGuard : ∀ a, Statement (.clearGuard a) := fun _ h => one h
theorem lock : ∀ a, Statement (.lock a) := fun _ h => one h
theorem unlock : ∀ a, Statement (.unlock a) := fun _ h => one h
theorem setKey : ∀ a, Statement (.setKey a) := fun _ h => one h
theorem frameBoundary : ∀ a b, Statement (.frameBoundary a b) := fun _ _ h x hx => by
  obtain ⟨w, hw, hx⟩ := List.mem_flatMap.1 hx
  exact workNames_lt (List.all_eq_true.1 h w hw) x hx
theorem cueGap : Statement .cueGap := fun _ _ h => nomatch h
theorem copyEnd : Statement .copyEnd := fun _ _ h => nomatch h
theorem computationComplete : Statement .computationComplete := fun _ _ h => nomatch h
theorem claim : Statement .claim := fun _ _ h => nomatch h
theorem changeoverEnd : Statement .changeoverEnd := fun _ _ h => nomatch h
theorem outEnd : Statement .outEnd := fun _ _ h => nomatch h
theorem holdExpiry : ∀ a, Statement (.holdExpiry a) := fun _ h => one h
theorem closingEnd : ∀ a, Statement (.closingEnd a) := fun _ h => one h
theorem scrubEnd : ∀ a, Statement (.scrubEnd a) := fun _ h => one h
theorem decayGlideEnd : ∀ a b, Statement (.decayGlideEnd a b) := fun _ _ h => one h
theorem epsilonGlideEnd : Statement .epsilonGlideEnd := fun _ _ h => nomatch h
theorem trimGlideEnd : ∀ a, Statement (.trimGlideEnd a) := fun _ h => one h
theorem fallbackGlideEnd : ∀ a, Statement (.fallbackGlideEnd a) := fun _ h => one h
theorem notchDepthGlideEnd : ∀ a, Statement (.notchDepthGlideEnd a) := fun _ h => one h
theorem modeRampEnd : Statement .modeRampEnd := fun _ _ h => nomatch h
theorem resyncSwitch : Statement .resyncSwitch := fun _ _ h => nomatch h
theorem resyncUpEnd : Statement .resyncUpEnd := fun _ _ h => nomatch h
theorem lockoutEnd : Statement .lockoutEnd := fun _ _ h => nomatch h
theorem analysis : ∀ a, Statement (.analysis a) := fun _ _ _ h => nomatch h
theorem notchHoldExpiry : ∀ a, Statement (.notchHoldExpiry a) := fun _ h => one h
theorem phiRecovery : ∀ a, Statement (.phiRecovery a) := fun _ h => one h
theorem betaRecovery : Statement .betaRecovery := fun _ _ h => nomatch h
theorem meterWrite : Statement .meterWrite := fun _ _ h => nomatch h
theorem samplePeriod : ∀ a, Statement (.samplePeriod a) := fun _ h => one h
theorem inputLaneFrame : ∀ a b, Statement (.inputLaneFrame a b) := fun _ _ h => one (Bool.and_eq_true_iff.1 h).1
theorem wordClockAbsent : ∀ a, Statement (.wordClockAbsent a) := fun _ _ _ h => nomatch h
theorem wordClockPresent : ∀ a, Statement (.wordClockPresent a) := fun _ _ _ h => nomatch h
theorem interruptMessageEnable : ∀ a, Statement (.interruptMessageEnable a) := fun _ _ _ h => nomatch h

end Sys2Proof.Laws.Named
end

