-- ==== Sys2Proof/Laws/Settle.lean ====
section
/-! SUPPORT. What is left due at a frame boundary is done: each work that is done leaves less to do, so that the works come to
their end (log 1). -/

namespace Sys2Proof.Machine

/-! ### How much is left to do -/

/-- Works that a work may put back: a claim that stands, the publication after it. -/
def stands : Work → Bool
  | .claim | .publish => true
  | _ => false

/-- The weight of a work: an analysis adds 66 stages; a standing work weighs nothing. -/
def weight : Work → Nat
  | .analysis => 67
  | .claim | .publish => 0
  | _ => 1

/-- The weight of a list of works. -/
def heft (l : List Work) : Nat := (l.map weight).sum

/-- The standing works of a list. -/
def standing (l : List Work) : Nat := l.countP stands

/-- What is left to do: no work does more than three standing works' worth of its own. -/
def room (l : List Work) : Nat := 3 * heft l + standing l

/-- The publication stands nowhere but last. -/
def publishLast (l : List Work) : Prop := .publish ∉ l.dropLast

theorem heft_append (a b : List Work) : heft (a ++ b) = heft a + heft b := by simp [heft]
theorem standing_append (a b : List Work) : standing (a ++ b) = standing a + standing b := List.countP_append

theorem heft_sublist {a b : List Work} (h : a.Sublist b) : heft a ≤ heft b := (h.map _).sum_le_sum fun _ _ => Nat.zero_le _
theorem standing_sublist {a b : List Work} (h : a.Sublist b) : standing a ≤ standing b := h.countP_le

theorem publishLast_sublist {a b : List Work} (h : a.Sublist b) (hb : publishLast b) : publishLast a := by
  rcases b.eq_nil_or_concat' with rfl | ⟨l, x, rfl⟩
  · rw [List.sublist_nil.1 h]; simp [publishLast]
  · have hl : .publish ∉ l := by simpa [publishLast] using hb
    obtain ⟨l1, l2, rfl, h1, h2⟩ := List.sublist_append_iff.1 h
    have hn : .publish ∉ l1 := fun hm => hl (h1.subset hm)
    rcases l2.eq_nil_or_concat' with rfl | ⟨r, y, rfl⟩
    · exact fun hm => hn (by rw [List.append_nil] at hm; exact List.dropLast_subset _ hm)
    · have hr : r = [] := by
        have := h2.length_le
        simp only [List.length_append, List.length_singleton] at this
        exact List.length_eq_zero_iff.1 (by omega)
      subst hr
      simpa [publishLast] using hn

theorem heft_erase {w : Work} {l : List Work} (h : w ∈ l) : heft l = weight w + heft (l.erase w) := by
  have := (List.perm_cons_erase h).map weight
  simpa [heft] using this.sum_eq

theorem standing_erase {w : Work} {l : List Work} (h : w ∈ l) :
    standing l = (if stands w then 1 else 0) + standing (l.erase w) := by
  have := (List.perm_cons_erase h).countP_eq stands
  rw [standing, this, List.countP_cons, standing, Nat.add_comm]

/-- A work weighs or stands. -/
theorem room_eq_zero {l : List Work} (h : room l = 0) : l = [] := by
  cases l with
  | nil => rfl
  | cons w l => cases w <;> simp [room, heft, standing, weight, stands] at h

/-- At most `m` is left to do beside at most two standing works, and the publication stands last. -/
def orderly (m : Nat) (l : List Work) : Prop := heft l ≤ m ∧ standing l ≤ 2 ∧ publishLast l

theorem orderly_sublist {m : Nat} {a b : List Work} (h : a.Sublist b) (hb : orderly m b) : orderly m a :=
  ⟨(heft_sublist h).trans hb.1, (standing_sublist h).trans hb.2.1, publishLast_sublist h hb.2.2⟩

/-- No work but an analysis adds to what is left to do, but for standing works. -/
theorem orderly_closed (m : Nat) : WorkClosed fun s => orderly m s.todo where
  ram _ _ _ hp := hp
  taken _ _ _ hp := hp
  letGo _ _ hp := hp
  gap _ _ hp := hp
  advance _ hp := hp
  slots _ _ hp := hp
  loader _ _ hp := hp
  coef _ _ hp := hp
  engines _ _ hp := hp
  net _ _ hp := hp
  trans _ _ hp := hp
  tails _ _ hp := hp
  mics _ _ hp := hp
  guard _ _ hp := hp
  lanes _ _ hp := hp
  clock _ _ hp := hp
  mode _ _ hp := hp
  key _ _ hp := hp
  locked _ hp _ := hp
  refused _ hp _ _ := hp
  unlocked _ hp _ := hp
  lockout _ hp := hp
  occur _ _ _ _ hp := hp
  finish _ _ _ hp := hp
  meters _ _ hp := hp
  erase _ _ hp := orderly_sublist List.erase_sublist hp
  drop _ _ hp := orderly_sublist List.filter_sublist hp
  stand s hp := by
    refine ⟨?_, ?_, ?_⟩
    · show heft (_ ++ [.claim, .publish]) ≤ m
      rw [heft_append]
      exact (heft_sublist List.filter_sublist).trans hp.1
    · show standing (_ ++ [.claim, .publish]) ≤ 2
      rw [standing_append]
      have : standing (s.todo.filter fun w => w != .claim && w != .publish) = 0 := by
        rw [standing, List.countP_eq_zero]
        intro w hw
        have := (List.mem_filter.1 hw).2
        cases w <;> simp_all [stands]
      rw [this]; decide
    · show Work.publish ∉ List.dropLast (_ ++ [Work.claim, Work.publish])
      rw [List.dropLast_append_of_ne_nil (by simp)]
      simp
  shown _ _ hp := hp
  changed _ _ hp := hp

/-! ### Each work leaves less to do -/

theorem tryClaim_todo (s : State) : s.tryClaim.todo = s.todo := by
  unfold State.tryClaim
  split
  · split
    · split
      · split
        · unfold State.claimTarget State.retire
          dsimp only
          split
          · split <;> rfl
          · rfl
        · rfl
      · rfl
    · rfl
  · rfl

/-- A work that is done leaves an orderly list, and less to do. -/
theorem doOne_room {s : State} {w : Work} (hw : w ∈ s.todo) (hs : standing s.todo ≤ 2) (hp : publishLast s.todo) :
    room (s.doOne w).todo < room s.todo ∧ standing (s.doOne w).todo ≤ 2 ∧ publishLast (s.doOne w).todo := by
  have hd : s.doOne w = (s.setTodo (s.todo.erase w)).perform w := by
    simp only [State.doOne, State.onDue, if_pos hw]
  have he := heft_erase hw
  have hn := standing_erase hw
  have ho : orderly (heft (s.todo.erase w)) (s.setTodo (s.todo.erase w)).todo :=
    orderly_sublist (List.Sublist.refl _) ⟨le_refl _, (standing_sublist List.erase_sublist).trans hs,
      publishLast_sublist List.erase_sublist hp⟩
  rw [hd]
  by_cases ha : w = .analysis
  · subst ha
    show room (State.beginAnalysis _).todo < _ ∧ standing (State.beginAnalysis _).todo ≤ 2 ∧ publishLast (State.beginAnalysis _).todo
    unfold State.beginAnalysis
    split
    · obtain ⟨h1, h2, h3⟩ := (orderly_closed _).fourStages ho
      show room (tailWorks ++ _) < _ ∧ standing (tailWorks ++ _) ≤ 2 ∧ publishLast (tailWorks ++ _)
      have ht : heft tailWorks = 66 := by decide
      have hz : standing tailWorks = 0 := by decide
      refine ⟨?_, ?_, ?_⟩
      · rw [room, room, heft_append, standing_append, ht, hz, he]
        simp only [weight]
        omega
      · rw [standing_append, hz]; omega
      · intro hm
        generalize State.fourStages _ = t at *
        cases ht : t.todo with
        | nil =>
          rw [ht, List.append_nil] at hm
          exact absurd hm (by decide)
        | cons x l =>
          rw [List.dropLast_append_of_ne_nil (by simp [ht])] at hm
          rcases List.mem_append.1 hm with hm | hm
          · exact absurd hm (by decide)
          · exact h3 hm
    · refine ⟨?_, ho.2.1, ho.2.2⟩
      show room (s.todo.erase _) < _
      simp only [weight] at he
      rw [room, room]; omega
  · have hk := (orderly_closed _).perform w ha ho
    by_cases hst : stands w = true
    · have hto : ((s.setTodo (s.todo.erase w)).perform w).todo = s.todo.erase w := by
        cases w <;> simp [stands] at hst
        · exact tryClaim_todo _
        · rfl
      rw [hto]
      refine ⟨?_, ho.2.1, ho.2.2⟩
      rw [if_pos hst] at hn
      rw [room, room]; omega
    · refine ⟨?_, hk.2.1, hk.2.2⟩
      have hwt : weight w = 1 := by cases w <;> simp_all [weight, stands]
      rw [room, room]
      have := hk.1
      have := hk.2.1
      omega

/-- Works done in any order leave no more to do. -/
theorem foldl_doOne_room {s : State} (l : List Work) (hs : standing s.todo ≤ 2) (hp : publishLast s.todo) :
    room (l.foldl State.doOne s).todo ≤ room s.todo ∧ standing (l.foldl State.doOne s).todo ≤ 2
      ∧ publishLast (l.foldl State.doOne s).todo := by
  induction l generalizing s with
  | nil => exact ⟨le_refl _, hs, hp⟩
  | cons w l ih =>
    rw [List.foldl_cons]
    by_cases hw : w ∈ s.todo
    · obtain ⟨h1, h2, h3⟩ := doOne_room hw hs hp
      obtain ⟨k1, k2, k3⟩ := ih h2 h3
      exact ⟨k1.trans h1.le, k2, k3⟩
    · have : s.doOne w = s := by simp only [State.doOne, State.onDue, if_neg hw]
      rw [this]; exact ih hs hp

/-- Works that end with one still due leave less to do. -/
theorem foldl_doOne_lt {s : State} (l : List Work) {w : Work} (hw : w ∈ s.todo) (hs : standing s.todo ≤ 2)
    (hp : publishLast s.todo) : room ((l ++ [w]).foldl State.doOne s).todo < room s.todo := by
  induction l generalizing s with
  | nil => exact (doOne_room hw hs hp).1
  | cons x l ih =>
    rw [List.cons_append, List.foldl_cons]
    by_cases hx : x ∈ s.todo
    · obtain ⟨h1, h2, h3⟩ := doOne_room hx hs hp
      exact lt_of_le_of_lt (foldl_doOne_room _ h2 h3).1 h1
    · have : s.doOne x = s := by simp only [State.doOne, State.onDue, if_neg hx]
      rw [this]; exact ih hw hs hp

/-- A work asked for leaves no more to do and an orderly list. -/
theorem doWork_room {s : State} (w : Work) (hs : standing s.todo ≤ 2) (hp : publishLast s.todo) :
    room (s.doWork w).todo ≤ room s.todo ∧ standing (s.doWork w).todo ≤ 2 ∧ publishLast (s.doWork w).todo := by
  unfold State.doWork
  split_ifs
  · exact ⟨le_refl _, hs, hp⟩
  · exact foldl_doOne_room _ hs hp
  · exact ⟨le_refl _, hs, hp⟩

/-- The first work of an orderly list is done. -/
theorem doWork_head {s : State} {w : Work} {l : List Work} (h : s.todo = w :: l) (hs : standing s.todo ≤ 2)
    (hp : publishLast s.todo) : room (s.doWork w).todo < room s.todo := by
  have hw : w ∈ s.todo := by simp [h]
  unfold State.doWork
  rw [if_pos hw, if_neg]
  · exact foldl_doOne_lt _ hw hs hp
  · rintro ⟨rfl, hne⟩
    cases l with
    | nil => exact hne h
    | cons x l => exact hp (by rw [h]; simp [List.dropLast])

/-! ### The works come to their end -/

theorem runAll_nil {s : State} (n : Nat) (h : s.todo = []) : s.runAll n = s := by
  cases n with
  | zero => rfl
  | succ n => simp only [State.runAll, h]

theorem runAll_cons {s : State} {w : Work} {l : List Work} (n : Nat) (h : s.todo = w :: l) :
    s.runAll (n + 1) = (s.doWork w).runAll n := by
  simp only [State.runAll, h]

/-- With fuel for what is left to do, nothing is left to do. -/
theorem runAll_todo {s : State} (n : Nat) (hs : standing s.todo ≤ 2) (hp : publishLast s.todo) (hn : room s.todo ≤ n) :
    (s.runAll n).todo = [] := by
  induction n generalizing s with
  | zero => exact room_eq_zero (Nat.le_zero.1 hn)
  | succ n ih =>
    cases h : s.todo with
    | nil => rw [runAll_nil _ h, h]
    | cons w l =>
      rw [runAll_cons n h]
      obtain ⟨h1, h2, h3⟩ := doWork_room w hs hp
      exact ih h2 h3 (by have := doWork_head h hs hp; omega)

/-- More fuel than what is left to do changes nothing. -/
theorem runAll_succ {s : State} (n : Nat) (hs : standing s.todo ≤ 2) (hp : publishLast s.todo) (hn : room s.todo ≤ n) :
    s.runAll (n + 1) = s.runAll n := by
  induction n generalizing s with
  | zero => rw [runAll_nil _ (room_eq_zero (Nat.le_zero.1 hn)), runAll_nil _ (room_eq_zero (Nat.le_zero.1 hn))]
  | succ n ih =>
    cases h : s.todo with
    | nil => rw [runAll_nil _ h, runAll_nil _ h]
    | cons w l =>
      rw [runAll_cons (n + 1) h, runAll_cons n h]
      obtain ⟨h1, h2, h3⟩ := doWork_room w hs hp
      exact ih h2 h3 (by have := doWork_head h hs hp; omega)

/-- An orderly list of works is done to its end. -/
theorem settle_todo {s : State} (hs : standing s.todo ≤ 2) (hp : publishLast s.todo) (hn : room s.todo ≤ 1024) :
    s.settle.todo = [] := runAll_todo _ hs hp hn

/-- Settling does the first work and settles what it leaves. -/
theorem settle_cons {s : State} {w : Work} {l : List Work} (h : s.todo = w :: l) (hs : standing s.todo ≤ 2)
    (hp : publishLast s.todo) (hn : room s.todo ≤ 1024) : s.settle = (s.doWork w).settle := by
  obtain ⟨h1, h2, h3⟩ := doWork_room w hs hp
  have := doWork_head h hs hp
  rw [State.settle, State.settle, runAll_cons 1023 h, ← runAll_succ 1023 h2 h3 (by omega)]

/-! ### The works of a frame boundary -/

theorem heft_flatten_mapIdx {α : Type} (f : Nat → α → List Work) (c : Nat) (h : ∀ i x, heft (f i x) ≤ c) (l : List α) :
    heft (l.mapIdx f).flatten ≤ c * l.length := by
  induction l generalizing f with
  | nil => simp [heft]
  | cons x l ih =>
    rw [List.mapIdx_cons, List.flatten_cons, heft_append, List.length_cons]
    have := ih (fun i => f (i + 1)) fun i x => h (i + 1) x
    have := h 0 x
    rw [Nat.mul_add]; omega

theorem heft_dueIf (c : Bool) (w : Work) : heft (dueIf c w) ≤ weight w := by
  cases c <;> simp [dueIf, heft]

/-- The works of a frame boundary before the publication. -/
def State.worksBeforePublish (s : State) : List Work :=
  s.glidesDue ++ s.stepsDue ++ [.modeTake, .clockTake, .lanes]
  ++ dueIf (s.frame.toNat % Config.analysisPeriod == 0) .analysis
  ++ [.refuse] ++ List.replicate Config.takesPerBoundary .take ++ [.gap]
  ++ dueIf (s.frame.toNat % Config.meterPeriod == 0) .meters

theorem worksDue_eq (s : State) : s.worksDue = s.worksBeforePublish ++ [.publish] := rfl

theorem heft_tails (l : List Tail) : heft (l.map fun t => Work.tail t.slot) = l.length := by
  induction l with
  | nil => rfl
  | cons x l ih =>
    have : heft ((x :: l).map fun t => Work.tail t.slot) = 1 + heft (l.map fun t => Work.tail t.slot) := by
      simp [heft, weight]
    rw [this, ih, List.length_cons, Nat.add_comm]

/-- What a frame boundary leaves to do at most. -/
theorem heft_worksDue {s : State} (he : s.engines.length = 32) (hm : s.mics.length = 48) (hg : s.guard.pool.length = 16)
    (ht : s.tails.length ≤ 8) : heft s.worksDue ≤ 334 := by
  have h1 := heft_flatten_mapIdx (fun e (x : Engine) => allBands.flatMap fun b => dueIf (x.glides.get b).isSome (.decayGlide e b)) 3
    (fun e x => by
      have h1 := heft_dueIf (x.glides.get .lf).isSome (.decayGlide e .lf)
      have h2 := heft_dueIf (x.glides.get .mf).isSome (.decayGlide e .mf)
      have h3 := heft_dueIf (x.glides.get .hf).isSome (.decayGlide e .hf)
      simp only [weight] at h1 h2 h3
      simp only [allBands, List.flatMap_cons, List.flatMap_nil, List.append_nil, heft_append]
      omega) s.engines
  have h2 := heft_flatten_mapIdx (fun m (x : Mic) => dueIf x.trimGlide.isSome (.trimGlide m)) 1 (fun _ _ => heft_dueIf _ _) s.mics
  have h3 := heft_flatten_mapIdx (fun m (x : Mic) => dueIf x.fallbackGlide.isSome (.fallbackGlide m)) 1
    (fun _ _ => heft_dueIf _ _) s.mics
  have h4 := heft_flatten_mapIdx (fun n (x : Notch) => dueIf x.filter.glide.isSome (.depthGlide n)) 1
    (fun _ _ => heft_dueIf _ _) s.guard.pool
  have h5 := heft_flatten_mapIdx (fun e (x : Engine) => dueIf (x.state == .scrubbing) (.scrub e)) 1
    (fun _ _ => heft_dueIf _ _) s.engines
  have h6 := heft_tails s.tails
  have d (c : Bool) (w : Work) := heft_dueIf c w
  have a1 := d s.mode.ramp.isSome .modeRamp
  have a2 := d (s.clock.ramp.isSome || s.clock.turnUp) .resyncRamp
  have a3 := d s.coef.epsilonGlide.isSome .epsGlide
  have a4 := d (s.trans.any Transition.fading) .fade
  have a5 := d (s.coef.underWay.any fun c => c.start + 2 == s.frame) .compute
  have a6 := d (s.loader.any LoadRecord.copying) .copy
  have a7 := d (s.trans.any fun t => t.phase == .claim) .claim
  have a8 := d (decide (0 < s.lock.lockout)) .lockout
  have a9 := d (s.frame.toNat % Config.analysisPeriod == 0) .analysis
  have a10 := d (s.frame.toNat % Config.meterPeriod == 0) .meters
  have b1 : heft [.modeTake, .clockTake, .lanes] = 3 := by decide
  have b2 : heft [.refuse] = 1 := by decide
  have b3 : heft (List.replicate Config.takesPerBoundary .take) = 4 := by decide
  have b4 : heft [.gap] = 1 := by decide
  have b5 : heft [.publish] = 0 := by decide
  simp only [weight] at a1 a2 a3 a4 a5 a6 a7 a8 a9 a10
  simp only [State.worksDue, State.glidesDue, State.decayGlidesDue, State.stepsDue, heft_append, b1, b2, b3, b4, b5]
  omega

/-- No work but a claim stands before the publication, and that once. -/
theorem standing_worksBeforePublish (s : State) :
    standing s.worksBeforePublish ≤ 1 ∧ .publish ∉ s.worksBeforePublish := by
  have hd (c : Bool) (w : Work) (hw : stands w = false) : standing (dueIf c w) = 0 := by
    cases c <;> simp [dueIf, standing, hw]
  have hf {α : Type} (f : Nat → α → List Work) (h : ∀ i x, standing (f i x) = 0) (l : List α) :
      standing (l.mapIdx f).flatten = 0 := by
    induction l generalizing f with
    | nil => rfl
    | cons x l ih =>
      rw [List.mapIdx_cons, List.flatten_cons, standing_append, h 0 x, ih (fun i => f (i + 1)) fun i x => h (i + 1) x]
  have ht (l : List Tail) : standing (l.map fun t => Work.tail t.slot) = 0 := by
    simp [standing, List.countP_eq_zero, stands]
  have hc : standing (dueIf (s.trans.any fun t => t.phase == .claim) .claim) ≤ 1 := by
    cases s.trans.any fun t => t.phase == .claim <;> decide
  have hglide (e : Nat) (x : Engine) :
      standing (allBands.flatMap fun b => dueIf (x.glides.get b).isSome (.decayGlide e b)) = 0 := by
    rw [standing, List.countP_eq_zero]
    intro w hw
    obtain ⟨b, _, hb⟩ := List.mem_flatMap.1 hw
    cases hx : (x.glides.get b).isSome <;> simp_all [dueIf, stands]
  refine ⟨?_, ?_⟩
  · simp only [State.worksBeforePublish, State.glidesDue, State.decayGlidesDue, State.stepsDue, standing_append]
    rw [hf _ hglide, hf _ fun i x => hd _ (.trimGlide i) rfl, hf _ fun i x => hd _ (.fallbackGlide i) rfl,
      hf _ fun i x => hd _ (.depthGlide i) rfl, hf _ fun i x => hd _ (.scrub i) rfl, ht, hd _ .modeRamp rfl,
      hd _ .resyncRamp rfl, hd _ .epsGlide rfl, hd _ .fade rfl, hd _ .compute rfl, hd _ .copy rfl, hd _ .lockout rfl,
      hd _ .analysis rfl, hd _ .meters rfl]
    have b1 : standing [.modeTake, .clockTake, .lanes] = 0 := by decide
    have b2 : standing [.refuse] = 0 := by decide
    have b3 : standing (List.replicate Config.takesPerBoundary .take) = 0 := by decide
    have b4 : standing [.gap] = 0 := by decide
    rw [b1, b2, b3, b4]
    omega
  · intro h
    simp only [State.worksBeforePublish, State.glidesDue, State.decayGlidesDue, State.stepsDue, List.mem_append] at h
    have hn {c : Bool} {w : Work} (hw : w ≠ .publish) : .publish ∉ dueIf c w := by
      cases c <;> simp [dueIf, hw.symm]
    have hx {α : Type} {f : Nat → α → List Work} (h : ∀ i x, .publish ∉ f i x) (l : List α) :
        .publish ∉ (l.mapIdx f).flatten := by
      intro hm
      obtain ⟨m, h1, h2⟩ := List.mem_flatten.1 hm
      obtain ⟨i, hi, rfl⟩ := List.mem_mapIdx.1 h1
      exact h _ _ h2
    have hg (e : Nat) (x : Engine) : .publish ∉ allBands.flatMap fun b => dueIf (x.glides.get b).isSome (.decayGlide e b) := by
      intro hm
      obtain ⟨b, _, hb⟩ := List.mem_flatMap.1 hm
      exact hn (by simp) hb
    have k1 := hx (f := fun e (x : Engine) => allBands.flatMap fun b => dueIf (x.glides.get b).isSome (.decayGlide e b))
      hg s.engines
    have k2 := hx (f := fun m (x : Mic) => dueIf x.trimGlide.isSome (.trimGlide m)) (fun _ _ => hn (by simp)) s.mics
    have k3 := hx (f := fun m (x : Mic) => dueIf x.fallbackGlide.isSome (.fallbackGlide m)) (fun _ _ => hn (by simp)) s.mics
    have k4 := hx (f := fun n (x : Notch) => dueIf x.filter.glide.isSome (.depthGlide n)) (fun _ _ => hn (by simp)) s.guard.pool
    have k5 := hx (f := fun e (x : Engine) => dueIf (x.state == .scrubbing) (.scrub e)) (fun _ _ => hn (by simp)) s.engines
    have k6 : .publish ∉ s.tails.map fun t => Work.tail t.slot := by simp
    simp [hn, k1, k2, k3, k4, k5, k6] at h

/-- A frame boundary's works are orderly. -/
theorem orderly_worksDue {s : State} (he : s.engines.length = 32) (hm : s.mics.length = 48) (hg : s.guard.pool.length = 16)
    (ht : s.tails.length ≤ 8) : orderly 334 s.worksDue := by
  refine ⟨heft_worksDue he hm hg ht, ?_, ?_⟩
  · rw [worksDue_eq, standing_append]
    have := (standing_worksBeforePublish s).1
    have : standing [.publish] = 1 := by decide
    omega
  · rw [worksDue_eq, publishLast, List.dropLast_concat]
    exact (standing_worksBeforePublish s).2

end Sys2Proof.Machine
end

