-- ==== Sys2Proof/Tests/Slice0.lean ====
section
/-! SUPPORT. Tests: ill-formed commands that the well-formedness check refuses, worked examples of the manual, and for every
obligation with hypotheses a state and operands that meet them. -/

namespace Sys2Proof.Tests

open Sys2Proof.Machine

/-! ### Small states -/

/-- After reset, with works still to be done at the present frame boundary. -/
def due (works : List Work) : State := State.reset.setTodo works

/-- A cue of a kind with a body and flags as it stands in a slot: number 1, POSTED, its check byte right. -/
def cue (kind : Nat) (body : List Byte) (flags : Nat := 0) : List Byte :=
  let bs := [1, BitVec.ofNat 8 kind, BitVec.ofNat 8 flags, 0, 1, 0] ++ List.replicate 6 0 ++ body
  bs.set 3 (BitVec.ofNat 8 (256 - checkSum bs))

/-- The cue stands in slot 0 of a memory that holds nothing else, and one take is still due. -/
def posted (kind : Nat) (body : List Byte) (flags : Nat := 0) : State :=
  (due [.take]).setRam (writeBytes [] 0x1000 (cue kind body flags))

/-- It is the turn of slot 0 in `s`, and its cue passes: `takeable` written out. -/
def passes (s : State) (kind : CueKind) : Bool :=
  !s.resetHeld && decide (.take ∈ s.todo) && (s.todo.filter isStage).isEmpty && decide (.refuse ∉ s.todo)
    && s.expectedSlot == some 0 && cueKindOf (u8 (cueBytes s.ram 0) 1) == some kind
    && !s.holdsNumber s.cues.expected && checkSum (cueBytes s.ram 0) == 0 && !s.lock.locked
    && (s.mode.mode != .stopped || kind != .go)

theorem takeable_of_passes {s : State} {kind : CueKind} (h : passes s kind = true) : s.takeable 0 kind := by
  simp only [passes, Bool.and_eq_true, Bool.not_eq_true', decide_eq_true_eq, List.isEmpty_iff, beq_iff_eq,
    Bool.or_eq_true, bne_iff_ne] at h
  obtain ⟨⟨⟨⟨⟨⟨⟨⟨⟨h1, h2⟩, h3⟩, h4⟩, h5⟩, h6⟩, h7⟩, h8⟩, h9⟩, h10⟩ := h
  exact ⟨⟨⟨h1, h2, h3⟩, h4, by decide, h5, h6⟩, h7, h8, fun _ => h9, fun h hs => h10.elim (· hs) (· h)⟩

/-- The next state of a command, the state itself where it gives none. -/
def after (c : Instr) (s : State) : State := match exec c s with
  | .next t => t
  | _ => s

/-! ### Ill-formed commands -/

theorem test_illformed_register_offset : (Instr.registerWrite 0x1000 4 0).wellFormed = false := by decide
theorem test_illformed_memory_offset : (Instr.commonMemoryWrite 0x7FFFF 2 0).wellFormed = false := by decide
theorem test_illformed_memory_size : (Instr.commonMemoryWrite 0 8 0).wellFormed = false := by decide
theorem test_illformed_cue_slots :
    ∀ c ∈ [Instr.mark 32, .loadScene 32, .vacateScene 32, .go 32, .trim 32, .clearStatus 32, .loadMicTable 32, .setGuard 32,
      .fixNotch 32, .clearNotch 32, .clearGuard 32, .lock 32, .unlock 32, .setKey 32], c.wellFormed = false := by decide
theorem test_illformed_scene_slots : ∀ c ∈ [Instr.holdExpiry 8, .closingEnd 8], c.wellFormed = false := by decide
theorem test_illformed_engines : ∀ c ∈ [Instr.scrubEnd 32, .decayGlideEnd 32 .mf], c.wellFormed = false := by decide
theorem test_illformed_microphones :
    ∀ c ∈ [Instr.trimGlideEnd 48, .fallbackGlideEnd 48, .phiRecovery 48], c.wellFormed = false := by decide
theorem test_illformed_entries : ∀ c ∈ [Instr.notchDepthGlideEnd 16, .notchHoldExpiry 16], c.wellFormed = false := by decide
theorem test_illformed_speaker : (Instr.samplePeriod 128).wellFormed = false := by decide
theorem test_illformed_lane : (Instr.inputLaneFrame 6 (List.replicate 216 false)).wellFormed = false := by decide
theorem test_illformed_lane_bits : (Instr.inputLaneFrame 0 (List.replicate 215 false)).wellFormed = false := by decide +kernel
theorem test_illformed_interval : (Instr.wordClockAbsent (.interval ⟨1, 0⟩)).wellFormed = false := by decide
theorem test_illformed_intervals : (Instr.wordClockPresent [⟨1, 1⟩, ⟨1, 0⟩]).wellFormed = false := by decide
theorem test_illformed_works :
    ∀ w ∈ [Work.tail 8, .scrub 32, .hold 16, .quiet 48, .decayGlide 32 .lf, .trimGlide 48, .fallbackGlide 48, .depthGlide 16],
      (Instr.frameBoundary [.refuse, w] false).wellFormed = false := by decide
theorem test_wellformed_limits :
    ∀ c ∈ [Instr.registerWrite 0x0FFF 4 0, .registerWrite 0 8 0, .commonMemoryWrite 0x7FFFE 2 0, .mark 31, .holdExpiry 7, .scrubEnd 31,
      .phiRecovery 47, .notchHoldExpiry 15, .samplePeriod 127, .inputLaneFrame 5 (List.replicate 216 true),
      .wordClockPresent [⟨9, 10⟩], .frameBoundary [.tail 7, .quiet 47] true], c.wellFormed = true := by decide +kernel

/-! ### Examples of the manual -/

/-- 04 R74's table. -/
theorem test_gain_words : gainWord 1200 = 32613 ∧ gainWord 0 = 8192 ∧ gainWord (-301) = 5793 ∧ gainWord (-9600) = 0 := by
  decide +kernel

/-- 06 R122's fallback words. -/
theorem test_fallback_words : gainWord (-300) = 5799 ∧ gainWord (-600) = 4106 ∧ gainWord (-1800) = 1031 := by decide +kernel

/-- 04 R73's table. -/
theorem test_decay_words :
    [5, 40, 150, 9600].map (decayWord .nearest) = [65160, 62586, 55142, 1]
      ∧ [5, 40, 150, 9600].map (decayWord .down) = [65159, 62586, 55141, 1] := by decide +kernel

/-- 04 R75: four taps of 0 cdB have a power sum of 602 cdB; a tap 602 below another adds 97. -/
theorem test_normalization : normalization [0, 0, 0, 0] = 602 ∧ normalization [0, -602] = 97 := by decide +kernel

/-- 06 R117: the largest trim word. -/
theorem test_trim_word : gainWord 2400 = 129834 ∧ gainWord (-2400) = 517 := by decide +kernel

set_option maxRecDepth 100000 in
/-- 06 R121: at depth 0 the gain is 1; a notch of 600 cdB at bin 53. -/
theorem test_notch_words : (notchWords 426 0).g0 = 2 ^ 30 ∧ (notchWords 426 0).g2 = (notchWords 426 0).h2
    ∧ notchWords 53 600 = ⟨1065346882, -2003029123, 1048477074, -2003029123, 1040082133⟩ := by decide +kernel

/-- 05 R103's table of a fade of 6 frames. -/
theorem test_fade : (List.range 7).map (fun p => rise p 6) = [0, 5461, 10923, 16384, 21845, 27307, 32768] := by decide

/-- 05 R111's steps from full level. -/
theorem test_closing :
    (List.range 9).map (closingFade 32768) = [32768, 28672, 24576, 20480, 16384, 12288, 8192, 4096, 0] := by decide

/-- 09 R178: full scale is 0 cdBFS, half of it -602, silence -14400. -/
theorem test_levels : peakLevel 8388608 = 0 ∧ peakLevel 4194304 = -602 ∧ peakLevel 0 = -14400 := by decide +kernel

/-- 07 R144: the first bits of a lane frame are the sync word, most significant bit first. -/
theorem test_sync_bits : (State.reset.outputFrame 15).take 8 = [true, false, false, true, true, true, true, false]
    ∧ (State.reset.outputFrame 15).length = 216 := by decide +kernel

/-- 01 R2, R3: IDENT and RUNCTL as they read, and a byte of IDENT. -/
theorem test_registers : State.reset.readRegister 0 4 = 0x48320140 ∧ State.reset.readRegister 2 2 = 0x4832
    ∧ State.reset.readRegister 4 4 = 0 ∧ State.reset.readRegister 16 4 = 0 := by decide +kernel

/-- 01 R5, 09 R176, R180: what the engine has shown of the state after reset is the state's view, and stands in memory. -/
theorem test_reset_view : State.reset.view = resetShown := by decide +kernel
theorem test_reset_page : readBytes State.reset.ram 0x100 4 = [0, 0, 3, 0] ∧ readBytes State.reset.ram 0x170 4 = [0, 0, 1, 1]
    ∧ readBytes State.reset.ram 0x2040 4 = [0, 255, 0, 255] ∧ readBytes State.reset.ram 0x20A0 16 = List.replicate 16 0 := by
  decide +kernel

/-- 01 R17: a MARK is answered DONE with its tag. -/
theorem test_mark : readBytes (after (.mark 0) (posted 0x01 [0x78, 0x56, 0x34, 0x12])).ram 0x1006 6 =
    [0x00, 0x01, 0x78, 0x56, 0x34, 0x12] := by decide +kernel

/-- 01 R13: a byte changed on the way gives CHECK. -/
theorem test_check : readBytes (after (.mark 0) ((posted 0x01 [1]).setRam
    (writeBytes (posted 0x01 [1]).ram 0x100C [2]))).ram 0x1000 8 = [3, 1, 0, 253, 1, 0, 1, 1] := by decide +kernel

/-- 08 section 8.6: three refusals start the lockout. -/
theorem test_lockout : ShowLock.fail (ShowLock.fail (ShowLock.fail ⟨some [1], true, 0, 0⟩)) = ⟨some [1], true, 0, 45000⟩ := by
  decide

/-! ### States that meet the hypotheses of the obligations

One theorem per obligation with hypotheses, its name that of the obligation; where an obligation has several clauses, one
state for each, at a limit of its range where it has one. -/

/-- One work is due, and it is no stage of an analysis. -/
theorem due_one {s : State} {w : Work} (hw : isStage w = false) (ht : s.todo = [w]) (hr : s.resetHeld = false) : s.due w :=
  ⟨hr, by simp [ht], by simp [ht, hw]⟩

/-- The first stage left of an analysis. -/
theorem stageDue_head {s : State} {w : Work} {l : List Work} (hw : isStage w = true) (ht : s.todo = w :: l)
    (hr : s.resetHeld = false) : s.stageDue w := ⟨hr, by simp [ht, hw]⟩

/-- A state with one entry of its queue. -/
def queued : State := (due [.publish]).setPending [.attn 0xFFFFFFFF]

theorem test_witness_StepRunsTheFrontCommand : queued.pending = [.attn 0xFFFFFFFF] ∧ State.reset.pending = [] := ⟨rfl, rfl⟩

theorem test_witness_MemoryFormIsKept : Memory.wf queued.ram = true ∧ ∃ t, step queued = .next t :=
  ⟨by decide +kernel, _, rfl⟩

theorem test_witness_ExpectedNumberIsNeverZero : queued.cues.expected ≠ 0 ∧ ∃ t, step queued = .next t := ⟨by decide, _, rfl⟩

theorem test_witness_ShowLockStaysSound :
    ShowLock.sound ⟨some [1], true, 0, 45000⟩ ∧ ∃ t, step (queued.setLock ⟨some [1], true, 0, 45000⟩) = .next t :=
  ⟨by unfold ShowLock.sound; decide, _, rfl⟩

theorem test_witness_NoticesStaySound : noticesSound queued.att.notices ∧ ∃ t, step queued = .next t := by
  refine ⟨⟨rfl, fun i n h => ?_⟩, _, rfl⟩
  have : n = .reset := by
    have h' : (List.replicate 14 Notice.reset)[i]? = some n := h
    rw [List.getElem?_replicate] at h'
    split at h'
    · injection h' with h'; exact h'.symm
    · cases h'
  subst this
  simp [Notice.reset]

theorem test_witness_OutputsStayInRange :
    outputsInRange ⟨[8388607, -8388607], [0]⟩ ∧ ∃ t, step (queued.setOutputs ⟨[8388607, -8388607], [0]⟩) = .next t :=
  ⟨by
    unfold outputsInRange
    simp only [List.mem_cons, List.not_mem_nil, or_false]
    rintro v ((rfl | rfl) | rfl) <;> decide, _, rfl⟩

theorem test_witness_OtherWritesAreIgnoredOrStop :
    (8 < 0x1000 ∧ (2 : Nat) ≠ 4) ∧ (0x0FFF < 0x1000 ∧ 0x0FFF ≠ 4 ∧ 0x0FFF ≠ 8 ∧ 0x0FFF ≠ 12) ∧ 0x1000 ≤ 0x1000
      ∧ (accessSize 4 = true ∧ 0x80000 < 0x7FFFD + 4) ∧ accessSize 3 = false
      ∧ (3 + 1 ≤ 4 ∧ State.reset.readRegister (0 + 3) 1 = 0x48 ∧ State.reset.readRegister (8 + 2) 2 = 0x1F00)
      ∧ (16 ≤ 0xFFC ∧ State.reset.readRegister 0xFFC 4 = 0) := by decide +kernel

theorem test_unitsBeyondTheNumbering :
    exec (.mark 32) State.reset = .fault .noSuchUnit ∧ exec (.closingEnd 8) State.reset = .fault .noSuchUnit
      ∧ exec (.scrubEnd 32) State.reset = .fault .noSuchUnit ∧ exec (.phiRecovery 48) State.reset = .fault .noSuchUnit
      ∧ exec (.notchHoldExpiry 16) State.reset = .fault .noSuchUnit
      ∧ exec (.samplePeriod 128) State.reset = .fault .noSuchUnit
      ∧ exec (.inputLaneFrame 6 []) State.reset = .fault .noSuchUnit := ⟨rfl, rfl, rfl, rfl, rfl, rfl, rfl⟩

theorem test_witness_RunctlWriteHandsOverItsRequests : State.reset.resetHeld = false ∧ (0x7FFFFFFF#32).getLsbD 31 = false := by
  decide

theorem test_witness_EngineResetState : queued.resetHeld = false ∧ (0x80000001#32).getLsbD 31 = true := by decide

/-- A cue held as taken in slot 31. -/
def holding : State := State.reset.setCues { CueUnit.reset with held := CueUnit.reset.held.set 31 (some (cue 0x21 [1, 10, 0])) }

theorem test_witness_EngineResetMemory : holding.resetHeld = false ∧ Memory.wf holding.ram = true ∧ holding.lanes.length = 6
    ∧ holding.cues.held.getD 0 none = none ∧ holding.cues.held.getD 31 none = some (cue 0x21 [1, 10, 0]) := by decide +kernel

theorem test_witness_PowerOnReset : queued.resetHeld = false ∧ queued.hold.resetHeld = true
    ∧ (∀ h, Instr.frameBoundary [.refuse] true ≠ .powerOnReset h) ∧ (Instr.frameBoundary [.refuse] true).wellFormed = true
    ∧ exec (.mark 31) queued.hold = .next queued.hold := ⟨rfl, rfl, (fun _ h => nomatch h), rfl, rfl⟩

theorem test_witness_AttnWriteClears :
    State.reset.resetHeld = false ∧ State.reset.att.notices.length = 14
      ∧ (0x2381#32).getLsbD 0 = true ∧ (0x2381#32).getLsbD 13 = true ∧ (0x2381#32).getLsbD 9 = true
      ∧ ((State.reset.raise .outputClip 5).att.notice 9).pending = true := by decide +kernel

theorem test_witness_AttnWordShowsTheSources :
    let s := (State.reset.raise .changeoverEnded 1).raise .unlockRefused 1
    ((s.att.notice 3).pending = true ∧ ∀ j < 3, (s.att.notice j).pending = false)
      ∧ (∀ i < 14, (State.reset.att.notice i).pending = false) ∧ s.resetHeld = false ∧ ∃ t, exec (.attnmask 15) s = .next t :=
  ⟨by decide +kernel, by decide +kernel, rfl, _, rfl⟩

theorem test_witness_MaskAndMessages : State.reset.resetHeld = false ∧ State.reset.att.asserted = false
    ∧ ((State.reset.setAtt { Attention.reset with messagesEnabled := true }).raise .cueGap 0).att.levelPending 3 = true := by
  decide +kernel

theorem test_witness_OccurrenceActsOnItsRecord : State.reset.att.notices.length = 14
    ∧ (State.reset.raise .outputClip 5).att.notices.length = 14
    ∧ ((State.reset.raise .outputClip 5).att.notice 9).pending = true ∧ (State.reset.att.notice 9).pending = false := by
  decide +kernel

/-- Messages are enabled, and so is the level of CLOCK HOLDOVER. -/
def listening : State := State.reset.setAtt { Attention.reset with mask := 1, messagesEnabled := true }

/-- 09 R173, R175: a start sends one message, a condition that goes on none, and its end none. -/
theorem test_witness_OccurrenceActsOnItsRecord_condition :
    let s := listening.judge .clockHoldover true 0
    listening.att.notices.length = 14 ∧ (listening.att.notice 10).pending = false ∧ listening.att.asserted = false
      ∧ s.att.asserted = true ∧ s.att.messages = 1 ∧ (s.att.notice 10).pending = true ∧ s.judge .clockHoldover true 9 = s
      ∧ (s.judge .clockHoldover false 0).att.messages = 1 ∧ (listening.raise .outputClip 5).att.messages = 1 := by decide +kernel

theorem test_witness_CommonMemoryWriteLands : State.reset.resetHeld = false ∧ inWindow 0x80000 0x7FFFC 4 = true
    ∧ Memory.wf State.reset.ram = true := by decide +kernel

theorem test_witness_AnswerIsWritten : (31 : Nat) < 32 ∧ Memory.wf State.reset.ram = true
    ∧ holding.cues.held.getD 31 none = some (cue 0x21 [1, 10, 0]) ∧ holding.cues.held.getD 30 none = none := by decide +kernel

/-- Slot 7 is LIVE with a flag set. -/
def live7 : State := State.reset.setSlots (State.reset.slots.set 7 ⟨.live, [], ⟨true, false, false, false⟩, none⟩)

theorem test_witness_ReportAddsTheStatusFlags :
    (u8 (cue 0x11 [7] 0) 2).testBit 0 = false ∧ (u8 (cue 0x11 [7] 1) 2).testBit 0 = true ∧ u8 (cue 0x11 [7] 1) 1 = 0x11
      ∧ u8 (cue 0x22 [] 1) 1 = 0x22 ∧ live7.live = some 7 ∧ State.reset.live = none ∧ u8 (cue 0x01 [] 1) 1 = 0x01 := by
  decide +kernel

theorem test_witness_TakeCopiesTheSlot : (31 : Nat) < 32 ∧ Memory.wf (posted 0x01 []).ram = true := by decide +kernel

/-- It is the turn of the cue in slot 0: the first conjuncts of `passes`. -/
theorem turn_of {s : State} {kind : CueKind} (h : (!s.resetHeld && decide (.take ∈ s.todo) && (s.todo.filter isStage).isEmpty
    && decide (.refuse ∉ s.todo) && s.expectedSlot == some 0 && cueKindOf (u8 (cueBytes s.ram 0) 1) == some kind) = true) :
    s.turn 0 kind := by
  simp only [Bool.and_eq_true, Bool.not_eq_true', decide_eq_true_eq, List.isEmpty_iff, beq_iff_eq] at h
  obtain ⟨⟨⟨⟨⟨h1, h2⟩, h3⟩, h4⟩, h5⟩, h6⟩ := h
  exact ⟨⟨h1, h2, h3⟩, h4, by decide, h5, h6⟩

/-- The MARK in slot 0 carries the number of a cue held in slot 31. -/
def again : State := (posted 0x01 []).setCues holding.cues
/-- The MARK in slot 0 has a wrong check byte. -/
def spoiled : State := (posted 0x01 []).setRam (writeBytes (posted 0x01 []).ram 0x1010 [1])
/-- A SET KEY meets a locked engine. -/
def shut : State := (posted 0x43 [1, 2]).setLock ⟨some [1], true, 0, 0⟩

/-- A cue of no kind stands in slot 0 when a frame is over. -/
def unknown : State := (State.reset.setFramePos 64).setRam (writeBytes [] 0x1000 (cue 0x77 []))
/-- Cues numbered 0 and 65535 stand in slots 0 and 31 while E is 1. -/
def refusing : State :=
  State.reset.setRam (writeBytes (writeBytes [] 0x1000 ((cue 0x01 []).set 4 0)) 0x1F80 (((cue 0x21 []).set 4 255).set 5 255))

theorem test_witness_FailedChecksAreAnswered :
    (again.turn 0 .mark ∧ again.holdsNumber again.cues.expected = true)
    ∧ (spoiled.turn 0 .mark ∧ spoiled.holdsNumber spoiled.cues.expected = false ∧ checkSum (cueBytes spoiled.ram 0) ≠ 0)
    ∧ (shut.turn 0 .setKey ∧ shut.holdsNumber shut.cues.expected = false ∧ checkSum (cueBytes shut.ram 0) = 0
        ∧ CueKind.setKey.isProtected = true ∧ shut.lock.locked = true)
    ∧ ((posted 0x21 [1]).turn 0 .go ∧ (posted 0x21 [1]).holdsNumber 1 = false ∧ checkSum (cueBytes (posted 0x21 [1]).ram 0) = 0
        ∧ (posted 0x21 [1]).mode.mode = .stopped) :=
  ⟨⟨turn_of (by decide +kernel), by decide +kernel⟩, ⟨turn_of (by decide +kernel), by decide +kernel, by decide +kernel⟩,
    ⟨turn_of (by decide +kernel), by decide +kernel, by decide +kernel, rfl, rfl⟩,
    turn_of (by decide +kernel), by decide +kernel, by decide +kernel, rfl⟩

theorem test_witness_FailedChecksAreAnswered_scan :
    (unknown.resetHeld = false ∧ 64 ≤ unknown.framePos
      ∧ let v := (unknown.openBoundary.doing .refuse).scanRefuse
        v.expectedSlot = some 0 ∧ v.holdsNumber v.cues.expected = false ∧ checkSum (cueBytes v.ram 0) = 0
        ∧ cueKindOf (u8 (cueBytes v.ram 0) 1) = none)
    ∧ Memory.wf refusing.ram = true ∧ refusing.att.notices.length = 14 ∧ (refusing.att.notice 0).count ≤ 255
    ∧ (refusing.isCandidate 0 = true ∧ cueNumber refusing.ram 0 = 0)
    ∧ (refusing.isCandidate 31 = true ∧ isBehind 1 (cueNumber refusing.ram 31) = true)
    ∧ ((refusing.scanRefuse).att.notice 0).count = 2 ∧ refusing.isCandidate 1 = false := by decide +kernel

theorem test_witness_MarkIsAnswered : (posted 0x01 [1, 2, 3, 4]).takeable 0 .mark := takeable_of_passes (by decide +kernel)

/-- LOAD SCENE into slot 7 of an image of 26 bytes at the end of the image area. -/
def loadBody : List Byte := [7] ++ leBytes 4 0x7FFE6 ++ leBytes 4 26

theorem test_witness_LoadSceneIsCheckedAndAccepted :
    (posted 0x11 loadBody).takeable 0 .loadScene ∧ (posted 0x11 [8]).takeable 0 .loadScene
      ∧ u8 (cueBytes (posted 0x11 loadBody).ram 0) 12 = 7 ∧ u32 (cueBytes (posted 0x11 loadBody).ram 0) 13 + 26 = 0x80000 :=
  ⟨takeable_of_passes (by decide +kernel), takeable_of_passes (by decide +kernel), by decide +kernel⟩

/-- A VACATE SCENE of slot 7, which is in a given state. -/
def vacating (state : SlotState) : State :=
  ((posted 0x12 [7]).setSlots (State.reset.slots.set 7 ⟨state, [], .clear, none⟩)).setLoader (some ⟨7, 1, 0x6000, 26, 0, 0, .copying⟩)
/-- A changeover from slot 7, or to it. -/
def toward (source target : Option Nat) (phase : Phase) (style : Option Style) (fade position : Nat) : Transition :=
  ⟨target, source, fade, false, style, phase, position, [], 3⟩

theorem test_witness_VacateSceneByState :
    (posted 0x12 [8]).takeable 0 .vacateScene ∧ (7 < u8 (cueBytes (posted 0x12 [8]).ram 0) 12)
    ∧ (∀ x ∈ [SlotState.live, .outgoing, .ready, .faulted, .vacant, .loading], (vacating x).takeable 0 .vacateScene
        ∧ ((vacating x).slot (u8 (cueBytes (vacating x).ram 0) 12)).state = x)
    ∧ ((vacating .ready).setTrans (some (toward none (some 7) .prepare none 9 0))).trans.bind (·.target) = some 7
    ∧ (vacating .ready).trans.bind (·.target) ≠ some 7 ∧ (vacating .loading).loader = some ⟨7, 1, 0x6000, 26, 0, 0, .copying⟩ := by
  refine ⟨takeable_of_passes (by decide +kernel), by decide +kernel, fun x hx => ⟨takeable_of_passes ?_, ?_⟩, by decide +kernel⟩ <;>
    (revert x; decide +kernel)

/-- A load of 26 bytes whose last chunk is due. -/
def copying : State := (due [.copy]).setLoader (some ⟨7, 1, 0x6000, 26, 0, 0, .copying⟩)

theorem test_witness_CopyEnds : copying.due .copy ∧ copying.loader = some ⟨7, 1, 0x6000, 26, 0, 0, .copying⟩
    ∧ (0 : Nat) ≤ 26 ∧ 26 ≤ 0 + 512 ∧ 7 < copying.slots.length := ⟨due_one rfl rfl rfl, rfl, by decide⟩

/-- A chunk before the last: of 514 bytes, 512. -/
theorem test_witness_CopyEnds_chunk :
    let s := copying.setLoader (some ⟨7, 1, 0x6000, 514, 0, 0, .copying⟩)
    s.loader = some ⟨7, 1, 0x6000, 514, 0, 0, .copying⟩ ∧ 0 + 512 < 514
      ∧ (State.perform .copy s).loader = some ⟨7, 1, 0x6000, 514, 512, 0, .copying⟩ := by decide +kernel

/-- 04 R83: a computation of slot 7 began while its load still copied; the load faults, and a later load of the slot gets nothing
from it. -/
theorem test_laterLoad :
    let s := (copying.setSlots (State.reset.slots.set 7 ⟨.loading, [], .clear, none⟩)).setCoef { State.reset.coef with
      underWay := some ⟨7, 0, 0, 0, true, none, false, false⟩ }
    ((after .copyEnd s).slot 7).state = .faulted
      ∧ (after .copyEnd s).coef.underWay = some ⟨7, 0, 0, 0, false, none, false, false⟩ := by decide +kernel

/-- A scene of four equal lines, one send and one tap. -/
def scene : SceneRecord :=
  { quantization := .down, amin := 40, times := ⟨2600, 2000, 1400⟩
    lines := List.replicate 4 ⟨2400, 64, 20, ⟨none, none, none⟩⟩, sends := [⟨0, 1, some 0⟩]
    speakers := [⟨0, 0, [⟨1, 0, some 0⟩]⟩], computed := none, engineMap := none }

theorem test_witness_StagesOfABand : scene.amin ≤ 9600 ∧ (9600 : Nat) ≤ 9600
    ∧ ((200 : Nat) : Int) = 1000 + (-500) - (300 : Nat) ∧ ((1500 : Nat) : Int) = 1000 + 500 - (0 : Nat)
    ∧ { scene with computed := some ⟨[], [], [5], [[7]]⟩ }.computed = some ⟨[], [], [5], [[7]]⟩ := by decide

/-- 04 R70, R77: beta 300 takes the third time of the scene, 100 ms, below its limit; tau 0 and beta 0 leave it. -/
theorem test_timeFactor : (computeRecord { scene with times := ⟨2600, 2000, 100⟩ } false 0 300).2.tclamp = true
    ∧ (computeRecord { scene with times := ⟨2600, 2000, 100⟩ } false 0 0).2.tclamp = false := by decide +kernel

/-- A computation of slot 7 completes, the slot being in a given state; LIVE, engine 31 carries its first line. -/
def computing (state : SlotState) (full : Bool) : State :=
  (((due [.compute]).setSlots (State.reset.slots.set 7 ⟨state, [], .clear, some { scene with
    engineMap := if state = .live then some [31] else none }⟩)).setCoef
      { Coefficients.reset with underWay := some ⟨7, 0, 0, 0, full, none, full, false⟩ }).setLoader
        (some ⟨7, 4, 0x6000, 26, 26, 0, .computing⟩)

theorem test_witness_ComputationCompletes :
    (∀ x ∈ [SlotState.outgoing, .vacant, .faulted, .loading, .ready, .live], (computing x false).due .compute
      ∧ (computing x false).coef.underWay = some ⟨7, 0, 0, 0, false, none, false, false⟩ ∧ ((computing x false).slot 7).state = x
      ∧ ((computing x false).slot 7).record.isSome = true ∧ 7 < (computing x false).slots.length)
    ∧ ((computing .loading true).slot 7).record = some scene ∧ (computing .loading true).coef.underWay.any (·.full) = true
    ∧ (computing .loading true).loader = some ⟨7, 4, 0x6000, 26, 26, 0, .computing⟩
    ∧ (((computing .live false).slot 7).record.bind (·.engineMap)) = some [31] ∧ [31].Nodup
    ∧ (computing .live false).engines[31]? = some .free := by
  refine ⟨fun x hx => ⟨due_one rfl rfl rfl, rfl, ?_⟩, by decide +kernel⟩
  revert x; decide +kernel

/-- LIVE: the glide of engine 31 starts toward the word of line 0 over 32 frames. -/
theorem test_glidesStart : match after .computationComplete (computing .live false) with
    | t => ((t.engines.getD 31 .free).glides.lf.map fun g => (g.start, g.length, g.step)) = some (0, 32, 0)
      ∧ (t.slot 7).state = .live := by decide +kernel

/-- A request meets a set with and without an entry of its slot. -/
theorem test_witness_ComputationCompletes_requests :
    (State.reset.coef.underWay = none ∧ (computing .ready false).coef.underWay ≠ none)
    ∧ (∀ e ∈ (computing .ready false).coef.requests, e.slot ≠ 7)
    ∧ (∃ e ∈ ((computing .ready false).request ⟨7, none, false, true⟩).coef.requests, e.slot = 7) := by decide +kernel

theorem test_witness_TrimSetsTauAndEpsilon :
    (posted 0x22 ([3] ++ leBytes 2 (twos16 (-501)) ++ leBytes 2 (twos16 (-9600)) ++ leBytes 2 1)).takeable 0 .trim
      ∧ (posted 0x22 ([3] ++ leBytes 2 (twos16 (-500)) ++ leBytes 2 0 ++ leBytes 2 3000)).takeable 0 .trim
      ∧ .epsGlide ∉ (posted 0x22 []).todo :=
  ⟨takeable_of_passes (by decide +kernel), takeable_of_passes (by decide +kernel), by decide +kernel⟩

/-- TRIM of epsilon where the epsilon glide's last step is still to be made. -/
def trimming : State :=
  ((posted 0x22 ([2] ++ leBytes 2 0 ++ leBytes 2 0 ++ leBytes 2 1)).setTodo [.take, .epsGlide]).setCoef
    { Coefficients.reset with epsilonGlide := some ⟨8192, 4000, 4, 3⟩ }

theorem test_witness_TrimSetsTauAndEpsilon_stepped : trimming.takeable 0 .trim ∧ .epsGlide ∈ trimming.todo
    ∧ (after (.trim 0) trimming).coef.epsilonGlide = some ⟨4000, 8192, 1, 0⟩ :=
  ⟨takeable_of_passes (by decide +kernel), by decide +kernel, by decide +kernel⟩

/-- A glide with its last step to be made. -/
def last (start stop : Int) : Glide := ⟨start, stop, 4, 3⟩

/-- Every kind of glide with its last step to be made: of engine 31, epsilon, microphone 47, entry 15. -/
def gliding (works : List Work) (g : Glide) : State :=
  ((((due works).setEngines (State.reset.engines.set 31 { Engine.free with glides := ⟨none, some g, none⟩ })).setCoef
    { Coefficients.reset with epsilonGlide := some g }).setMics
      (State.reset.mics.set 47 { Mic.reset with trimGlide := some g, fallbackGlide := some g })).setGuard
        { Guard.reset with pool := Guard.reset.pool.set 15 { Notch.reset with filter := { Filter.off with glide := some g } } }

theorem test_witness_GlidesEnd :
    (0 < (last 600 0).length ∧ (last 600 0).step + 1 = (last 600 0).length)
    ∧ ((gliding [.decayGlide 31 .mf] (last 600 0)).due (.decayGlide 31 .mf) ∧ (gliding [] (last 600 0)).engines[31]? =
        some { Engine.free with glides := ⟨none, some (last 600 0), none⟩ })
    ∧ ((gliding [.epsGlide] (last 600 0)).due .epsGlide ∧ (gliding [] (last 600 0)).coef.epsilonGlide = some (last 600 0))
    ∧ (gliding [.trimGlide 47] (last 600 0)).due (.trimGlide 47) ∧ (gliding [.fallbackGlide 47] (last 600 0)).due (.fallbackGlide 47)
    ∧ (gliding [] (last 600 0)).mics[47]? = some { Mic.reset with
        trimGlide := some (last 600 0), fallbackGlide := some (last 600 0) }
    ∧ ((gliding [.depthGlide 15] (last 600 0)).due (.depthGlide 15) ∧ (gliding [] (last 600 0)).guard.pool[15]? =
        some { Notch.reset with filter := { Filter.off with glide := some (last 600 0) } }) :=
  ⟨by decide, ⟨due_one rfl rfl rfl, by decide +kernel⟩, ⟨due_one rfl rfl rfl, rfl⟩, due_one rfl rfl rfl, due_one rfl rfl rfl,
    by decide +kernel, due_one rfl rfl rfl, by decide +kernel⟩

/-- A glide with two steps to be made. -/
def early (start stop : Int) : Glide := ⟨start, stop, 4, 2⟩

theorem test_witness_GlidesEnd_early :
    (early 600 0).step + 1 < (early 600 0).length
    ∧ (gliding [] (early 600 0)).engines[31]? = some { Engine.free with glides := ⟨none, some (early 600 0), none⟩ }
    ∧ (gliding [] (early 600 0)).coef.epsilonGlide = some (early 600 0)
    ∧ (gliding [] (early 600 0)).mics[47]? = some { Mic.reset with
        trimGlide := some (early 600 0), fallbackGlide := some (early 600 0) }
    ∧ (gliding [] (early 600 0)).guard.pool[15]? =
        some { Notch.reset with filter := { Filter.off with glide := some (early 600 0) } }
    ∧ ((gliding [] (early 600 0)).perform (.trimGlide 47)).mics[47]? =
        some { Mic.reset with trimWord := 150, trimGlide := some (last 600 0), fallbackGlide := some (early 600 0) } := by decide +kernel

/-- A GO to slot 7 over 30000 frames while ACTIVE; slot 7 is in a given state. -/
def going (state : SlotState) : State :=
  ((posted 0x21 ([7] ++ leBytes 2 30001)).setSlots (State.reset.slots.set 7 ⟨state, [], .clear, some scene⟩)).setMode
    { ModeControl.reset with mode := .active, halted := false }

theorem test_witness_GoIsCheckedAndAccepted :
    (going .ready).takeable 0 .go ∧ (going .live).takeable 0 .go ∧ (going .vacant).takeable 0 .go
      ∧ (going .live).live = some 7 ∧ (going .ready).live = none :=
  ⟨takeable_of_passes (by decide +kernel), takeable_of_passes (by decide +kernel), takeable_of_passes (by decide +kernel),
    by decide +kernel⟩

/-- A record in CLAIM for the scene of slot 7, from slot 6. -/
def claiming (style : Style) : State :=
  ((due [.claim]).setSlots ((State.reset.slots.set 7 ⟨.ready, [], .clear, some scene⟩).set 6 ⟨.live, [], .clear, none⟩)).setTrans
    (some (toward (some 6) (some 7) .claim (some style) 9 0))

theorem test_witness_ClaimTakesTheLowestFreeEngines :
    ∀ x ∈ [Style.overlap, .sequential], (claiming x).due .claim
      ∧ (claiming x).trans = some (toward (some 6) (some 7) .claim (some x) 9 0)
      ∧ ((claiming x).slot 7).record = some scene ∧ scene.lines.length ≤ countEngines .free (claiming x).engines
      ∧ 7 < (claiming x).slots.length ∧ 7 < (claiming x).net.play.length := by
  intro x hx
  refine ⟨due_one rfl rfl rfl, rfl, ?_⟩
  revert x; decide +kernel

theorem test_witness_ClaimTakesTheLowestFreeEngines_target : ((claiming .overlap).slot 7).record = some scene
    ∧ ((claiming .overlap).slot 6).state = .live ∧ 6 < (claiming .overlap).slots.length
    ∧ (claiming .overlap).standClaim.todo = [.claim, .publish] := by decide +kernel

/-- The plan of a changeover to the scene of slot 7, with some engines FREE, the next of slot 5's draining scene, the rest ASSIGNED. -/
def planning (free draining : Nat) : State :=
  let s := (State.reset.setSlots (State.reset.slots.set 7 ⟨.ready, [], .clear, some scene⟩)).setTrans
    (some (toward (some 6) (some 7) .prepare none 9 0))
  ((s.setEngines (s.engines.mapIdx fun i e => if i < free then e else if i < free + draining then
      { e with state := .draining, owner := some 5 } else { e with state := .assigned, owner := some 6 })).setTails
        [⟨5, .hold 9⟩]).setNet { s.net with draining := [(5, 0)] }

theorem test_witness_ClaimTakesTheLowestFreeEngines_plan :
    (∀ x ∈ [(4, 0), (3, 1), (0, 4), (3, 0)], (planning x.1 x.2).trans = some (toward (some 6) (some 7) .prepare none 9 0)
      ∧ ((planning x.1 x.2).slot 7).record = some scene ∧ scene.lines.length = 4
      ∧ countEngines .free (planning x.1 x.2).engines = x.1 ∧ countEngines .draining (planning x.1 x.2).engines = x.2
      ∧ (planning x.1 x.2).tails.find? (fun y => y.slot == 5) = some ⟨5, .hold 9⟩
      ∧ (planning x.1 x.2).tails.find? (fun y => y.slot == 4) = none)
    ∧ ((planning 3 1).plan.trans.map (·.cuts)) = some [5]
    ∧ ((planning 3 0).plan.trans.map fun t => (t.style, t.phase)) = some (some .sequential, .out) := by decide +kernel

/-- A record of a phase with its last step to be made. -/
def ending (t : Transition) : State := (due [.fade]).setTrans (some t)

theorem test_witness_ChangeoversAndOutEnd :
    (∀ t ∈ [toward (some 6) (some 7) .fade (some .overlap) 9 8, toward none (some 7) .fade (some .overlap) 1 0,
        toward (some 6) none .fade (some .overlap) 30000 29999], (ending t).due .fade ∧ t.phase = .fade ∧ t.position + 1 = t.fade)
    ∧ (∀ t ∈ [toward (some 6) (some 7) .in_ (some .sequential) 9 4, toward (some 6) (some 7) .in_ (some .sequential) 1 0],
        (ending t).due .fade ∧ t.phase = .in_ ∧ t.position + 1 = max 1 (t.fade - max 1 (t.fade / 2)))
    ∧ (∀ t ∈ [toward (some 6) (some 7) .out (some .sequential) 9 3, toward (some 6) (some 7) .out (some .sequential) 1 0],
        (ending t).due .fade ∧ t.phase = .out ∧ t.source = some 6 ∧ t.position + 1 = max 1 (t.fade / 2)) := by
  refine ⟨fun t h => ⟨due_one rfl rfl rfl, ?_⟩, fun t h => ⟨due_one rfl rfl rfl, ?_⟩, fun t h => ⟨due_one rfl rfl rfl, ?_⟩⟩ <;>
    (revert t; decide +kernel)

theorem test_witness_ChangeoversAndOutEnd_steps :
    ∀ t ∈ [toward (some 6) (some 7) .fade (some .overlap) 9 7, toward (some 6) (some 7) .out (some .sequential) 9 2,
        toward none (some 7) .in_ (some .sequential) 9 3, toward (some 6) (some 7) .prepare none 9 0,
        toward (some 6) (some 7) .claim (some .overlap) 9 0], (ending t).trans = some t
      ∧ (t.phase = .fade → t.position + 1 < t.fade) ∧ (t.phase = .out → t.position + 1 < max 1 (t.fade / 2))
      ∧ (t.phase = .in_ → t.position + 1 < max 1 (t.fade - max 1 (t.fade / 2))) := by decide +kernel

theorem test_witness_ChangeoversAndOutEnd_drain :
    (∃ e ∈ (planning 3 0).engines, e.owner = some 6 ∧ e.state = .assigned)
    ∧ ∀ e ∈ (planning 3 0).engines, ¬ (e.owner = some 5 ∧ e.state = .assigned) := by decide +kernel

/-- 05 R110: the largest of the effective times of every line and band. -/
theorem test_witness_ChangeoversAndOutEnd_release :
    (∃ e ∈ (planning 3 0).engines, e.owner = some 6) ∧ (∀ e ∈ (planning 3 0).engines, e.owner ≠ some 5)
    ∧ Slot.reset.record.bind (·.computed) = none
    ∧ (⟨.live, [], .clear, some { scene with computed := some ⟨[], [⟨100, 2600, 300⟩, ⟨7, 8, 9⟩], [], []⟩ }⟩ : Slot).longest = 2600 := by
  decide +kernel

theorem test_witness_FadesAndGlidesReachTheirEnds :
    (0 < 1 ∧ 1 ≤ 1) ∧ (0 ≤ 30000 ∧ (30000 : Nat) ≤ 30000) ∧ 0 < (last 0 600).length ∧ 4 ≤ (last 0 600).length
      ∧ (8 : Nat) ≤ 8 := by decide

/-- 05 R103's table, and R111's steps from 32768. -/
theorem test_fadeTables : [1, 2, 3, 4, 5].map (rise · 6) = [5461, 10923, 16384, 21845, 27307]
    ∧ [1, 2, 3, 4, 5, 6, 7, 8].map (closingFade 32768) = [28672, 24576, 20480, 16384, 12288, 8192, 4096, 0] := by decide

/-- The tail of slot 7 at a stage; engine 31 is DRAINING for the slot. -/
def tailing (stage : TailStage) : State :=
  (((due [.tail 7]).setTails [⟨7, stage⟩]).setEngines
    (State.reset.engines.set 31 { Engine.free with state := .draining, owner := some 7, line := some 0 }))

theorem test_witness_TailsEnd :
    (∀ x ∈ [TailStage.hold 1, .closing 32768 7], (tailing x).due (.tail 7) ∧ (tailing x).slots.length = 8
        ∧ (tailing x).net.play.length = 8 ∧ (tailing x).tails.find? (fun t => t.slot == 7) = some ⟨7, x⟩)
      ∧ (tailing (.closing 32768 7)).ownsEngines 7 = true := by
  refine ⟨fun x h => ⟨due_one rfl rfl rfl, rfl, rfl, ?_⟩, by decide +kernel⟩
  revert x; decide +kernel

theorem test_witness_TailsEnd_steps :
    (tailing (.hold 2)).tails.find? (fun t => t.slot == 7) = some ⟨7, .hold (1 + 1)⟩
      ∧ (tailing (.closing 32768 6)).tails.find? (fun t => t.slot == 7) = some ⟨7, .closing 32768 6⟩ ∧ 6 + 1 < 8 := by decide +kernel

/-- Engine 31 scrubs, at a progress. -/
def scrubbing (k : Nat) : State :=
  (due [.scrub 31]).setEngines (State.reset.engines.set 31 { Engine.free with
    state := .scrubbing, scrub := some k, region := [(0, 1), (2047, 2), (2048, 3), (32767, 4)] })

theorem test_witness_ScrubbingClearsTheRegion :
    (scrubbing 15).due (.scrub 31) ∧ (scrubbing 15).engines[31]? = some ((scrubbing 15).engines.getD 31 .free)
      ∧ ((scrubbing 15).engines.getD 31 .free).scrub = some 15 ∧ ((scrubbing 14).engines.getD 31 .free).scrub = some 14
      ∧ sparseWf (0 : Int) 0 ((scrubbing 14).engines.getD 31 .free).region = true :=
  ⟨due_one rfl rfl rfl, by decide +kernel⟩

theorem test_witness_LineArithmetic : Engine.free.words = ⟨0, 0, 0⟩ ∧ -(65536 * (Engine.free.depth : Int)) ≤ Engine.free.sweep
    ∧ Engine.free.sweep ≤ 65536 * Engine.free.depth ∧ 127 < (List.replicate 128 (0 : Int)).length
    ∧ { Filter.off with engaged := true, mic := 47 }.engaged = true ∧ { Filter.off with engaged := true, mic := 47 }.mic = 47
    ∧ ¬ (Filter.off.engaged = true ∧ Filter.off.mic = 47) ∧ sparseWf (0 : Int) 0 [(32767, 9)] = true := by decide +kernel

/-- An engine at the bound of its sweep, or one rate before it, in a direction. -/
def sweeping (up : Bool) (sweep : Int) : Engine := { Engine.free with depth := 1, rate := 20, up := up, sweep := sweep }

theorem test_witness_LineArithmetic_sweep :
    (sweeping true 65516).sweepStep = sweeping true 65536 ∧ (sweeping true 65536).sweepStep = sweeping false 65536
      ∧ (sweeping false (-65516)).sweepStep = sweeping false (-65536)
      ∧ (sweeping false (-65536)).sweepStep = sweeping true (-65536) := by decide +kernel

/-- LOAD MIC TABLE of the image at 0x6000: a table whose microphone `m` has the flags `flags`, with its check word. -/
def micTable (m : Nat) (flags : Byte) : List Byte :=
  let bs := [0x4D, 0x49, 0x43, 0x54] ++ (List.range 48).flatMap fun i => [if i = m then flags else 3, 2, 0, 0]
  bs ++ leBytes 2 (-(wordSum bs)).toNat
def tabled (image : List Byte) : State :=
  (posted 0x31 (leBytes 4 0x6000)).setRam (writeBytes (posted 0x31 (leBytes 4 0x6000)).ram 0x6000 image)

theorem test_witness_LoadMicTableTakesTheImage :
    (posted 0x31 (leBytes 4 0x7FF3B)).takeable 0 .loadMicTable ∧ 0x80000 < u32 (cueBytes (posted 0x31 (leBytes 4 0x7FF3B)).ram 0) 12 + 198
      ∧ (tabled (micTable 47 3)).takeable 0 .loadMicTable ∧ (tabled (micTable 47 4)).takeable 0 .loadMicTable
      ∧ (∀ m < 48, .trimGlide m ∉ (tabled []).todo)
      ∧ wordSum (readBytes (tabled (micTable 47 4)).ram 0x6000 198) = 0 ∧ wordSum (readBytes (tabled [1]).ram 0x6000 198) ≠ 0
      ∧ (readBytes (tabled (micTable 47 4)).ram 0x6000 198).take 4 = [0x4D, 0x49, 0x43, 0x54]
      ∧ u8 (readBytes (tabled (micTable 47 4)).ram 0x6000 198) (4 + 4 * 47) = 4
      ∧ (readBytes (tabled []).ram 0x6000 198).take 4 ≠ [0x4D, 0x49, 0x43, 0x54] :=
  ⟨takeable_of_passes (by decide +kernel), by decide +kernel, takeable_of_passes (by decide +kernel),
    takeable_of_passes (by decide +kernel), by decide +kernel, by decide +kernel, by decide +kernel, by decide +kernel,
    by decide +kernel, by decide +kernel⟩

/-- The trim glide of microphone 47 has its last step still to be made. -/
def retrimming : State :=
  ((tabled (micTable 47 3)).setTodo [.take, .trimGlide 47]).setMics
    (State.reset.mics.set 47 { Mic.reset with trimWord := 99, trimGlide := some (last 600 0) })

theorem test_witness_LoadMicTableTakesTheImage_stepped : retrimming.takeable 0 .loadMicTable ∧ .trimGlide 47 ∈ retrimming.todo
    ∧ ((after (.loadMicTable 0) retrimming).mic 47).trimGlide = some ⟨0, 8192, 16, 0⟩ :=
  ⟨takeable_of_passes (by decide +kernel), by decide +kernel, by decide +kernel⟩

/-- SET GUARD at the limits of its ranges, or past them. -/
def guardBody (more : Nat) : List Byte :=
  [1] ++ leBytes 2 (3000 + more) ++ leBytes 2 (twos16 (-1200)) ++ [16] ++ leBytes 2 47 ++ leBytes 2 4700 ++ [5]

theorem test_witness_SetGuardTakesItsSettings :
    (posted 0x32 (guardBody 0)).takeable 0 .setGuard ∧ (posted 0x32 (guardBody 1)).takeable 0 .setGuard :=
  ⟨takeable_of_passes (by decide +kernel), takeable_of_passes (by decide +kernel)⟩

/-- FIX NOTCH on microphone 47 at bin 426, the entries of the pool being of a kind. -/
def fixing (kind : NotchKind) : State :=
  (posted 0x33 ([47] ++ leBytes 2 426 ++ leBytes 2 1801)).setGuard
    { Guard.reset with pool := List.replicate 16 { Notch.reset with kind := kind, mic := 3, bin := 9 } }

theorem test_witness_FixNotchPlacesANotch :
    (posted 0x33 [48]).takeable 0 .fixNotch
      ∧ (∀ x ∈ [NotchKind.free, .fixed], (fixing x).takeable 0 .fixNotch ∧ (fixing x).guard.pool.length = 16)
      ∧ (∀ n ∈ (fixing .fixed).guard.pool, n.kind = .fixed ∧ n.mic ≠ 47)
      ∧ ((fixing .free).guard.pool[0]?).any (fun n => n.kind == .free && !n.filter.engaged) = true
      ∧ .depthGlide 0 ∉ (fixing .free).todo := by
  refine ⟨takeable_of_passes (by decide +kernel), fun x h => ⟨takeable_of_passes ?_, ?_⟩, by decide +kernel, by decide +kernel,
    by decide +kernel⟩ <;> (revert x; decide +kernel)

/-- The entries of the pool are notches of microphone 47 at the bins from 426 down, FLOATING or, the one at 424, FIXED. -/
def nearby : State :=
  (fixing .free).setGuard { Guard.reset with pool := (List.range 16).map fun i =>
    { Notch.reset with kind := if i = 2 then .fixed else .floating, mic := 47, bin := 427 - 2 * i, depth := 600
                       filter := { Filter.off with engaged := true, mic := 47, bin := 427 - 2 * i, depth := 600 } } }

theorem test_witness_FixNotchPlacesANotch_nearbyAndVictim :
    (nearby.takeable 0 .fixNotch ∧ nearby.guard.pool.length = 16 ∧ (∀ j < 16, Work.depthGlide j ∉ nearby.todo)
      ∧ nearby.guard.nearNotch 47 426 = some 1 ∧ (nearby.entry 0).bin = 427 ∧ 0 < (nearby.entry 0).filter.depth)
    ∧ ((fixing .floating).takeable 0 .fixNotch ∧ (∀ n ∈ (fixing .floating).guard.pool, n.kind ≠ .free ∧ n.mic ≠ 47)
      ∧ (fixing .floating).victim 0 = some 0) :=
  ⟨⟨takeable_of_passes (by decide +kernel), by decide +kernel⟩, takeable_of_passes (by decide +kernel), by decide +kernel⟩

/-- The filter of the FREE entry 0 is still on microphone 47 at bin 426, its glide to 0 having two steps to make. -/
def lingering : State :=
  let f : Filter := { Filter.off with engaged := true, mic := 47, bin := 426, depth := 300, glide := some (early 600 0) }
  ((fixing .free).setTodo [.take, .depthGlide 0]).setGuard
    { Guard.reset with pool := Guard.reset.pool.set 0 { Notch.reset with filter := f } }

theorem test_witness_FixNotchPlacesANotch_stepped : lingering.takeable 0 .fixNotch ∧ lingering.guard.pool.length = 16
    ∧ .depthGlide 0 ∈ lingering.todo ∧ (lingering.guard.pool[0]?).any (fun n => n.kind == .free) = true
    ∧ ((after (.fixNotch 0) lingering).entry 0).filter.glide = some ⟨150, 1800, 4, 0⟩ :=
  ⟨takeable_of_passes (by decide +kernel), by decide +kernel⟩

/-- CLEAR NOTCH of entry 15, a notch at its depth. -/
def unnotching : State :=
  (posted 0x34 [15]).setGuard { Guard.reset with
    pool := Guard.reset.pool.set 15
      ⟨.fixed, 47, 426, 600, 0, 0, { Filter.off with engaged := true, mic := 47, bin := 426, depth := 600 }⟩ }

theorem test_witness_StatusAndNotchesAreCleared :
    (posted 0x23 [7]).takeable 0 .clearStatus ∧ (posted 0x23 [8]).takeable 0 .clearStatus
      ∧ (posted 0x34 [15]).takeable 0 .clearNotch ∧ (posted 0x34 [16]).takeable 0 .clearNotch ∧ unnotching.takeable 0 .clearNotch
      ∧ ((posted 0x34 [15]).entry 15).kind = .free ∧ (unnotching.entry 15).kind ≠ .free
      ∧ 0 < (unnotching.entry 15).filter.depth ∧ .depthGlide 15 ∉ unnotching.todo :=
  ⟨takeable_of_passes (by decide +kernel), takeable_of_passes (by decide +kernel), takeable_of_passes (by decide +kernel),
    takeable_of_passes (by decide +kernel), takeable_of_passes (by decide +kernel), by decide +kernel⟩

/-- The notch of entry 15 has not left depth 0, or has its glide's last step to it still to be made. -/
def shallow (works : List Work) : State :=
  ((posted 0x34 [15]).setTodo (.take :: works)).setGuard { Guard.reset with
    pool := Guard.reset.pool.set 15
      ⟨.fixed, 47, 426, 600, 0, 0, { Filter.off with engaged := true, mic := 47, bin := 426, glide := some (last 0 600) }⟩ }

theorem test_witness_StatusAndNotchesAreCleared_depth :
    (shallow []).takeable 0 .clearNotch ∧ (shallow [.depthGlide 15]).takeable 0 .clearNotch
      ∧ ((after (.clearNotch 0) (shallow [])).entry 15).filter.engaged = false
      ∧ ((after (.clearNotch 0) (shallow [.depthGlide 15])).entry 15).filter.glide = some ⟨600, 0, 4, 0⟩ :=
  ⟨takeable_of_passes (by decide +kernel), takeable_of_passes (by decide +kernel), by decide +kernel⟩

theorem test_witness_ClearGuardTakesBack :
    (posted 0x35 []).takeable 0 .clearGuard ∧ (posted 0x35 []).mics.length = 48 ∧ (posted 0x35 []).guard.pool.length = 16 :=
  ⟨takeable_of_passes (by decide +kernel), by decide +kernel⟩

/-- CLEAR GUARD meets a floating notch in entry 15, a phi of microphone 47, beta 20 and slot 7 LIVE, both glides being due or not. -/
def clearing (works : List Work) : State :=
  ((((posted 0x35 []).setGuard { Guard.reset with
    beta := 20
    pool := Guard.reset.pool.set 15 ⟨.floating, 47, 9, 600, 4, 0, ⟨true, 47, 9, 300, some (early 600 0), ⟨0, 0, 0, 0, 0⟩, 0, 0, 0, 0⟩⟩ }).setMics
      (State.reset.mics.set 47 { Mic.reset with phi := 300, fallbackWord := 7000, fallbackGlide := some (early 8000 6000) })).setSlots
        live7.slots).setTodo (.take :: works)

theorem test_witness_ClearGuardTakesBack_guard : ∀ works ∈ [[], [Work.depthGlide 15, .fallbackGlide 47]],
    (clearing works).takeable 0 .clearGuard ∧ (clearing works).mics.length = 48 ∧ (clearing works).guard.pool.length = 16
      ∧ ((clearing works).entry 15).kind = .floating ∧ ((clearing works).mic 47).phi ≠ 0 ∧ ((clearing works).mic 0).phi = 0
      ∧ 0 < (clearing works).guard.beta ∧ (clearing works).live = some 7 := by
  intro works h
  refine ⟨takeable_of_passes ?_, ?_⟩ <;> (revert works; decide +kernel)

/-- An analysis is due in a mode. -/
def analysing (mode : EngineMode) : State := (due [.analysis]).setMode { ModeControl.reset with mode := mode }

theorem test_witness_AnalysisRuns :
    ∀ x ∈ [EngineMode.stopped, .dry, .active], (analysing x).due .analysis ∧ (analysing x).mics.length = 48
      ∧ (analysing x).mode.mode = x ∧ (analysing x).guard.settings.enable = false :=
  fun _ _ => ⟨due_one rfl rfl rfl, rfl, rfl, rfl⟩

/-- 06 R126: all eight stages as one operation, from an analysis before which another work stands. -/
theorem test_witness_AnalysisRuns_whole :
    let s := (analysing .active).setTodo [.lanes, .analysis, .publish]
    s.due .analysis ∧ (after (.analysis true) s).todo.length = 68
      ∧ (after (.analysis false) s).todo = [.lanes, .publish] ∧ (after (.analysis false) s).guard.progress = none
      ∧ (after (.analysis false) s).guard.analyses = 1 :=
  ⟨⟨rfl, by decide +kernel, by decide +kernel⟩, by decide +kernel⟩

/-- Microphone 47 has a candidate at bin 54 in the analysis in progress, and a persistence count and bin from the last. -/
def ringing (count : Nat) (candidate : Option Nat) : State :=
  (State.reset.setGuard { Guard.reset with progress := some ⟨List.replicate 47 none ++ [candidate], [], false, 0⟩ }).setMics
    (State.reset.mics.set 47 { Mic.reset with persistence := count, persistenceBin := 55 })

theorem test_witness_AnalysisRuns_stages :
    (∀ c ∈ [0, 1, 3], (ringing c (some 54)).candidate 47 = some 54 ∧ (ringing c (some 54)).mics.length = 48
      ∧ ((ringing c (some 54)).mic 47).persistence = c)
    ∧ (ringing 3 none).candidate 47 = none ∧ (ringing 3 none).guard.settings.persistence = 3 + 1
    ∧ (persistMic (ringing 3 (some 54), []) 47).2 = [(47, 54)] ∧ (persistMic (ringing 2 (some 54), []) 47).2 = []
    ∧ (State.reset.arbiterOrder [(3, 9), (47, 54)] = [(3, 9), (47, 54)] ∧ [(3, 9), (47, 54)].Pairwise fun a b => a.1 < b.1)
    ∧ ((spectrum [])[2 - 2]? = some (-14400) ∧ ∀ l ∈ spectrum [], l ≤ -14400) := by decide +kernel

/-- 06 R127: the power mean of 425 levels of which one is 0 cdBFS. -/
theorem test_meanLevel : meanLevel ([0] ++ List.replicate 424 (-14400)) = -2628 := by decide +kernel

theorem test_witness_RingsAreActedOn :
    State.reset.guard.pool.length = 16 ∧ (∀ n ∈ State.reset.guard.pool, n.kind = .free)
      ∧ State.reset.guard.pool[0]? = some .reset ∧ .depthGlide 0 ∉ State.reset.todo ∧ State.reset.mics.length = 48 := by
  decide +kernel

/-- A pool of notches of microphone 3 at bin 9, of a kind and a depth; entry 15 is the oldest, and BACK-OFF is at 290. -/
def pooled (kind : NotchKind) (depth : Nat) : State :=
  State.reset.setGuard { Guard.reset with
    beta := 290, analyses := 7
    pool := (List.range 16).map fun i =>
      ⟨kind, 3, 9, depth, 1, BitVec.ofNat 32 (7 - i / 15), { Filter.off with engaged := true, mic := 3, bin := 9, depth := 600 }⟩ }

theorem test_witness_RingsAreActedOn_rows :
    (∀ x ∈ [(NotchKind.floating, 1500), (.floating, 1800), (.fixed, 300)], (pooled x.1 x.2).guard.nearNotch 3 10 = some 0
      ∧ ((pooled x.1 x.2).entry 0).kind = x.1 ∧ ((pooled x.1 x.2).entry 0).depth = x.2 ∧ .depthGlide 0 ∉ (pooled x.1 x.2).todo)
    ∧ (∀ x ∈ [NotchKind.floating, .fixed], (pooled x 600).guard.nearNotch 3 11 = none
      ∧ ∀ z ∈ (pooled x 600).guard.pool, z.kind ≠ .free)
    ∧ (pooled .floating 600).victim 2 = some 15 ∧ (pooled .fixed 600).victim 0 = none
    ∧ ((pooled .floating 600).entry 15).mic < 48 ∧ (pooled .floating 600).mics.length = 48
    ∧ (pooled .floating 600).att.notices.length = 14 ∧ .fallbackGlide 3 ∉ (pooled .fixed 300).todo := by decide +kernel

theorem test_witness_RingsAreActedOn_stepped :
    let s := (((pooled .floating 600).setGuard { (pooled .floating 600).guard with
      pool := (pooled .floating 600).guard.pool.map fun n => { n with filter := { n.filter with glide := some (last 0 600) } } }).setMics
        (State.reset.mics.set 3 { Mic.reset with fallbackGlide := some (last 8192 4000) })).setTodo [.depthGlide 0, .fallbackGlide 3]
    s.guard.nearNotch 3 9 = some 0 ∧ .depthGlide 0 ∈ s.todo ∧ .fallbackGlide 3 ∈ s.todo
      ∧ ((s.actOn (3, 9)).entry 0).filter.glide = some ⟨600, 900, 4, 0⟩
      ∧ ((s.fallbackStep 3).mic 3).fallbackGlide = some ⟨4000, 5799, 16, 0⟩ := by decide +kernel

/-- 06 R134: a fallback step from phi 0 and beta 290: FALLBACK APPLIED with microphone 3 and phi 300, beta 300. -/
theorem test_fallbackStep : ((pooled .fixed 300).actOn (3, 9)).att.notice 6 = ⟨true, 1, 0x012C0003, 0⟩
    ∧ ((pooled .fixed 300).actOn (3, 9)).guard.beta = 300
    ∧ (((pooled .fixed 300).actOn (3, 9)).mic 3).fallbackGlide = some ⟨8192, 5799, 16, 0⟩ := by decide +kernel

/-- A floating notch in entry 15 at its last analysis of hold, at a depth. -/
def expiring (depth : Nat) (candidate : Option Nat) : State :=
  (due [.hold 15, .deviceQuiet]).setGuard { Guard.reset with
    pool := Guard.reset.pool.set 15
      ⟨.floating, 47, 54, depth, 1, 0, { Filter.off with engaged := true, mic := 47, bin := 54, depth := depth }⟩
    progress := some ⟨List.replicate 47 none ++ [candidate], [], false, 0⟩ }
/-- Microphone 47 one analysis before its recovery, with a phi; so is the device. -/
def recovering (work : Work) (phi : Nat) : State :=
  ((due [work]).setMics (State.reset.mics.set 47 { Mic.reset with phi := phi, quiet := 234 })).setGuard
    { Guard.reset with deviceQuiet := 234, beta := 20, progress := some ⟨List.replicate 48 none, [], false, 20⟩ }

theorem test_witness_TheGuardRecovers :
    (∀ x ∈ [(600, none), (600, some 55), (300, none), (301, some 52)], (expiring x.1 x.2).guard.pool.length = 16
      ∧ (expiring x.1 x.2).mics.length = 48 ∧ (expiring x.1 x.2).stageDue (.hold 15)
      ∧ ((expiring x.1 x.2).entry 15).kind = .floating ∧ ((expiring x.1 x.2).entry 15).hold ≤ 1
      ∧ .depthGlide 15 ∉ (expiring x.1 x.2).todo ∧ (expiring x.1 x.2).candidate 47 = x.2
      ∧ 0 < ((expiring x.1 x.2).entry 15).filter.depth)
    ∧ (∀ phi ∈ [0, 50, 1800], (recovering (.quiet 47) phi).stageDue (.quiet 47)
      ∧ (recovering (.quiet 47) phi).mics[47]? = some { Mic.reset with phi := phi, quiet := 234 }
      ∧ (recovering (.quiet 47) phi).guard.progress = some ⟨List.replicate 48 none, [], false, 20⟩
      ∧ (recovering (.quiet 47) phi).guard.settings.recovery ≤ 234 + 1 ∧ .fallbackGlide 47 ∉ (recovering (.quiet 47) phi).todo)
    ∧ (recovering .deviceQuiet 0).stageDue .deviceQuiet
      ∧ (recovering .deviceQuiet 0).guard.settings.recovery ≤ (recovering .deviceQuiet 0).guard.deviceQuiet + 1 := by
  refine ⟨fun x h => ⟨by rfl, rfl, stageDue_head rfl rfl rfl, ?_⟩, fun x h => ⟨stageDue_head rfl rfl rfl, ?_⟩,
    stageDue_head rfl rfl rfl, by decide +kernel⟩ <;> (revert x; decide +kernel)

/-- Stages 5 to 8 before an expiry, and stage 8 with slot 7 LIVE. -/
def waning (quiet : Nat) (touched : List Nat) (confirmed : Bool) : State :=
  (((due []).setMics (State.reset.mics.set 47 { Mic.reset with quiet := quiet })).setGuard { Guard.reset with
    deviceQuiet := quiet, beta := 20, progress := some ⟨List.replicate 48 none, touched, confirmed, 0⟩
    pool := Guard.reset.pool.set 15 ⟨.floating, 47, 54, 300, 2, 0, { Filter.off with engaged := true, mic := 47, bin := 54 }⟩ }).setSlots
      live7.slots

theorem test_witness_TheGuardRecovers_before :
    (((waning 3 [] false).entry 15).hold = 2 ∧ (waning 3 [] false).candidate 47 = none
      ∧ ((State.perform (.hold 15) (waning 3 [] false)).entry 15).hold = 1)
    ∧ (waning 3 [] false).mics[47]? = some { Mic.reset with quiet := 3 } ∧ 3 + 1 < (waning 3 [] false).guard.settings.recovery
    ∧ (waning 0 [47] true).mics[47]? = some Mic.reset ∧ (State.perform (.quiet 47) (waning 0 [47] true)) = waning 0 [47] true
    ∧ (waning 3 [] true).guard.progress.any (·.confirmed) = true
    ∧ ((State.perform .deviceQuiet (waning 3 [] true)).guard.deviceQuiet, (State.perform .deviceQuiet (waning 3 [] false)).guard.deviceQuiet)
        = (0, 4)
    ∧ (waning 3 [] false).live = some 7
    ∧ (State.perform .betaRequest (waning 3 [] false)).coef.underWay.map (fun c => (c.slot, c.glide)) = some (7, some 32) := by
  decide +kernel

/-- The notch leaves at filter depth 0. -/
theorem test_witness_TheGuardRecovers_leaving :
    let s := (expiring 300 none).setGuard { (expiring 300 none).guard with
      pool := Guard.reset.pool.set 15 ⟨.floating, 47, 54, 300, 1, 0, { Filter.off with engaged := true, mic := 47, bin := 54 }⟩ }
    s.stageDue (.hold 15) ∧ (s.entry 15).hold ≤ 1 ∧ ((after (.notchHoldExpiry 15) s).entry 15).filter.engaged = false :=
  ⟨stageDue_head rfl rfl rfl, by decide +kernel⟩

theorem test_witness_FrameBoundaryAdvances : State.reset.resetHeld = false ∧ State.reset.todo = []
    ∧ (State.reset.setFramePos 63).framePos < 64 ∧ 64 ≤ (State.reset.setFramePos 64).framePos
    ∧ .lanes ∈ (State.reset.setFramePos 64).openBoundary.todo
    ∧ State.reset.engines.length = 32 ∧ State.reset.mics.length = 48 ∧ State.reset.guard.pool.length = 16
    ∧ State.reset.tails.length ≤ 8 := by decide +kernel

/-- Works that are left due are done: an analysis and a take, with the refusals before the take, before the publication. -/
theorem test_witness_FrameBoundaryAdvances_settle :
    let s := due [.analysis, .take, .claim, .refuse, .publish]
    let weight (x : Work) : Nat := match x with
      | .analysis => 201
      | .claim | .publish => 1
      | _ => 3
    (s.todo.map weight).sum = 209 ∧ s.todo.count .claim + s.todo.count .publish = 2 ∧ .publish ∉ s.todo.dropLast
      ∧ (s.doWork .take).todo = [.analysis, .claim, .publish] ∧ .gap ∉ s.todo ∧ s.todo ≠ [.publish]
      ∧ s.settle.todo = [] := by decide +kernel

/-- Cue 3 waits in slot 0 and cue 1 is missing, 749 frames long. -/
def gap : State :=
  ((due [.gap]).setRam (writeBytes [] 0x1000 ((cue 0x01 []).set 4 3))).setCues { CueUnit.reset with gapTimer := 749 }

theorem test_witness_TheGapIsReported :
    gap.due .gap ∧ .refuse ∉ gap.todo ∧ .take ∉ gap.todo ∧ gap.cues.tookNow = false ∧ gap.expectedSlot = none
      ∧ gap.cues.gapTimer = 749 ∧ gap.isCandidate 0 = true ∧ isAhead gap.cues.expected (cueNumber gap.ram 0) = true
      ∧ ∀ j < 32, gap.isCandidate j = true → isAhead gap.cues.expected (cueNumber gap.ram j) = true →
        (cueNumber gap.ram 0 - gap.cues.expected).toNat ≤ (cueNumber gap.ram j - gap.cues.expected).toNat :=
  ⟨due_one rfl rfl rfl, by decide, by decide, rfl, by decide +kernel, rfl, by decide +kernel, by decide +kernel,
    by decide +kernel⟩

/-- A frame boundary that makes the refusals and the takes, and then the gap timer's work: cue 3 waits, cue 1 is missing. -/
theorem test_witness_TheGapIsReported_boundary :
    let s := (gap.setTodo []).setFramePos 64
    s.resetHeld = false ∧ 64 ≤ s.framePos
      ∧ (after (.frameBoundary [.refuse, .take, .take, .take, .take] true) s).cues.gapTimer = 749
      ∧ (after (.frameBoundary [.gap] true) s).cues.gapTimer = 0
      ∧ ((after (.frameBoundary [.gap] true) s).att.notice 1).pending = true := by decide +kernel

theorem test_witness_TheGapIsReported_before :
    let s := gap.setCues { CueUnit.reset with gapTimer := 748 }
    s.cues.tookNow = false ∧ s.expectedSlot = none ∧ s.isCandidate 0 = true
      ∧ isAhead s.cues.expected (cueNumber s.ram 0) = true ∧ s.cues.gapTimer < 749
      ∧ (State.perform .gap s).cues.gapTimer = 749 ∧ (posted 0x01 []).expectedSlot = some 0
      ∧ (State.perform .gap (State.reset.setCues s.cues)).cues.gapTimer = 0 := by decide +kernel

/-- Mode control with a request not yet taken, or with the last step of a ramp to be made. -/
def moding (work : Work) (mode : EngineMode) (factor : Nat) (ramp : Option Glide) (stops : Bool) (request : Option EngineMode) :
    State := (due [work]).setMode ⟨mode, factor, ramp, stops, false, request⟩

theorem test_witness_ModeRequestsAndRampsEnd :
    (∀ x ∈ [(EngineMode.active, 32768, EngineMode.stopped), (.dry, 0, .stopped), (.stopped, 0, .active)],
      (moding .modeTake x.1 x.2.1 none false (some x.2.2)).due .modeTake
        ∧ .modeRamp ∉ (moding .modeTake x.1 x.2.1 none false (some x.2.2)).todo)
    ∧ (∀ x ∈ [(EngineMode.stopped, true), (.active, false)],
      (moding .modeRamp x.1 512 (some (last 512 0)) x.2 none).due .modeRamp)
    ∧ State.reset.slots.length = 8 ∧ (tailing (.hold 9)).ownsEngines 7 = true
    ∧ (early 512 0).step + 1 < (early 512 0).length
    ∧ (moding .modeRamp .stopped 512 (some (early 512 0)) true none).mode.ramp = some (early 512 0) := by
  refine ⟨fun x _ => ⟨due_one rfl rfl rfl, ?_⟩, fun x _ => due_one rfl rfl rfl, rfl, by decide +kernel⟩
  show Work.modeRamp ∉ [Work.modeTake]
  decide

/-- 07 R159: a request for the mode already held writes the page's mode field, over what the host wrote there. -/
theorem test_modeFieldIsWritten :
    let s := after (.modeRequest .taken) ((moding .modeTake .active 32768 none false (some .active)).setRam [(2, 9)])
    s.changed.testBit 0x002 = true ∧ readBytes (State.perform .publish s).ram 2 1 = [1] ∧ Memory.wf s.ram = true
      ∧ s.lanes.length = 6 ∧ s.att.notices.length = 14 ∧ s.slots.length = 8 ∧ s.engines.length = 32
      ∧ s.guard.pool.length = 16 ∧ s.mics.length = 48
      ∧ s.shown.map (fun e => (e.1, e.2.length)) = s.view.map (fun e => (e.1, e.2.length)) := by decide +kernel

/-- 07 R162: a STOPPED ramp's last step falls where a mode is taken; a changeover is in PREPARE. -/
def resuming (m : EngineMode) : State :=
  ((due [.modeRamp, .modeTake]).setMode ⟨.stopped, 512, some (last 512 0), true, false, some m⟩).setTrans
    (some (toward none (some 7) .prepare none 9 0))

theorem test_witness_ModeRequestsAndRampsEnd_resumed :
    ∀ m ∈ [EngineMode.active, .dry], (resuming m).due .modeTake ∧ .modeRamp ∈ (resuming m).todo
      ∧ (resuming m).mode.request = some m ∧ (resuming m).mode.ramp = some (last 512 0)
      ∧ (after (.modeRequest .taken) (resuming m)).trans = (resuming m).trans := by
  intro m h
  refine ⟨⟨rfl, ?_, rfl⟩, ?_⟩ <;> (revert m; decide +kernel)

/-- A mode is taken where a ramp's step that is not its last is still to be made. -/
def reversing (m : EngineMode) : State :=
  (due [.modeRamp, .modeTake]).setMode ⟨.stopped, 32768, some ⟨32768, 0, 64, 19⟩, true, false, some m⟩

theorem test_witness_ModeRequestsAndRampsEnd_reversed :
    ∀ m ∈ [EngineMode.active, .stopped], (reversing m).due .modeTake ∧ .modeRamp ∈ (reversing m).todo
      ∧ (reversing m).mode.request = some m ∧ (reversing m).mode.ramp = some ⟨32768, 0, 64, 19⟩ ∧ 19 + 1 < 64
      ∧ (after (.modeRequest .taken) (reversing .active)).mode.ramp = some ⟨22528, 32768, 64, 0⟩ := by
  intro m h
  refine ⟨⟨rfl, ?_, rfl⟩, ?_⟩ <;> (revert m; decide +kernel)

/-- 05 R114: a GO held in slot 3 is answered ABORTED with CLAMPED; no CHANGEOVER ENDED. -/
theorem test_witness_ModeRequestsAndRampsEnd_abort :
    let t := { toward (some 6) (some 7) .fade (some .overlap) 9 4 with clamped := true }
    let s := ((ending t).setCues { CueUnit.reset with held := CueUnit.reset.held.set 3 (some (cue 0x21 [7])) })
    s.trans = some t ∧ s.cues.held.getD t.cueSlot none = some (cue 0x21 [7]) ∧ s.att.notices.length = 14
      ∧ readBytes s.stopChangeovers.ram (0x1000 + 128 * 3 + 6) 6 = [0x0D, 0x21, 0, 0, 0, 0x80]
      ∧ (s.stopChangeovers.att.notice 3).pending = false := by decide +kernel

/-- The clock with the last step of a ramp to be made. -/
def ramping (state : ClockState) (stop : Int) : State :=
  (due [.resyncRamp]).setClock { Clock.reset with
    external := true, state := state, destination := some .wordClock, ramp := some (last 512 stop) }

theorem test_witness_TheResyncRampTurns :
    (ramping .resync 0).due .resyncRamp ∧ (ramping .resync 0).clock.turnUp = false
      ∧ (ramping .resync 0).clock.ramp = some (last 512 0) ∧ (ramping .following 32768).due .resyncRamp
      ∧ (ramping .following 32768).clock.state ≠ .resync ∧ (early 512 0).step + 1 < (early 512 0).length
      ∧ ((ramping .resync 0).setClock { Clock.reset with ramp := some (early 512 0) }).clock.ramp = some (early 512 0) :=
  ⟨due_one rfl rfl rfl, rfl, rfl, due_one rfl rfl rfl, by decide, by decide, rfl⟩

/-- 07 section 7.6: the word clock is lost during the down ramp; its last step leaves 16896, where the up ramp starts. -/
theorem test_witness_TheResyncRampTurns_lost :
    let s := (due []).setClock { Clock.reset with
      external := true, state := .holdover, factor := 17408, ramp := some ⟨32768, 0, 64, 30⟩, turnUp := true }
    s.clock.turnUp = true ∧ s.clock.holdsOver = true ∧ (State.perform .resyncRamp s).clock.ramp = some ⟨16896, 32768, 64, 0⟩
      ∧ (State.perform .resyncRamp s).clock.turnUp = false := by decide +kernel

/-- 07 R153: the word clock was lost in FOLLOWING since the last frame boundary; CLOCK HOLDOVER starts here, and a source change
or a RESYNC taken here comes after it. -/
theorem test_witness_TheResyncRampTurns_holdover :
    let s := (due [.clockTake]).setClock { Clock.reset with external := true, state := .holdover }
    let change := s.setClock { s.clock with newSource := some false }
    let again := s.setClock { s.clock with newResync := true }
    (s.clock.newSource = none ∧ s.clock.newResync = false ∧ s.clock.holdsOver = true ∧ (s.att.notice 10).pending = false
      ∧ s.att.notices.length = 14 ∧ (State.perform .clockTake s).att.notice 10 = ⟨true, 1, 0, 0⟩)
    ∧ (change.todo = [.clockTake] ∧ change.resetHeld = false ∧ change.clock.newSource = some (!change.clock.external)
      ∧ (after (.clockSource .taken) change).att.notice 10 = ⟨false, 1, 0, 0⟩)
    ∧ (again.clock.newResync = true ∧ (after (.resync .taken) again).att.notice 10 = ⟨true, 1, 0, 0⟩)
    ∧ (let held := State.perform .clockTake s
      let back := held.setClock { held.clock with state := .internal, external := false }
      back.clock.holdsOver = false ∧ (State.perform .clockTake back).att.notice 10 = ⟨false, 1, 0, 0⟩) := by decide +kernel

/-- The clock with a request not yet taken, CLOCK HOLDOVER standing as it should. -/
def clocking (external : Bool) (state : ClockState) (d : Option Destination) (factor : Nat) (present : Bool)
    (source : Option Bool) (resync : Bool) : State :=
  let s := (due [.clockTake]).setClock ⟨external, state, d, factor, none, false, present, 0, source, resync⟩
  s.judgeClock

theorem test_witness_SourceChangesAreTaken :
    ∀ s ∈ [clocking false .internal none 32768 true (some true) false, clocking false .internal none 32768 false (some true) false,
        clocking true .following none 512 true (some false) false, clocking true .holdover none 32768 false (some false) false,
        clocking true .held none 32768 true (some false) false,
        clocking true .resync (some .wordClock) 512 true (some false) false,
        clocking false .resync (some .crystal) 512 true (some true) false, clocking false .internal none 0 true (some true) false,
        clocking true .following none 0 true (some false) false],
      s.todo = [.clockTake] ∧ s.resetHeld = false ∧ s.clock.newSource = some (!s.clock.external) ∧ s.clock.newResync = false
        ∧ (s.att.notice 10).pending = s.clock.holdsOver := by decide +kernel

/-- RUNCTL is written with RESYNC and the source that stands, and the frame boundary comes to the clock's work. -/
def resyncing (external : Bool) (state : ClockState) (factor : Nat) : State :=
  after (.registerWrite 4 4 (if external then 0x30 else 0x20)) (clocking external state none factor true none false)

theorem test_witness_ResyncActsInHeldAlone :
    ∀ s ∈ [resyncing true .held 32768, resyncing true .held 0, resyncing false .internal 32768,
        clocking true .held none 32768 true none true],
      s.todo = [.clockTake] ∧ s.resetHeld = false
        ∧ (s.clock.newSource = none ∨ s.clock.newSource = some s.clock.external) ∧ s.clock.newResync = true
        ∧ (s.att.notice 10).pending = s.clock.holdsOver := by decide +kernel

/-- A request is taken where the step of a resync ramp is still to be made: a source change that names INTERNAL, with a RESYNC or
without, or a RESYNC alone. -/
def stepping (state : ClockState) (source : Option Bool) (resync : Bool) : State :=
  (((due [.resyncRamp, .clockTake]).setClock { Clock.reset with
    external := true, state := state, present := true, destination := if state = .resync then some .wordClock else none
    factor := 512, ramp := some ⟨0, 32768, 64, 1⟩, newSource := source, newResync := resync })).judgeClock

theorem test_witness_clockRequests_stepped :
    ∀ s ∈ [stepping .resync (some false) false, stepping .following (some false) true, stepping .held none true,
        stepping .following none true],
      s.todo.count .resyncRamp = 1 ∧ s.todo.count .clockTake = 1 ∧ s.resetHeld = false ∧ s.todo.filter isStage = []
        ∧ s.clock.external = true ∧ s.att.notices.length = 14 ∧ (s.att.notice 10).pending = s.clock.holdsOver := by decide +kernel

theorem test_witness_TheWordClockIsJudged :
    (∀ x ∈ [(ClockState.internal, none), (.holdover, none), (.following, none), (.held, none),
        (.resync, some Destination.wordClock), (.resync, some .crystal)],
      (clocking true x.1 x.2 32768 true none false).resetHeld = false
        ∧ (clocking true x.1 x.2 32768 true none false).clock.present = true)
    ∧ (State.reset.clock.present = false ∧ State.reset.clock.good = 0)
    ∧ (∀ x ∈ [(⟨9, 10⟩ : Interval), ⟨11, 10⟩], ∀ n ∈ [63, 64], ∀ i ∈ List.replicate n x,
        9 * i.den ≤ 10 * i.num ∧ 10 * i.num ≤ 11 * i.den ∧ 0 < i.den)
    ∧ (2 * (⟨49, 100⟩ : Interval).num < (⟨49, 100⟩ : Interval).den
      ∧ 3 * (⟨151, 100⟩ : Interval).den < 2 * (⟨151, 100⟩ : Interval).num) := by decide +kernel

theorem test_witness_TheWordClockIsJudged_intervals :
    (∀ i ∈ [(⟨1, 2⟩ : Interval), ⟨3, 2⟩], i.den ≤ 2 * i.num ∧ 2 * i.num ≤ 3 * i.den)
    ∧ (∀ i ∈ [(⟨89, 100⟩ : Interval), ⟨111, 100⟩], ¬ (9 * i.den ≤ 10 * i.num ∧ 10 * i.num ≤ 11 * i.den))
    ∧ (∀ n ∈ [0, 62], n < 63 ∧ (State.reset.setClock { Clock.reset with good := n }).clock.present = false) := by decide

/-- A lane at the start of a lane frame. -/
def framed (locked : Bool) (count : Nat) : InputLane := { InputLane.reset with locked := locked, count := count, framing := .framed 0 0 }
def laned (l : InputLane) : State := State.reset.setLanes (State.reset.lanes.set 5 l)

theorem test_witness_LaneFramesAreReceived :
    (∀ l ∈ [framed true 0, framed true 1, framed false 3], (laned l).lanes[5]? = some l ∧ l.store.length ≤ 4
      ∧ l.framing = .framed 0 0)
    ∧ (numberBits 24 0x9E2B47 ++ List.replicate 192 true).length = 216
    ∧ ((numberBits 24 0x9E2B47 ++ List.replicate 192 true).foldl (fun n b => 2 * n + if b then 1 else 0) 0) / 2 ^ 192 = 0x9E2B47
    ∧ ((List.replicate 216 true).foldl (fun n b => 2 * n + if b then 1 else 0) 0) / 2 ^ 192 ≠ 0x9E2B47 := by decide +kernel

/-- 07 R145: a second bad sync word, after which the lane hunts and finds a sync word in the same 216 bits. -/
theorem test_witness_LaneFramesAreReceived_lost :
    let bits := List.replicate 24 true ++ numberBits 24 0x9E2B47 ++ List.replicate 168 false
    bits.length = 216 ∧ (after (.inputLaneFrame 5 bits) (laned (framed true 1))).lanes[5]? =
      some ⟨false, 1, .framed 192 (0x9E2B47 * 2 ^ 168), [], none, true⟩ := by decide +kernel

/-- 07 R145: a SEEKING lane at its counts 0 and 2, a bad sync word, and a sync word found after 7 bits. -/
theorem test_witness_LaneFramesAreReceived_seeking :
    (∀ c ∈ [0, 2], (laned (framed false c)).lanes[5]? = some (framed false c) ∧ (framed false c).count < 3)
    ∧ InputLane.reset.framing = .hunting 0 0
    ∧ ((List.replicate 7 true ++ numberBits 24 0x9E2B47).foldl InputLane.receive InputLane.reset).framing = .framed 24 0x9E2B47
    ∧ ((List.replicate 24 true).foldl InputLane.receive (framed false 3)) = InputLane.reset := by decide +kernel

/-- 07 R149: output lane 15 carries the samples of speakers 120 to 127. -/
theorem test_witness_LaneFramesAreReceived_output :
    let s := State.reset.setOutputs ⟨[], List.replicate 127 0 ++ [-1]⟩
    s.resetHeld = false ∧ s.outputs.sent.length = 128 ∧ (s.outputFrame 15).drop 191 = false :: List.replicate 24 true
      ∧ queued.hold.resetHeld = true := by decide +kernel

/-- A LOCKED lane with a store and a count. -/
def stored (store : List LaneFrame) (count : Nat) : InputLane := { InputLane.reset with locked := true, store := store, count := count }

/-- 07 R146, R147: a good frame, a bad one, an empty take, and the second empty take in succession. -/
theorem test_witness_LaneFramesAreReceived_take :
    InputLane.reset.locked = false
      ∧ (stored [⟨true, [5]⟩] 0).take.1 = [5] ∧ (stored [⟨false, [5]⟩] 0).take.1 = List.replicate 8 0
      ∧ (stored [] 0).take.2 = stored [] 1 ∧ (stored [] 1).take.2.locked = false := by decide +kernel

/-- Every lane is SEEKING, or LOCKED, and microphone 47 may be present; LANE DOWN stands or not. -/
def downing (locked present pending : Bool) : State :=
  ((State.reset.setLanes (State.reset.lanes.map fun l => { l with locked := locked, lost := locked })).setMics
    (State.reset.mics.set 47 { Mic.reset with present := present })).setAtt
      { Attention.reset with notices := Attention.reset.notices.set 8 ⟨pending, 1, 0x20, 0⟩ }

theorem test_witness_LaneFramesAreReceived_down :
    (∀ s ∈ [downing false true true, downing true true false, downing true false true], s.lanes.length = 6 ∧ s.mics.length = 48
      ∧ s.att.notices.length = 14)
    ∧ (((downing true true false).lane 5).lost = true ∧ ((downing true true false).mic (8 * 5 + 7)).present = true
      ∧ ((downing true true false).att.notice 8).pending = false)
    ∧ (((downing false true true).lane 5).locked = false ∧ ((downing false true true).att.notice 8).pending = true)
    ∧ ∀ m < 48, ((downing true false true).mic m).present = false := by decide +kernel

/-- The network runs and slot 0's scene gives speaker 127 the sample beside the write position of engine 0. -/
def loud : State :=
  ((State.reset.setMode { ModeControl.reset with halted := false, factor := 32768 }).setEngines
    (State.reset.engines.set 0 { Engine.free with state := .assigned, owner := some 0, line := some 0, region := [(32767, 9000000)] })).setSlots
      (State.reset.slots.set 0 ⟨.live, [], .clear, some { scene with
        engineMap := some [0], speakers := [⟨127, 0, [⟨0, 1, some 0⟩]⟩]
        computed := some ⟨[⟨0, 0, 0⟩], [⟨0, 0, 0⟩], [0], [[8192]]⟩ }⟩)
def louder : State := loud.setNet { Network.reset with play := Network.reset.play.set 0 (some ⟨32768, 32768⟩) }

/-- Slot 0's scene of line 0 plays through engine 0; no other slot plays. -/
theorem test_witness_LineArithmetic_network :
    louder.slots.length = 8 ∧ louder.net.play.length = 8 ∧ (0 : Nat) < louder.engines.length ∧ [0].Nodup
      ∧ ((louder.slot 0).record.bind (·.engineMap)) = some [0] ∧ (((louder.slot 0).record.bind (·.computed)).isSome = true)
      ∧ louder.playOf 0 = some ⟨32768, 32768⟩ ∧ (∀ k < 8, k ≠ 0 → louder.playOf k = none)
      ∧ ((networkPeriod louder []).1.getD 0 .free).writePos = 1
      ∧ ((networkPeriod louder []).1.getD 31 .free) = .free := by decide +kernel

theorem test_witness_SamplePeriodRuns :
    (127 : Nat) < 128 ∧ State.reset.resetHeld = false ∧ State.reset.todo = [] ∧ State.reset.framePos < 64
      ∧ 64 ≤ (State.reset.setFramePos 64).framePos ∧ State.reset.mode.halted = true
      ∧ louder.mode.halted = false ∧ louder.net.clips.length = 128 ∧ louder.att.notices.length = 14
      ∧ (louder.att.notice 9).count ≤ 255 ∧ (after (.samplePeriod 0) louder).net.clips.getD 127 0 = 1
      ∧ (after (.samplePeriod 0) louder).att.notice 9 = ⟨true, 1, 127, 0⟩
      ∧ (after (.samplePeriod 0) louder).outputs.formed.getD 127 0 = 8388607
      ∧ State.reset.mics[47]? = some .reset := by decide +kernel

theorem test_witness_LockAndSetKey :
    (posted 0x41 []).takeable 0 .lock ∧ (posted 0x43 [1, 2]).takeable 0 .setKey ∧ (posted 0x43 []).takeable 0 .setKey
      ∧ ((cueBytes (posted 0x43 []).ram 0).drop 12).take 12 = List.replicate 12 0
      ∧ (((cueBytes (posted 0x43 [1, 2]).ram 0).drop 12).take 12).take 2 = [1, 2] :=
  ⟨takeable_of_passes (by decide +kernel), takeable_of_passes (by decide +kernel), takeable_of_passes (by decide +kernel),
    by decide +kernel⟩

/-- An UNLOCK with a key meets a locked engine; UNLOCK is no protected cue. -/
def unlocking : State := (posted 0x42 [1, 2]).setLock ⟨some (List.replicate 12 1), true, 2, 0⟩

theorem test_witness_UnlockCountsItsRefusals :
    unlocking.takeable 0 .unlock ∧ (posted 0x42 []).takeable 0 .unlock
      ∧ ((due [.lockout]).setLock ⟨some [1], true, 0, 1⟩).due .lockout :=
  ⟨⟨turn_of (by decide +kernel), by decide +kernel, by decide +kernel, fun h => (by cases h), fun h => (by cases h)⟩,
    takeable_of_passes (by decide +kernel), due_one rfl rfl rfl⟩

theorem test_witness_MetersAreWritten :
    (due [.meters]).due .meters ∧ Memory.wf (due [.meters]).ram = true ∧ (due [.meters]).meters.micPeaks.length = 48
      ∧ (due [.meters]).meters.micSquares.length = 48 ∧ (due [.meters]).meters.speakerPeaks.length = 128
      ∧ (due [.meters]).net.clips.length = 128 :=
  ⟨due_one rfl rfl rfl, by decide +kernel⟩

/-- 01 R5, 09 R176: the lock has changed and changed back, and the host has written over its byte; the publication is due. -/
def scribbled : State :=
  (((due [.publish]).setLock ⟨some [1], true, 0, 0⟩).setLock .reset).setRam (writeBytes State.reset.ram 0x00E [0x55])

theorem test_witness_MetersAreWritten_publication :
    scribbled.framePos < 64 ∧ scribbled.todo = [.publish] ∧ Memory.wf scribbled.ram = true ∧ scribbled.lanes.length = 6
      ∧ scribbled.att.notices.length = 14 ∧ scribbled.slots.length = 8 ∧ scribbled.engines.length = 32
      ∧ scribbled.guard.pool.length = 16 ∧ scribbled.mics.length = 48
      ∧ scribbled.shown.map (fun e => (e.1, e.2.length)) = scribbled.view.map (fun e => (e.1, e.2.length))
      ∧ scribbled.shown[11]? = some (0x00E, [0]) ∧ scribbled.view[11]? = some (0x00E, [0])
      ∧ scribbled.changed.testBit 0x00E = true ∧ readByte (scribbled.doOne .publish).ram 0x00E = 0 := by decide +kernel

/-- 02 R20: the entry of a READY slot; of the same slot LOADING, the line count and the largest time read 0. -/
theorem test_slotEntry : ∀ x ∈ [(SlotState.ready, [2, 4, 0, 0, 40, 10, 0, 0]), (.loading, [1, 0, 0, 0, 0, 0, 0, 0])],
    (0x2038, x.2) ∈ (State.reset.setSlots (State.reset.slots.set 7 ⟨x.1, [], .clear, some { scene with
      computed := some ⟨[], [⟨100, 2600, 300⟩], [], []⟩ }⟩)).view := by decide +kernel

end Sys2Proof.Tests
end

section
/-! PROOFS. The number E that the scan expects, and the attention block's and the part's resets (01 R2 to R8). -/

namespace Sys2Proof.Machine

/-! ### E is never 0 (01 R8) -/

/-- 65535 is followed by 1, every other number by the next. -/
theorem nextNumber_ne_zero {e : Word16} (_h : e ≠ 0) : nextNumber e ≠ 0 := by
  unfold nextNumber
  split
  · decide
  · bv_omega

theorem reset_expected_ne_zero : State.reset.cues.expected ≠ 0 := by decide

/-- No update that a command is made of brings E to 0: only a take's advance and the resets write it. -/
theorem expected_ne_zero_closed : Closed fun s => s.cues.expected ≠ 0 where
  ram _ _ _ h := h
  taken _ _ _ h := h
  letGo _ _ h := h
  gap _ _ h := h
  advance _ h := nextNumber_ne_zero h
  slots _ _ h := h
  loader _ _ h := h
  coef _ _ h := h
  engines _ _ h := h
  net _ _ h := h
  trans _ _ h := h
  tails _ _ h := h
  mics _ _ h := h
  guard _ _ h := h
  lanes _ _ h := h
  clock _ _ h := h
  mode _ _ h := h
  key _ _ h := h
  locked _ h _ := h
  refused _ h _ _ := h
  unlocked _ h _ := h
  lockout s h := by
    have hc : s.lockoutStep.cues = s.cues := by unfold State.lockoutStep; rfl
    rwa [hc]
  occur _ _ _ _ h := h
  finish _ _ _ h := h
  meters _ _ h := h
  shown _ _ h := h
  changed _ _ h := h
  todo _ _ h := h
  ramClear _ _ _ h := h
  runctl _ _ h := h
  opened _ h := h
  silent _ h := h
  formed _ _ h := h
  sent _ h := h
  clipped _ _ h := h
  hostClear _ _ h := h
  mask _ _ h := h
  messages _ _ h := h
  frame _ h := h
  framePos _ _ h := h
  held _ _ := reset_expected_ne_zero
  release _ _ := reset_expected_ne_zero
  cleared _ _ := reset_expected_ne_zero

/-- Settles O3, by the updates that a step is made of. -/
theorem expectedNumberIsNeverZero : Obligations.ExpectedNumberIsNeverZero :=
  fun _ _ h => expected_ne_zero_closed.step (fun _ _ h => h) h

/-! ### The state after power-on reset -/

/-- What the engine has written of the state after reset is its view (log 10). -/
theorem reset_view : State.reset.view = State.reset.shown := by decide +kernel

theorem reset_held (k : Nat) : State.reset.cues.held.getD k none = none := by
  show (List.replicate 32 none).getD k none = none
  rw [List.getD_eq_getElem?_getD, List.getElem?_replicate]
  split <;> rfl

/-- Settles O7: each invariant is one of finitely many values. -/
theorem resetMeetsTheInvariants : Obligations.ResetMeetsTheInvariants := by
  refine ⟨by decide +kernel, reset_expected_ne_zero, by simp [ShowLock.sound, State.reset, ShowLock.reset],
    ⟨rfl, fun i n h => ?_⟩, fun v h => ?_⟩
  · obtain rfl : n = .reset := List.eq_of_mem_replicate (List.mem_of_getElem? h)
    simp [Notice.reset]
  · obtain rfl : v = 0 := h.elim List.eq_of_mem_replicate List.eq_of_mem_replicate
    decide

/-- Settles O8: the values of `State.reset`, field by field. -/
theorem resetValues : Obligations.ResetValues := by
  refine ⟨by decide, by decide, by decide, rfl, rfl, reset_held, rfl, rfl, rfl, rfl, rfl, rfl, rfl, ?engines, rfl, rfl, rfl,
    rfl, rfl, ?mics, rfl, rfl, rfl, rfl, ?pool, rfl, ?lanes, rfl, rfl, rfl, rfl, rfl, rfl, rfl, rfl, rfl, rfl,
    by decide +kernel, by decide, reset_view.symm⟩
  case engines => intro e he; obtain rfl : e = .free := List.eq_of_mem_replicate he; decide
  case mics => intro m hm; obtain rfl : m = .reset := List.eq_of_mem_replicate hm; decide
  case pool => intro n hn; obtain rfl : n = .reset := List.eq_of_mem_replicate hn; decide
  case lanes => intro l hl; obtain rfl : l = .reset := List.eq_of_mem_replicate hl; decide

/-! ### The reset pin (01 R5; log 5) -/

theorem released_of_held {s : State} (h : s.resetHeld = true) (f : State → State) : s.released f = .next s := by
  simp [State.released, h]

theorem forUnit_of_held {s : State} (h : s.resetHeld = true) (b : Bool) (f : State → State) :
    s.forUnit b f = if b then .next s else .fault .noSuchUnit := by
  simp [State.forUnit, released_of_held h]

/-- While the pin is held, every command but the pin's leaves the part as it is, or names what the part does not have. -/
theorem exec_of_held {s : State} (h : s.resetHeld = true) {c : Instr} (hc : ∀ b, c ≠ .powerOnReset b) :
    exec c s = .next s ∨ (c.wellFormed = false ∧ ∃ r, exec c s = .fault r) := by
  have unit (b : Bool) (f : State → State) : s.forUnit b f = .next s ∨ (b = false ∧ ∃ r, s.forUnit b f = .fault r) := by
    rw [forUnit_of_held h]; cases b <;> simp
  cases c with
  | powerOnReset b => exact absurd rfl (hc b)
  | registerWrite o n v =>
    by_cases ho : o < Config.registerSize
    · exact .inl (by simp only [exec, execRegisterWrite, if_pos ho, released_of_held h])
    · exact .inr ⟨by simpa [Instr.wellFormed] using ho, .outsideWindow, by simp only [exec, execRegisterWrite, if_neg ho]⟩
  | commonMemoryWrite o n v =>
    cases hn : accessSize n
    · exact .inl (by simp [exec, execCommonMemoryWrite, hn])
    · by_cases ho : o + n ≤ Config.commonSize
      · exact .inl (by simp only [exec, execCommonMemoryWrite, hn, if_true, if_pos ho, released_of_held h])
      · exact .inr ⟨by simp [Instr.wellFormed, inWindow, ho], .outsideWindow,
          by simp only [exec, execCommonMemoryWrite, hn, if_true, if_neg ho]⟩
  | inputLaneFrame l bits =>
    rcases unit (decide (l < Config.inputLanes)) _ with h1 | ⟨h1, h2⟩
    · exact .inl h1
    · exact .inr ⟨by simp [Instr.wellFormed, h1], h2⟩
  | mark k | loadScene k | vacateScene k | go k | trim k | clearStatus k | loadMicTable k | setGuard k | fixNotch k
  | clearNotch k | clearGuard k | lock k | unlock k | setKey k | holdExpiry k | closingEnd k | scrubEnd k
  | decayGlideEnd k _ | trimGlideEnd k | fallbackGlideEnd k | phiRecovery k | notchDepthGlideEnd k | notchHoldExpiry k
  | samplePeriod k => exact unit _ _
  | modeRequest _ | clockSource _ | resync _ | wordClockAbsent _ | wordClockPresent _ | interruptMessageEnable _ =>
    exact .inl (by simp only [exec, execModeRequest, execClockSource, execResync, execWordClockAbsent, execWordClockPresent,
      execInterruptMessageEnable, released_of_held h])
  | engineReset _ | attn _ | attnmask _ | frameBoundary _ _ | cueGap | copyEnd | computationComplete | claim
  | changeoverEnd | outEnd | epsilonGlideEnd | modeRampEnd | resyncSwitch | resyncUpEnd | lockoutEnd | analysis _
  | betaRecovery | meterWrite => exact .inl (released_of_held h _)

/-- Settles O14. -/
theorem powerOnReset : Obligations.PowerOnReset := by
  intro s
  have hh : s.hold.resetHeld = true := rfl
  refine ⟨⟨s.hold, rfl, rfl, rfl, fun _ => rfl, rfl, fun c hc hw => ?_, fun c u hc hu => ?_⟩, fun h => ?_, fun h => ?_⟩
  · obtain he | ⟨hf, _⟩ := exec_of_held hh hc
    · exact he
    · rw [hw] at hf; cases hf
  · obtain he | ⟨_, r, he⟩ := exec_of_held hh hc <;> rw [he] at hu <;> cases hu
    rfl
  · simp [exec, execPowerOnReset, h]
  · simp [exec, execPowerOnReset, h]

end Sys2Proof.Machine
end

section
/-! PROOFS. Common memory read back after its writes, and the little-endian fields (00 Conventions, 01 R1, R5). -/

namespace Sys2Proof.Machine

/-! ### Reading bytes -/

@[simp] theorem readBytes_length (ram : List Host.Cell) (a n : Nat) : (readBytes ram a n).length = n := by
  simp [readBytes]

/-- Bytes that read alike one by one read alike. -/
theorem readBytes_congr {ram ram' : List Host.Cell} {a n : Nat}
    (h : ∀ i < n, readByte ram (a + i) = readByte ram' (a + i)) : readBytes ram a n = readBytes ram' a n := by
  simp only [readBytes, List.map_inj_left, List.mem_range]
  exact h

/-- Bytes that read one by one as those of a list read as the list. -/
theorem readBytes_eq {ram : List Host.Cell} {a : Nat} {bs : List Byte}
    (h : ∀ i < bs.length, readByte ram (a + i) = bs.getD i 0) : readBytes ram a bs.length = bs := by
  refine List.ext_getElem (readBytes_length ..) fun i _ hi => ?_
  rw [← List.getD_eq_getElem bs 0 hi, ← h i hi]
  simp [readBytes]

/-- A byte of the bytes read. -/
theorem readBytes_getD (ram : List Host.Cell) (a : Nat) {n i : Nat} (h : i < n) :
    (readBytes ram a n).getD i 0 = readByte ram (a + i) := by
  simp [readBytes, List.getD_eq_getElem?_getD, List.getElem?_range h]

/-- Bytes written read back. -/
theorem readBytes_writeBytes {ram : List Host.Cell} (h : Memory.wf ram = true) (a : Nat) (bs : List Byte) :
    readBytes (writeBytes ram a bs) a bs.length = bs :=
  readBytes_eq fun i hi => by rw [readByte_writeBytes h, if_pos (by omega), Nat.add_sub_cancel_left]

/-- Bytes apart from those written read as before. -/
theorem readBytes_writeBytes_outside {ram : List Host.Cell} (h : Memory.wf ram = true) {a b n : Nat} {bs : List Byte}
    (hx : b + n ≤ a ∨ a + bs.length ≤ b) : readBytes (writeBytes ram a bs) b n = readBytes ram b n :=
  readBytes_congr fun i hi => readByte_writeBytes_outside h (by omega)

/-- One byte written at an address, read anywhere. -/
theorem readByte_writeBytes_single {ram : List Host.Cell} (h : Memory.wf ram = true) (a : Nat) (b : Byte) (x : Nat) :
    readByte (writeBytes ram a [b]) x = if x = a then b else readByte ram x := by
  rw [readByte_writeBytes h]
  by_cases hx : x = a
  · subst hx; simp
  · rw [if_neg (by rw [List.length_singleton]; omega), if_neg hx]

/-! ### Little-endian fields -/

/-- The bytes of a number, least significant first. -/
theorem leBytes_getD (n v i : Nat) (h : i < n) : (leBytes n v).getD i 0 = BitVec.ofNat 8 (v / 256 ^ i) := by
  induction n generalizing v i with
  | zero => omega
  | succ n ih =>
    cases i with
    | zero => simp [leBytes]
    | succ i =>
      rw [leBytes, List.getD_cons_succ, ih _ _ (by omega), Nat.div_div_eq_div_mul, pow_succ, Nat.mul_comm]

/-- The number of the bytes of two lists in a row. -/
theorem leNat_append (xs ys : List Byte) : leNat (xs ++ ys) = leNat xs + 256 ^ xs.length * leNat ys := by
  induction xs with
  | nil => simp [leNat]
  | cons x xs ih => simp only [List.cons_append, leNat, ih, List.length_cons, pow_succ]; ring

/-- Settles O19. -/
theorem commonMemoryWriteLands : Obligations.CommonMemoryWriteLands := by
  intro s o n v hs hw hm
  simp only [inWindow, Bool.and_eq_true, decide_eq_true_eq] at hw
  obtain ⟨hn, ho⟩ := hw
  refine ⟨s.setRam (writeBytes s.ram o (leBytes n v.toNat)), ?_, rfl, writeBytes_wf hm _ _, fun a => ?_⟩
  · have ho' : o + n ≤ Config.commonSize := ho
    simp only [exec, execCommonMemoryWrite, hn, if_true, if_pos ho', released_of hs]
  · rw [State.setRam_ram, readByte_writeBytes hm, leBytes_length]
    by_cases ha : o ≤ a ∧ a < o + n
    · rw [if_pos ha, if_pos ha, leBytes_getD _ _ _ (by omega)]
    · rw [if_neg ha, if_neg ha]

end Sys2Proof.Machine
end

section
/-! PROOFS. The registers: their reads, the writes that act, the writes that are ignored (01 R1 to R4, 09 R175). -/

namespace Sys2Proof.Machine

/-! ### Reads (01 R1) -/

/-- A read of two runs of bytes in a row gives the first and, above it, the second. -/
theorem readRegister_add (s : State) (o m n : Nat) :
    s.readRegister o (m + n) = s.readRegister o m + 256 ^ m * s.readRegister (o + m) n := by
  simp only [State.readRegister, List.range_add, List.map_append, leNat_append, List.map_map, List.length_map,
    List.length_range]
  simp only [Function.comp_def, Nat.add_assoc]

theorem readRegister_one (s : State) (o : Nat) : s.readRegister o 1 = (s.registerByte o).toNat := by
  simp [State.readRegister, leNat]

/-- A byte of a register is the byte of its value. -/
theorem registerByte_toNat (s : State) {r i : Nat} (hr : r % 4 = 0) (hi : i < 4) :
    (s.registerByte (r + i)).toNat = (s.register r).toNat / 256 ^ i % 256 := by
  have h1 : (r + i) % 4 = i := by omega
  rw [State.registerByte, h1, Nat.add_sub_cancel, BitVec.toNat_setWidth, BitVec.toNat_ushiftRight, Nat.shiftRight_eq_div_pow,
    Nat.pow_mul]

/-- A read within a register gives those bytes of its value. -/
theorem readRegister_within (s : State) {r : Nat} (hr : r % 4 = 0) (i n : Nat) (h : i + n ≤ 4) :
    s.readRegister (r + i) n = (s.register r).toNat / 256 ^ i % 256 ^ n := by
  induction n with
  | zero => simp [State.readRegister, leNat, Nat.mod_one]
  | succ n ih =>
    rw [readRegister_add, ih (by omega), readRegister_one, Nat.add_assoc, registerByte_toNat s hr (by omega), pow_add,
      ← Nat.div_div_eq_div_mul, pow_succ, Nat.mod_mul]

/-- Past the four registers the window reads 0. -/
theorem registerByte_past (s : State) {o : Nat} (h : 16 ≤ o) : s.registerByte o = 0 := by
  have h1 : s.register (o - o % 4) = 0 := by
    unfold State.register
    rw [if_neg (by omega), if_neg (by omega), if_neg (by omega), if_neg (by omega)]
  simp [State.registerByte, h1]

theorem readRegister_past (s : State) (o n : Nat) (h : 16 ≤ o) : s.readRegister o n = 0 := by
  induction n with
  | zero => rfl
  | succ n ih => rw [readRegister_add, ih, readRegister_one, registerByte_past s (by omega)]; rfl

/-! ### Writes (01 R1 to R4) -/

theorem exec_registerWrite (s : State) {o : Nat} (n : Nat) (v : Word32) (h : o < 0x1000) :
    exec (.registerWrite o n v) s = s.released (State.writeRegister o n v) := if_pos h

/-- A write that is not one of 32 bits of RUNCTL, ATTN or ATTNMASK is ignored. -/
theorem writeRegister_ignored (s : State) {o n : Nat} (v : Word32) (h : n ≠ 4 ∨ (o ≠ 4 ∧ o ≠ 8 ∧ o ≠ 12)) :
    s.writeRegister o n v = s := by
  unfold State.writeRegister
  split
  · rfl
  · obtain ⟨h4, h8, hc⟩ := h.resolve_left ‹_›
    rw [if_neg h4, if_neg h8, if_neg hc]

theorem exec_registerWrite_ignored (s : State) {o n : Nat} (v : Word32) (ho : o < 0x1000)
    (h : n ≠ 4 ∨ (o ≠ 4 ∧ o ≠ 8 ∧ o ≠ 12)) : exec (.registerWrite o n v) s = .next s := by
  rw [exec_registerWrite s n v ho, State.released, writeRegister_ignored s v h, ite_self]

/-- Settles O9. -/
theorem identIsReadOnly : Obligations.IdentIsReadOnly := fun s v =>
  ⟨by show Config.ident >>> 16 = _; decide, by show (Config.ident >>> 8) &&& _ = _; decide,
    by show Config.ident &&& _ = _; decide, exec_registerWrite_ignored s v (by decide) (by decide)⟩

theorem forUnit_fault (s : State) {b : Bool} (h : b = false) (f : State → State) : s.forUnit b f = .fault .noSuchUnit := by
  subst h; rfl

/-- Settles O10. -/
theorem otherWritesAreIgnoredOrStop : Obligations.OtherWritesAreIgnoredOrStop := by
  have unit (s : State) {k n : Nat} (h : n ≤ k) (f : State → State) : s.forUnit (k < n) f = .fault .noSuchUnit :=
    forUnit_fault s (by simpa using h) f
  refine ⟨fun s r i n hr h => readRegister_within s (by omega) i n h, readRegister_past, readRegister_add,
    fun s o n v ho h => exec_registerWrite_ignored s v ho h, fun s o n v ho => ?_, fun s o n v hn ho => ?_,
    fun s o n v hn => ?_, fun s kind k hk => ?_, fun s k hk => ⟨unit s hk _, unit s hk _⟩,
    fun s e b he => ⟨unit s he _, unit s he _⟩, fun s m hm => ⟨unit s hm _, unit s hm _, unit s hm _⟩,
    fun s n hn => ⟨unit s hn _, unit s hn _⟩, fun s x hx => unit s hx _, fun s l bits hl => unit s hl _⟩
  · exact if_neg (Nat.not_lt.2 ho)
  · have ho' : ¬ o + n ≤ Config.commonSize := Nat.not_le.2 ho
    simp only [exec, execCommonMemoryWrite, hn, if_true, if_neg ho']
  · simp [exec, execCommonMemoryWrite, hn]
  · rw [exec_row]
    exact unit s hk _

/-! ### RUNCTL (01 R3) -/

/-- The mode request by the value of bits 1 and 0. -/
theorem requestedMode_eq (v : Word32) :
    requestedMode v = if v.toNat % 4 = 1 then .active else if v.toNat % 4 = 2 then .dry else .stopped := by
  simp [requestedMode, ← BitVec.toNat_inj]

/-- Bits 1, 0 and 4 of a number. -/
theorem and_runctl (x : Nat) : x &&& 0x13 = x % 4 + 16 * bit (x.testBit 4) := by
  have hb : bit (x.testBit 4) = x / 2 ^ 4 % 2 ^ 1 := by
    rw [pow_one, ← Nat.toNat_testBit]
    cases x.testBit 4 <;> rfl
  have h1 : x % 4 + 16 * bit (x.testBit 4) = 2 ^ 4 * (x / 2 ^ 4 % 2 ^ 1) + x % 2 ^ 2 := by rw [hb]; omega
  have h2 : (0x13 : Nat) = 2 ^ 4 * 1 + 3 := rfl
  rw [h1, h2]
  refine Nat.eq_of_testBit_eq fun j => ?_
  rw [Nat.testBit_and, Nat.testBit_two_pow_mul_add _ (by omega), Nat.testBit_two_pow_mul_add _ (by omega)]
  by_cases hj : j < 4
  · have h3 : Nat.testBit 3 j = decide (j < 2) := by interval_cases j <;> rfl
    rw [if_pos hj, if_pos hj, h3, Nat.testBit_mod_two_pow, Bool.and_comm]
  · have h1 : Nat.testBit 1 (j - 4) = decide (j - 4 < 1) := by cases j - 4 <;> simp [Nat.testBit_succ]
    rw [if_neg hj, if_neg hj, h1, Nat.testBit_mod_two_pow, Nat.testBit_div_two_pow, Nat.sub_add_cancel (by omega), Bool.and_comm]

/-- RUNCTL reads back the two fields written (01 R3). -/
theorem runctl_word (v : Word32) : Runctl.word ⟨v.setWidth 2, v.getLsbD 4⟩ = v &&& 0x13#32 := by
  refine BitVec.eq_of_toNat_eq ?_
  have hb : bit (v.getLsbD 4) ≤ 1 := by cases v.getLsbD 4 <;> decide
  have h2 : (v.setWidth 2).toNat = v.toNat % 4 := BitVec.toNat_setWidth ..
  show ((v.setWidth 2).toNat + 16 * bit (v.getLsbD 4)) % 2 ^ 32 = v.toNat &&& 0x13
  rw [h2, Nat.mod_eq_of_lt (by omega)]
  exact (and_runctl v.toNat).symm

/-- A write of RUNCTL without bit 31. -/
theorem writeRunctl_requests (s : State) {v : Word32} (h : v.getLsbD 31 = false) :
    s.writeRunctl v = ((s.setRunctl ⟨v.setWidth 2, v.getLsbD 4⟩).setMode
      { s.mode with request := some (requestedMode v) }).setClock
        { s.clock with newSource := some (v.getLsbD 4), newResync := s.clock.newResync || v.getLsbD 5 } := by
  rw [State.writeRunctl, if_neg (by rw [h]; decide)]

/-- Every command that is a 32-bit write of RUNCTL. -/
theorem exec_writeRunctl {s : State} (h : s.resetHeld = false) (v : Word32) :
    exec (.registerWrite 4 4 v) s = .next (s.writeRunctl v) ∧ exec (.modeRequest (.written v)) s = .next (s.writeRunctl v)
      ∧ exec (.clockSource (.written v)) s = .next (s.writeRunctl v)
      ∧ exec (.resync (.written v)) s = .next (s.writeRunctl v) :=
  ⟨(exec_registerWrite s 4 v (by decide)).trans (released_of h _), released_of h _, released_of h _, released_of h _⟩

/-- Settles O11. -/
theorem runctlWriteHandsOverItsRequests : Obligations.RunctlWriteHandsOverItsRequests := by
  intro s v hs hv
  obtain ⟨h1, h2, h3, h4⟩ := exec_writeRunctl hs v
  rw [writeRunctl_requests s hv, requestedMode_eq] at h1 h2 h3 h4
  exact ⟨h1, h2, h3, h4, runctl_word v⟩

/-! ### ATTNMASK (01 R4, 09 R175) -/

@[simp] theorem follow_mask (a b : Attention) : (Attention.follow a b).mask = b.mask := by
  unfold Attention.follow; split <;> rfl

@[simp] theorem follow_notices (a b : Attention) : (Attention.follow a b).notices = b.notices := by
  unfold Attention.follow; split <;> rfl

/-- The output is asserted while an enabled level is pending. -/
theorem asserted_iff (a : Attention) : a.asserted = true ↔ ∃ l < 4, a.mask.getLsbD l = true ∧ a.levelPending l = true := by
  simp [Attention.asserted]

/-- The mask reads back as written. -/
theorem mask_word (v : Word32) : (v.setWidth 4).setWidth 32 = v &&& 0xF#32 := by
  refine BitVec.eq_of_toNat_eq ?_
  have h : v.toNat &&& 15 = v.toNat % 2 ^ 4 := Nat.and_two_pow_sub_one_eq_mod v.toNat 4
  simp only [BitVec.toNat_setWidth, BitVec.toNat_and]
  show _ = v.toNat &&& 15
  omega

/-- Settles O17. -/
theorem maskAndMessages : Obligations.MaskAndMessages := by
  intro s v on hs
  have hmask : (s.writeMask v).att.mask = v.setWidth 4 := follow_mask ..
  refine ⟨s.writeMask v, released_of hs _, (exec_registerWrite s 4 v (by decide)).trans (released_of hs _), hmask, ?_,
    follow_notices .., follow_messages _ _ rfl rfl, ?_, rfl, ?_⟩
  · show (s.writeMask v).att.mask.setWidth 32 = _
    rw [hmask, mask_word]
  · rw [asserted_iff, hmask]
    refine exists_congr fun l => and_congr_right fun hl => ?_
    rw [BitVec.getLsbD_setWidth, decide_eq_true hl, Bool.true_and]
  · simp only [exec, execInterruptMessageEnable, released_of hs]

end Sys2Proof.Machine
end

section
/-! PROOFS. Answers to cues and the take of a cue (01 R8 to R17). -/

namespace Sys2Proof.Machine

/-! ### Answers (01 R14) -/

/-- The answer word: the outcome, above it the kind. -/
theorem leBytes_answerWord (kind : Nat) (o : Answer) :
    leBytes 2 (256 * kind + o.code) = [BitVec.ofNat 8 o.code, BitVec.ofNat 8 kind] := by
  have ho : o.code < 256 := by cases o <;> decide
  have h1 : (256 * kind + o.code) / 256 = kind := by omega
  have h2 : BitVec.ofNat 8 (256 * kind + o.code) = BitVec.ofNat 8 o.code :=
    BitVec.eq_of_toNat_eq (by simp only [BitVec.toNat_ofNat]; omega)
  simp only [leBytes, h1, h2]

theorem answerWrite_wf {ram : List Host.Cell} (h : Memory.wf ram = true) (k kind : Nat) (o : Answer) (d : Nat) :
    Memory.wf (answerWrite ram k kind o d) = true :=
  writeBytes_wf (writeBytes_wf (writeBytes_wf h _ _) _ _) _ _

section
variable {ram : List Host.Cell} (h : Memory.wf ram = true) (k kind : Nat) (o : Answer) (d : Nat)
include h

/-- The state byte of an answered slot. -/
theorem answerWrite_state : readByte (answerWrite ram k kind o d) (Config.cueSlotBase k) = 3 := by
  rw [answerWrite, readByte_writeBytes_single (writeBytes_wf (writeBytes_wf h _ _) _ _), if_pos rfl]

/-- The answer word. -/
theorem answerWrite_word : readBytes (answerWrite ram k kind o d) (Config.cueSlotBase k + 6) 2 =
    [BitVec.ofNat 8 o.code, BitVec.ofNat 8 kind] := by
  have hw := writeBytes_wf h (Config.cueSlotBase k + 6) (leBytes 2 (256 * kind + o.code))
  rw [answerWrite, readBytes_writeBytes_outside (writeBytes_wf hw _ _) (.inr (by rw [List.length_singleton]; omega)),
    readBytes_writeBytes_outside hw (.inl (by omega)), ← leBytes_answerWord]
  simpa using readBytes_writeBytes h (Config.cueSlotBase k + 6) (leBytes 2 (256 * kind + o.code))

/-- The answer detail. -/
theorem answerWrite_detail : readBytes (answerWrite ram k kind o d) (Config.cueSlotBase k + 8) 4 = leBytes 4 d := by
  have hw := writeBytes_wf h (Config.cueSlotBase k + 6) (leBytes 2 (256 * kind + o.code))
  rw [answerWrite, readBytes_writeBytes_outside (writeBytes_wf hw _ _) (.inr (by rw [List.length_singleton]; omega))]
  simpa using readBytes_writeBytes hw (Config.cueSlotBase k + 8) (leBytes 4 d)

/-- Every byte but the state, the answer word and the detail. -/
theorem answerWrite_outside {a : Nat} (ha : a ≠ Config.cueSlotBase k)
    (hr : a < Config.cueSlotBase k + 6 ∨ Config.cueSlotBase k + 12 ≤ a) :
    readByte (answerWrite ram k kind o d) a = readByte ram a := by
  have hw := writeBytes_wf h (Config.cueSlotBase k + 6) (leBytes 2 (256 * kind + o.code))
  rw [answerWrite, readByte_writeBytes_single (writeBytes_wf hw _ _), if_neg ha,
    readByte_writeBytes_outside hw (by rw [leBytes_length]; omega), readByte_writeBytes_outside h (by rw [leBytes_length]; omega)]

end

/-- A block's answer is that to the copy held. -/
theorem answerHeld_some {s : State} {k : Nat} {bs : List Byte} (h : s.cues.held.getD k none = some bs) (o : Answer) (d : Nat) :
    s.answerHeld k o d = s.answer k bs o d := by rw [State.answerHeld, h]

/-- No cue held, no answer. -/
theorem answerHeld_none {s : State} {k : Nat} (h : s.cues.held.getD k none = none) (o : Answer) (d : Nat) :
    s.answerHeld k o d = s := by rw [State.answerHeld, h]

/-- Settles O20. -/
theorem answerIsWritten : Obligations.AnswerIsWritten := fun _ k _ o d _ hm =>
  ⟨answerWrite_word hm k _ o _, answerWrite_detail hm k _ o _, answerWrite_state hm k _ o _,
    fun _ ha hr => answerWrite_outside hm k _ o _ ha hr, rfl, fun h => answerHeld_some h o d, fun h => answerHeld_none h o d⟩

/-! ### REPORT (01 R15) -/

theorem answerDetail_bare {s : State} {bs : List Byte} {o : Answer} (d : Nat) (h : o = .check ∨ o = .unknown) :
    s.answerDetail bs o d = d := by
  rcases h with rfl | rfl <;> rfl

theorem answerDetail_flags {s : State} {bs : List Byte} {o : Answer} (d : Nat) (h1 : o ≠ .check) (h2 : o ≠ .unknown) :
    s.answerDetail bs o d = d ||| s.reportedFlags bs := by simp [State.answerDetail, h1, h2]

theorem reportedFlags_off {s : State} {bs : List Byte} (h : (u8 bs 2).testBit 0 = false) : s.reportedFlags bs = 0 := by
  rw [State.reportedFlags, if_neg (by rw [h]; decide)]

/-- The status flags of the slot named in the body. -/
theorem reportedFlags_named {s : State} {bs : List Byte} (h : (u8 bs 2).testBit 0 = true)
    (hk : u8 bs 1 = 0x11 ∨ u8 bs 1 = 0x21 ∨ u8 bs 1 = 0x23) : s.reportedFlags bs = s.flagsOf (u8 bs 12) := by
  rw [State.reportedFlags, if_pos h, if_pos (by simpa [or_assoc] using hk)]

/-- The status flags of the LIVE slot, for TRIM. -/
theorem reportedFlags_trim {s : State} {bs : List Byte} (h : (u8 bs 2).testBit 0 = true) (hk : u8 bs 1 = 0x22) :
    s.reportedFlags bs = (s.live.map s.flagsOf).getD 0 := by
  rw [State.reportedFlags, if_pos h, if_neg (by rw [hk]; decide), if_pos hk]
  cases s.live <;> rfl

/-- A cue of another kind concerns no slot. -/
theorem reportedFlags_other {s : State} {bs : List Byte} (h1 : u8 bs 1 ≠ 0x11) (h2 : u8 bs 1 ≠ 0x21) (h3 : u8 bs 1 ≠ 0x22)
    (h4 : u8 bs 1 ≠ 0x23) : s.reportedFlags bs = 0 := by
  simp [State.reportedFlags, h1, h2, h3, h4]

/-- Settles O21. -/
theorem reportAddsTheStatusFlags : Obligations.ReportAddsTheStatusFlags := by
  refine fun s bs o d => ⟨fun h => ?none, fun hc hu hr => ⟨fun hk => ?named, fun hk k hl h8 => ?trim, fun hk hl => ?dark,
    fun h1 h2 h3 h4 => ?other⟩⟩
  case none =>
    by_cases ho : o = .check ∨ o = .unknown
    · exact answerDetail_bare d ho
    · rw [not_or] at ho
      rw [answerDetail_flags d ho.1 ho.2, reportedFlags_off ((h.resolve_left ho.1).resolve_left ho.2), Nat.or_zero]
  case named => rw [answerDetail_flags d hc hu, reportedFlags_named hr hk]; rfl
  case trim =>
    have h8' : k < Config.sceneSlots := h8
    rw [answerDetail_flags d hc hu, reportedFlags_trim hr hk, hl, Option.map_some, Option.getD_some, State.flagsOf, if_pos h8']
  case dark => rw [answerDetail_flags d hc hu, reportedFlags_trim hr hk, hl, Option.map_none, Option.getD_none, Nat.or_zero]
  case other => rw [answerDetail_flags d hc hu, reportedFlags_other h1 h2 h3 h4, Nat.or_zero]

/-! ### The take (01 R9, R13) -/

/-- Settles O22. -/
theorem takeCopiesTheSlot : Obligations.TakeCopiesTheSlot := by
  intro s k _ hm
  have hr (a : Nat) : readByte (s.took k).ram a = if a = 0x1000 + 128 * k then 2 else readByte s.ram a :=
    readByte_writeBytes_single hm ..
  exact ⟨by rw [hr, if_pos rfl], fun a ha => by rw [hr, if_neg ha], rfl, rfl⟩

/-- Settles O24. -/
theorem markIsAnswered : Obligations.MarkIsAnswered := fun _ _ h => exec_of_takeable h

/-- A cue whose number a held cue carries is answered STALE without a take (01 R12). -/
theorem takeSlot_stale {s : State} {k : Nat} (h : s.holdsNumber s.cues.expected = true) :
    s.takeSlot k = (s.answer k (cueBytes s.ram k) .stale 0).advanceE := by rw [State.takeSlot, if_pos h]

theorem takeSlot_dispatch {s : State} {k : Nat} (h : s.holdsNumber s.cues.expected = false) :
    s.takeSlot k = dispatchCue k (cueBytes s.ram k) (s.takeCopy k) := by rw [State.takeSlot, if_neg (by rw [h]; decide)]

theorem dispatchCue_check {s : State} {k : Nat} {bs : List Byte} (h : checkSum bs ≠ 0) :
    dispatchCue k bs s = s.answer k bs .check 0 := if_pos h

theorem dispatchCue_unknown {s : State} {k : Nat} {bs : List Byte} (h : checkSum bs = 0) (hk : cueKindOf (u8 bs 1) = none) :
    dispatchCue k bs s = s.answer k bs .unknown 0 := by simp only [dispatchCue, h, ne_eq, not_true_eq_false, if_false, hk]

section
variable {s : State} {k : Nat} {bs : List Byte} {kind : CueKind} (h : checkSum bs = 0) (hk : cueKindOf (u8 bs 1) = some kind)
include h hk

theorem dispatchCue_locked (hp : kind.isProtected = true) (hl : s.lock.locked = true) :
    dispatchCue k bs s = s.answer k bs .locked 0 := by
  simp only [dispatchCue, h, ne_eq, not_true_eq_false, if_false, hk, hp, hl, Bool.and_self, if_true]

theorem dispatchCue_mode (hg : kind = .go) (hm : s.mode.mode = .stopped) : dispatchCue k bs s = s.answer k bs .mode 0 := by
  subst hg
  simp [dispatchCue, h, hk, hm, CueKind.isProtected]

end

end Sys2Proof.Machine
end

section
/-! PROOFS. Answers to many slots of the cue table, and the scan's refusals (01 R9 to R14, R18). -/

namespace Sys2Proof.Machine

/-! ### Answers to many slots -/

/-- One slot's answer, a kind byte, an outcome and a detail, or nothing. -/
def answerOne (ram : List Host.Cell) (k : Nat) : Option (Nat × Answer × Nat) → List Host.Cell
  | some (kind, o, d) => answerWrite ram k kind o d
  | none => ram

/-- The answers `ans` written into slots 0 up to but not including `n`. -/
def answerEach (ans : Nat → Option (Nat × Answer × Nat)) (ram : List Host.Cell) (n : Nat) : List Host.Cell :=
  (List.range n).foldl (fun ram k => answerOne ram k (ans k)) ram

theorem answerEach_succ (ans : Nat → Option (Nat × Answer × Nat)) (ram : List Host.Cell) (n : Nat) :
    answerEach ans ram (n + 1) = answerOne (answerEach ans ram n) n (ans n) := by
  rw [answerEach, List.range_succ, List.foldl_append, List.foldl_cons, List.foldl_nil, answerEach]

theorem answerOne_wf {ram : List Host.Cell} (h : Memory.wf ram = true) (k : Nat) (x : Option (Nat × Answer × Nat)) :
    Memory.wf (answerOne ram k x) = true := by
  cases x with
  | none => exact h
  | some x => exact answerWrite_wf h ..

theorem answerEach_wf {ram : List Host.Cell} (h : Memory.wf ram = true) (ans : Nat → Option (Nat × Answer × Nat)) (n : Nat) :
    Memory.wf (answerEach ans ram n) = true := by
  induction n with
  | zero => exact h
  | succ n ih => rw [answerEach_succ]; exact answerOne_wf ih ..

/-- An answer leaves every byte outside its slot. -/
theorem answerOne_outside {ram : List Host.Cell} (h : Memory.wf ram = true) {k a : Nat} (x : Option (Nat × Answer × Nat))
    (ha : a < Config.cueSlotBase k ∨ Config.cueSlotBase k + 128 ≤ a) : readByte (answerOne ram k x) a = readByte ram a := by
  cases x with
  | none => rfl
  | some x => exact answerWrite_outside h k _ _ _ (by omega) (by omega)

/-- What an answer makes of a byte depends on that byte alone. -/
theorem answerOne_congr {ram ram' : List Host.Cell} (h : Memory.wf ram = true) (h' : Memory.wf ram' = true) {a : Nat}
    (ha : readByte ram a = readByte ram' a) (k : Nat) (x : Option (Nat × Answer × Nat)) :
    readByte (answerOne ram k x) a = readByte (answerOne ram' k x) a := by
  cases x with
  | none => exact ha
  | some x =>
    simp only [answerOne, answerWrite, readByte_writeBytes (writeBytes_wf (writeBytes_wf h _ _) _ _),
      readByte_writeBytes (writeBytes_wf (writeBytes_wf h' _ _) _ _), readByte_writeBytes (writeBytes_wf h _ _),
      readByte_writeBytes (writeBytes_wf h' _ _), readByte_writeBytes h, readByte_writeBytes h', ha]

/-- Every byte that is not of an answered slot. -/
theorem answerEach_outside {ram : List Host.Cell} (h : Memory.wf ram = true) (ans : Nat → Option (Nat × Answer × Nat))
    {n a : Nat} (ha : ∀ k < n, a < Config.cueSlotBase k ∨ Config.cueSlotBase k + 128 ≤ a) :
    readByte (answerEach ans ram n) a = readByte ram a := by
  induction n with
  | zero => rfl
  | succ n ih =>
    rw [answerEach_succ, answerOne_outside (answerEach_wf h ans n) _ (ha n (by omega)), ih fun k hk => ha k (by omega)]

/-- Every byte of an answered slot. -/
theorem answerEach_slot {ram : List Host.Cell} (h : Memory.wf ram = true) (ans : Nat → Option (Nat × Answer × Nat))
    {n k i : Nat} (hk : k < n) (hi : i < 128) :
    readByte (answerEach ans ram n) (Config.cueSlotBase k + i) =
      readByte (answerOne ram k (ans k)) (Config.cueSlotBase k + i) := by
  induction n with
  | zero => omega
  | succ n ih =>
    have hw := answerEach_wf h ans n
    have apart (j : Nat) (hj : j ≠ k) :
        Config.cueSlotBase k + i < Config.cueSlotBase j ∨ Config.cueSlotBase j + 128 ≤ Config.cueSlotBase k + i := by
      simp only [Config.cueSlotBase]; omega
    rw [answerEach_succ]
    by_cases hn : k = n
    · subst hn
      exact answerOne_congr hw h (answerEach_outside h ans fun j hj => apart j (by omega)) k _
    · rw [answerOne_outside hw _ (apart n (Ne.symm hn)), ih (by omega)]

/-- The bytes of a slot that is not answered. -/
theorem answerEach_cueBytes_none {ram : List Host.Cell} (h : Memory.wf ram = true) {ans : Nat → Option (Nat × Answer × Nat)}
    {n k : Nat} (hk : k < n) (ha : ans k = none) : cueBytes (answerEach ans ram n) k = cueBytes ram k :=
  readBytes_congr fun i hi => by rw [answerEach_slot h ans hk hi, ha]; rfl

/-! ### What the scan reads of a slot -/

theorem cueState_eq (ram : List Host.Cell) (k : Nat) : cueState ram k = u8 (cueBytes ram k) 0 := by
  rw [u8, cueBytes, readBytes_getD _ _ (by decide)]; rfl

theorem cueNumber_eq (ram : List Host.Cell) (k : Nat) :
    cueNumber ram k = BitVec.ofNat 16 (leNat [(cueBytes ram k).getD 4 0, (cueBytes ram k).getD 5 0]) := by
  rw [cueBytes, readBytes_getD _ _ (by decide), readBytes_getD _ _ (by decide)]; rfl

theorem cueNumber_congr {ram ram' : List Host.Cell} {k : Nat} (h : cueBytes ram k = cueBytes ram' k) :
    cueNumber ram k = cueNumber ram' k := by rw [cueNumber_eq, h, ← cueNumber_eq]

theorem isCandidate_congr {s t : State} {k : Nat} (hc : t.cues = s.cues) (h : cueBytes t.ram k = cueBytes s.ram k) :
    t.isCandidate k = s.isCandidate k := by rw [State.isCandidate, State.isCandidate, cueState_eq, cueState_eq, h, hc]

/-- The detail of an answer is that of any state with the same scene slots. -/
theorem answerDetail_congr {s t : State} (h : t.slots = s.slots) (bs : List Byte) (o : Answer) (d : Nat) :
    t.answerDetail bs o d = s.answerDetail bs o d := by
  simp only [State.answerDetail, State.reportedFlags, State.flagsOf, State.slot, State.live, h]

/-! ### One pass of refusals (01 R9 steps 1 and 2) -/

/-- The refusal of slot `k` by the test `p` with the outcome `o`. -/
def State.refusal (s : State) (p : Word16 → Bool) (o : Answer) (k : Nat) : Option (Nat × Answer × Nat) :=
  if s.isCandidate k && p (cueNumber s.ram k) then
    some (u8 (cueBytes s.ram k) 1, o, s.answerDetail (cueBytes s.ram k) o 0)
  else none

/-- `t` is `s` after some refusals, of which `n` are answered: the memory is `ram`, CUE ANSWERED has counted them. -/
structure RefusedTo (s : State) (ram : List Host.Cell) (n : Nat) (t : State) : Prop where
  ram : t.ram = ram
  cues : t.cues = s.cues
  todo : t.todo = s.todo
  slots : t.slots = s.slots
  trans : t.trans = s.trans
  loader : t.loader = s.loader
  notices : t.att.notices.length = 14
  count : (t.att.notice 0).count = min 255 ((s.att.notice 0).count + n)
  others : ∀ i, i ≠ 0 → t.att.notice i = s.att.notice i

/-- An answer to a candidate changes memory and CUE ANSWERED alone: a candidate holds no slot. -/
theorem answer_candidate {s : State} {k : Nat} (hc : s.isCandidate k = true) (h : s.att.notices.length = 14) (bs : List Byte)
    (o : Answer) (d : Nat) :
    RefusedTo s (answerWrite s.ram k (u8 bs 1) o (s.answerDetail bs o d)) 1 (s.answer k bs o d) := by
  have hn : s.cues.held.getD k none = none := by
    simp only [State.isCandidate, Bool.and_eq_true, Option.isNone_iff_eq_none] at hc
    exact hc.2
  have hs : s.cues.held.set k none = s.cues.held := by
    refine List.ext_getElem? fun i => ?_
    rw [List.getElem?_set]
    split
    · subst i
      rw [List.getD_eq_getElem?_getD] at hn
      cases hx : s.cues.held[k]? with
      | none => simp [List.getElem?_eq_none_iff.1 hx]
      | some x =>
        obtain ⟨hl, -⟩ := List.getElem?_eq_some_iff.1 hx
        rw [hx, Option.getD_some] at hn
        rw [if_pos hl, hn]
    · rfl
  obtain ⟨-, h0, hi, -⟩ := setAtt_change ((s.setRam (answerWrite s.ram k (u8 bs 1) o (s.answerDetail bs o d))).setCues
    { s.cues with held := s.cues.held.set k none }) .cueAnswered
    (Notice.occur (BitVec.ofNat 32 (k + 256 * o.code + 65536 * u16 bs 4)) s.frame) h
  refine ⟨rfl, ?_, rfl, rfl, rfl, rfl, ?_, congrArg Notice.count h0, hi⟩
  · show { s.cues with held := s.cues.held.set k none } = s.cues
    rw [hs]
  · show (Attention.follow _ _).notices.length = 14
    rw [follow_notices, List.length_modify]
    exact h

/-- The first `n` slots refused by one pass. -/
theorem refuse_range {s : State} (hm : Memory.wf s.ram = true) (h : s.att.notices.length = 14)
    (hc : (s.att.notice 0).count ≤ 255) (p : Word16 → Bool) (o : Answer) (n : Nat) :
    RefusedTo s (answerEach (s.refusal p o) s.ram n) ((List.range n).countP fun k => (s.refusal p o k).isSome)
      ((List.range n).foldl (refuseSlot p o) s) := by
  induction n with
  | zero => exact ⟨rfl, rfl, rfl, rfl, rfl, rfl, h, (min_eq_right hc).symm, fun _ _ => rfl⟩
  | succ n ih =>
    rw [List.range_succ, List.foldl_append, List.foldl_cons, List.foldl_nil, List.countP_append, List.countP_singleton,
      answerEach_succ]
    generalize (List.range n).foldl (refuseSlot p o) s = t at ih ⊢
    have hb : cueBytes t.ram n = cueBytes s.ram n := by
      rw [ih.ram]
      exact readBytes_congr fun i hi => answerEach_outside hm _ fun k hk => by simp only [Config.cueSlotBase]; omega
    have hcand := isCandidate_congr ih.cues hb
    have hnum := cueNumber_congr hb
    by_cases hit : (s.isCandidate n && p (cueNumber s.ram n)) = true
    · have hr : s.refusal p o n = some (u8 (cueBytes s.ram n) 1, o, s.answerDetail (cueBytes s.ram n) o 0) := if_pos hit
      have ha := answer_candidate (k := n) (s := t) (by rw [hcand]; exact (Bool.and_eq_true_iff.1 hit).1) ih.notices
        (cueBytes t.ram n) o 0
      have he : refuseSlot p o t n = t.answer n (cueBytes t.ram n) o 0 := if_pos (by rw [hcand, hnum]; exact hit)
      rw [he, hr]
      refine ⟨?_, ha.cues.trans ih.cues, ha.todo.trans ih.todo, ha.slots.trans ih.slots, ha.trans.trans ih.trans,
        ha.loader.trans ih.loader, ha.notices, ?_, fun i hi => (ha.others i hi).trans (ih.others i hi)⟩
      · rw [ha.ram, hb, answerDetail_congr ih.slots, ih.ram]; rfl
      · rw [ha.count, ih.count]; simp only [Option.isSome_some, if_true]; omega
    · have hr : s.refusal p o n = none := if_neg hit
      have he : refuseSlot p o t n = t := if_neg (by rw [hcand, hnum]; exact hit)
      rw [he, hr]
      simpa [answerOne] using ih

/-- One pass over the whole table. -/
theorem refuseAll_spec {s : State} (hm : Memory.wf s.ram = true) (h : s.att.notices.length = 14)
    (hc : (s.att.notice 0).count ≤ 255) (p : Word16 → Bool) (o : Answer) :
    RefusedTo s (answerEach (s.refusal p o) s.ram 32) ((List.range 32).countP fun k => (s.refusal p o k).isSome)
      (s.refuseAll p o) := refuse_range hm h hc p o 32

/-! ### Both passes -/

theorem countP_or {α : Type} {p q : α → Bool} {l : List α} (h : ∀ x ∈ l, p x = true → q x = false) :
    l.countP (fun x => p x || q x) = l.countP p + l.countP q := by
  induction l with
  | nil => rfl
  | cons x l ih =>
    rw [List.countP_cons, List.countP_cons, List.countP_cons, ih fun y hy => h y (List.mem_cons_of_mem _ hy)]
    have hx := h x List.mem_cons_self
    cases hp : p x <;> cases hq : q x <;> simp_all <;> omega

/-- What the scan refuses: BAD NUMBER a number 0, STALE one behind E. -/
def State.refused (s : State) (k : Nat) : Option (Nat × Answer × Nat) :=
  s.refusal (· == 0) .badNumber k <|> s.refusal (isBehind s.cues.expected) .stale k

theorem refusal_isSome (s : State) (p : Word16 → Bool) (o : Answer) (k : Nat) :
    (s.refusal p o k).isSome = (s.isCandidate k && p (cueNumber s.ram k)) := by
  unfold State.refusal; split <;> simp_all

theorem isBehind_zero (e : Word16) : isBehind e 0 = false := rfl

/-- An answered slot is no candidate. -/
theorem not_candidate_of_state {s : State} {k : Nat} (h : readByte s.ram (Config.cueSlotBase k) = 3) :
    s.isCandidate k = false := by
  simp [State.isCandidate, cueState, h]

theorem answerOne_state {ram : List Host.Cell} (h : Memory.wf ram = true) (k : Nat) {x : Option (Nat × Answer × Nat)}
    (hx : x.isSome = true) : readByte (answerOne ram k x) (Config.cueSlotBase k) = 3 := by
  obtain ⟨⟨kind, o, d⟩, rfl⟩ := Option.isSome_iff_exists.1 hx
  exact answerWrite_state h ..

/-- The second pass, in terms of the state before the first: it leaves what the first has answered. -/
theorem refusal_second {s t : State} {n k : Nat} (hm : Memory.wf s.ram = true)
    (h1 : RefusedTo s (answerEach (s.refusal (· == 0) .badNumber) s.ram 32) n t) (hk : k < 32) :
    t.refusal (isBehind s.cues.expected) .stale k =
      if (s.refusal (· == 0) .badNumber k).isSome then none else s.refusal (isBehind s.cues.expected) .stale k := by
  cases hr : s.refusal (· == 0) .badNumber k with
  | some x =>
    have hb : readByte t.ram (Config.cueSlotBase k) = 3 := by
      rw [h1.ram]
      exact (answerEach_slot hm (s.refusal (· == 0) .badNumber) hk (i := 0) (by decide)).trans
        (answerOne_state hm k (by rw [hr]; rfl))
    simp [State.refusal, not_candidate_of_state hb]
  | none =>
    have hb : cueBytes t.ram k = cueBytes s.ram k := by rw [h1.ram]; exact answerEach_cueBytes_none hm hk hr
    simp only [State.refusal, isCandidate_congr h1.cues hb, cueNumber_congr hb, hb, answerDetail_congr h1.slots,
      Option.isSome_none, Bool.false_eq_true, if_false]

/-- The two passes answer as many slots as `State.refused` says. -/
theorem countP_refused {s t : State} {n : Nat} (hm : Memory.wf s.ram = true)
    (h1 : RefusedTo s (answerEach (s.refusal (· == 0) .badNumber) s.ram 32) n t) :
    (List.range 32).countP (fun k => (s.refused k).isSome) =
      (List.range 32).countP (fun k => (s.refusal (· == 0) .badNumber k).isSome)
        + (List.range 32).countP fun k => (t.refusal (isBehind s.cues.expected) .stale k).isSome := by
  rw [← countP_or fun k hk h => by rw [refusal_second hm h1 (List.mem_range.1 hk), if_pos h]; rfl]
  refine List.countP_congr fun k hk => ?_
  rw [refusal_second hm h1 (List.mem_range.1 hk), State.refused]
  cases s.refusal (· == 0) .badNumber k <;> simp

/-- The two passes answer each slot of the table as `State.refused` says, and CUE ANSWERED counts the answers. -/
theorem scanRefuse_spec {s : State} (hm : Memory.wf s.ram = true) (h : s.att.notices.length = 14)
    (hc : (s.att.notice 0).count ≤ 255) :
    ∃ ram, RefusedTo s ram ((List.range 32).countP fun k => (s.refused k).isSome) s.scanRefuse
      ∧ (∀ k < 32, ∀ i < 128, readByte ram (Config.cueSlotBase k + i) =
          readByte (answerOne s.ram k (s.refused k)) (Config.cueSlotBase k + i))
      ∧ ∀ a, a < 0x1000 ∨ 0x2000 ≤ a → readByte ram a = readByte s.ram a := by
  have h1 := refuseAll_spec hm h hc (· == 0) .badNumber
  have hm1 : Memory.wf (s.refuseAll (· == 0) .badNumber).ram = true := by rw [h1.ram]; exact answerEach_wf hm _ _
  have h2 := refuseAll_spec hm1 h1.notices (by rw [h1.count]; exact min_le_left ..) (isBehind s.cues.expected) .stale
  unfold State.scanRefuse
  refine ⟨_, ⟨h2.ram, h2.cues.trans h1.cues, h2.todo.trans h1.todo, h2.slots.trans h1.slots, h2.trans.trans h1.trans,
    h2.loader.trans h1.loader, h2.notices, ?_, fun i hi => (h2.others i hi).trans (h1.others i hi)⟩, fun k hk i hi => ?_,
    fun a ha => ?_⟩
  · rw [h2.count, h1.count, countP_refused hm h1]
    omega
  · rw [answerEach_slot hm1 _ hk hi, refusal_second hm h1 hk, State.refused]
    have hb := answerEach_slot hm (s.refusal (· == 0) .badNumber) hk hi
    rw [← h1.ram] at hb
    cases hr : s.refusal (· == 0) .badNumber k with
    | some x => rw [hr] at hb; exact hb
    | none => rw [hr] at hb; exact answerOne_congr hm1 hm hb k _
  · have out (k : Nat) (hk : k < 32) : a < Config.cueSlotBase k ∨ Config.cueSlotBase k + 128 ≤ a := by
      simp only [Config.cueSlotBase]; omega
    rw [answerEach_outside hm1 _ out, h1.ram, answerEach_outside hm _ out]

end Sys2Proof.Machine
end

section
/-! PROOFS. A frame boundary: what no work touches, which works fall due, and how they are done (07 R150; log 1). -/

namespace Sys2Proof.Machine

/-! ### What no work of a frame boundary touches -/

/-- The fields that no work of a frame boundary changes. -/
def State.apart (s : State) : Word32 × Nat × BitVec 4 × Runctl × OutputLanes × Bool :=
  (s.frame, s.framePos, s.att.mask, s.runctl, s.outputs, s.resetHeld)

@[simp] theorem change_mask (a : Attention) (i : Nat) (f : Notice → Notice) : (a.change i f).mask = a.mask := follow_mask ..

theorem setAtt_apart (s : State) {a : Attention} (h : a.mask = s.att.mask) : (s.setAtt a).apart = s.apart := by
  show (s.frame, s.framePos, a.mask, s.runctl, s.outputs, s.resetHeld) = _
  rw [h]; rfl

theorem apart_closed (x : Word32 × Nat × BitVec 4 × Runctl × OutputLanes × Bool) : WorksClosed fun s => s.apart = x where
  ram _ _ _ h := h
  taken _ _ _ h := h
  letGo _ _ h := h
  gap _ _ h := h
  advance _ h := h
  slots _ _ h := h
  loader _ _ h := h
  coef _ _ h := h
  engines _ _ h := h
  net _ _ h := h
  trans _ _ h := h
  tails _ _ h := h
  mics _ _ h := h
  guard _ _ h := h
  lanes _ _ h := h
  clock _ _ h := h
  mode _ _ h := h
  key _ _ h := h
  locked _ h _ := h
  refused _ h _ _ := h
  unlocked _ h _ := h
  lockout _ h := h
  occur s _ _ _ h := (setAtt_apart s (change_mask ..)).trans h
  finish s _ _ h := (setAtt_apart s (change_mask ..)).trans h
  meters _ _ h := h
  erase _ _ h := h
  drop _ _ h := h
  stand _ h := h
  shown _ _ h := h
  changed _ _ h := h
  stages _ h := h

theorem settle_apart (s : State) : s.settle.apart = s.apart := (apart_closed s.apart).settle rfl

theorem foldl_doWork_apart (order : List Work) (s : State) : (order.foldl State.doWork s).apart = s.apart :=
  foldl_keeps (P := fun t => t.apart = s.apart) (fun _ w h => (apart_closed s.apart).doWork h w) order s rfl

/-! ### The frame boundary's command (07 R150) -/

/-- Before 64 sample periods no frame boundary falls. -/
theorem exec_frameBoundary_early {s : State} (h : s.framePos < 64) (order : List Work) (leave : Bool) :
    exec (.frameBoundary order leave) s = .next s := by
  have hf : s.frameOver = false := decide_eq_false (Nat.not_le.2 h)
  simp only [exec, execFrameBoundary, State.released, hf, Bool.false_eq_true, if_false, ite_self]

/-- After 64 sample periods the frame boundary falls. -/
theorem exec_frameBoundary {s : State} (hr : s.resetHeld = false) (h : 64 ≤ s.framePos) (order : List Work) (leave : Bool) :
    exec (.frameBoundary order leave) s =
      .next (if leave then order.foldl State.doWork s.openBoundary else (order.foldl State.doWork s.openBoundary).settle) := by
  have hf : s.frameOver = true := decide_eq_true h
  simp only [exec, execFrameBoundary, released_of hr, hf, if_true, State.boundary]

/-- The state with the frame counter advanced, where the works of the frame boundary fall due. -/
theorem openBoundary_todo (s : State) : s.openBoundary.todo = s.openBoundary.worksDue := by
  unfold State.openBoundary
  generalize s.settle = t
  rfl

/-- What the frame boundary's beginning leaves of the fields that no work touches. -/
theorem openBoundary_apart (s : State) :
    s.openBoundary.apart = (s.frame + 1, 0, s.att.mask, s.runctl, s.outputs, s.resetHeld) := by
  have h := settle_apart s
  simp only [State.apart, Prod.mk.injEq] at h
  obtain ⟨h1, -, h2, h3, h4, h5⟩ := h
  unfold State.openBoundary
  rw [← h1, ← h2, ← h3, ← h4, ← h5]
  generalize s.settle = t
  rfl

theorem settle_nil {s : State} (h : s.todo = []) : s.settle = s := by rw [State.settle, runAll_nil _ h]

/-- The frame counter has advanced and a frame begins. -/
def State.opened (s : State) : State :=
  ((s.setFrame (s.frame + 1)).setFramePos 0).setCues { s.cues with tookNow := false }

/-- Nothing left from the last frame boundary: the new one begins on the state as it is. -/
theorem openBoundary_eq {s : State} (h : s.todo = []) : s.openBoundary = s.opened.setTodo s.opened.worksDue := by
  rw [State.openBoundary, settle_nil h]
  rfl

/-! ### Which works fall due -/

theorem mem_dueIf {c : Bool} {v w : Work} : w ∈ dueIf c v ↔ w = v ∧ c = true := by
  cases c <;> simp [dueIf]

/-- Works that fall due for some units of a list. -/
theorem mem_unitsDue {α : Type} {w : Work} {l : List α} {f : Nat → α → List Work} :
    w ∈ (l.mapIdx f).flatten ↔ ∃ i x, l[i]? = some x ∧ w ∈ f i x := by
  simp only [List.mem_flatten, List.mem_mapIdx]
  constructor
  · rintro ⟨_, ⟨i, hi, rfl⟩, hw⟩
    exact ⟨i, l[i], List.getElem?_eq_getElem hi, hw⟩
  · rintro ⟨i, x, hx, hw⟩
    obtain ⟨hi, rfl⟩ := List.getElem?_eq_some_iff.1 hx
    exact ⟨_, ⟨i, hi, rfl⟩, hw⟩

/-- When a work falls due (07 R150 and the rules of the blocks). -/
def State.fallsDue (s : State) : Work → Prop
  | .modeRamp => s.mode.ramp.isSome = true
  | .resyncRamp => (s.clock.ramp.isSome || s.clock.turnUp) = true
  | .decayGlide e b => ∃ x, s.engines[e]? = some x ∧ (x.glides.get b).isSome = true
  | .epsGlide => s.coef.epsilonGlide.isSome = true
  | .trimGlide m => ∃ x, s.mics[m]? = some x ∧ x.trimGlide.isSome = true
  | .fallbackGlide m => ∃ x, s.mics[m]? = some x ∧ x.fallbackGlide.isSome = true
  | .depthGlide n => ∃ x, s.guard.pool[n]? = some x ∧ x.filter.glide.isSome = true
  | .scrub e => ∃ x, s.engines[e]? = some x ∧ (x.state == .scrubbing) = true
  | .tail k => ∃ x ∈ s.tails, x.slot = k
  | .fade => s.trans.any Transition.fading = true
  | .compute => (s.coef.underWay.any fun c => c.start + 2 == s.frame) = true
  | .copy => s.loader.any LoadRecord.copying = true
  | .claim => (s.trans.any fun t => t.phase == .claim) = true
  | .lockout => 0 < s.lock.lockout
  | .analysis => s.frame.toNat % 16 = 0
  | .meters => s.frame.toNat % 32 = 0
  | .refuse | .take | .gap | .modeTake | .clockTake | .lanes | .publish => True
  | .hold _ | .quiet _ | .deviceQuiet | .betaRequest => False

theorem mem_allBands (b : Band) : b ∈ allBands := by cases b <;> decide

theorem mem_worksDue {s : State} {w : Work} : w ∈ s.worksDue ↔ s.fallsDue w := by
  simp only [State.worksDue, State.glidesDue, State.decayGlidesDue, State.stepsDue, List.mem_append, mem_dueIf, mem_unitsDue,
    List.mem_flatMap, List.mem_map, List.mem_cons, List.mem_replicate, List.not_mem_nil]
  cases w <;>
    simp [State.fallsDue, mem_allBands, Config.analysisPeriod, Config.meterPeriod, Config.takesPerBoundary]

/-- The works of glides, ramps and steps in progress. -/
def inProgress : Work → Bool
  | .modeRamp | .resyncRamp | .decayGlide .. | .epsGlide | .trimGlide _ | .fallbackGlide _ | .depthGlide _ | .scrub _
  | .tail _ | .fade | .compute | .copy | .claim | .lockout => true
  | _ => false

theorem inProgress_of_mem {s : State} {w : Work} (h : w ∈ s.glidesDue ++ s.stepsDue) : inProgress w = true := by
  simp only [State.glidesDue, State.decayGlidesDue, State.stepsDue, List.mem_append, mem_dueIf, mem_unitsDue,
    List.mem_flatMap, List.mem_map] at h
  cases w <;> first | rfl | simp at h

/-- How often a work falls due that is not one of those in progress. -/
theorem count_worksDue (s : State) {w : Work} (h : inProgress w = false) :
    s.worksDue.count w = List.count w ([.modeTake, .clockTake, .lanes]
      ++ dueIf (s.frame.toNat % Config.analysisPeriod == 0) .analysis
      ++ [.refuse] ++ List.replicate Config.takesPerBoundary .take ++ [.gap]
      ++ dueIf (s.frame.toNat % Config.meterPeriod == 0) .meters ++ [.publish]) := by
  have h0 : (s.glidesDue ++ s.stepsDue).count w = 0 :=
    List.count_eq_zero.2 fun hm => by rw [inProgress_of_mem hm] at h; cases h
  simp only [State.worksDue, List.append_assoc, List.count_append] at h0 ⊢
  omega

/-- The works that always fall due: four takes, one of each of the others. -/
theorem count_always (s : State) : s.worksDue.count .take = 4 ∧ s.worksDue.count .refuse = 1 ∧ s.worksDue.count .gap = 1
    ∧ s.worksDue.count .publish = 1 ∧ s.worksDue.count .modeTake = 1 ∧ s.worksDue.count .clockTake = 1
    ∧ s.worksDue.count .lanes = 1 := by
  simp only [count_worksDue s (w := .take) rfl, count_worksDue s (w := .refuse) rfl, count_worksDue s (w := .gap) rfl,
    count_worksDue s (w := .publish) rfl, count_worksDue s (w := .modeTake) rfl, count_worksDue s (w := .clockTake) rfl,
    count_worksDue s (w := .lanes) rfl]
  cases s.frame.toNat % Config.analysisPeriod == 0 <;> cases s.frame.toNat % Config.meterPeriod == 0 <;> decide

/-- No stage of an analysis falls due by itself (06 R126). -/
theorem filter_isStage_worksDue (s : State) : s.worksDue.filter isStage = [] := by
  refine List.filter_eq_nil_iff.2 fun w hw hs => ?_
  have hd : s.fallsDue w := mem_worksDue.1 hw
  cases w <;> first | exact hd | cases hs

/-- A block in one of its states, if there is one. -/
theorem any_iff {α : Type} {o : Option α} {p : α → Bool} {q : α → Prop} (h : ∀ x, p x = true ↔ q x) :
    o.any p = true ↔ ∃ x, o = some x ∧ q x := by
  cases o <;> simp [h]

/-- A unit with a glide in progress. -/
theorem unit_isSome_iff {α β : Type} {o : Option α} {f : α → Option β} :
    (∃ x, o = some x ∧ (f x).isSome = true) ↔ ∃ x g, o = some x ∧ f x = some g := by
  simp only [Option.isSome_iff_exists, exists_and_left]

theorem fading_iff (t : Transition) : t.fading = true ↔ t.phase = .fade ∨ t.phase = .out ∨ t.phase = .in_ := by
  cases h : t.phase <;> simp [Transition.fading, h]

theorem mem_openBoundary {s : State} {w : Work} : w ∈ s.openBoundary.todo ↔ s.openBoundary.fallsDue w := by
  rw [openBoundary_todo, mem_worksDue]

theorem refuse_mem_openBoundary (s : State) : .refuse ∈ s.openBoundary.todo := (mem_openBoundary (w := .refuse)).2 trivial
theorem take_mem_openBoundary (s : State) : .take ∈ s.openBoundary.todo := (mem_openBoundary (w := .take)).2 trivial
theorem gap_mem_openBoundary (s : State) : .gap ∈ s.openBoundary.todo := (mem_openBoundary (w := .gap)).2 trivial

theorem filter_isStage_openBoundary (s : State) : s.openBoundary.todo.filter isStage = [] := by
  rw [openBoundary_todo, filter_isStage_worksDue]

/-! ### How the works are done (log 1) -/

/-- A work of the frame boundary that no other must precede, asked for first. -/
theorem doWork_openBoundary {s : State} (hr : s.resetHeld = false) {w : Work} (hw : w ∈ s.openBoundary.todo)
    (ht : w ≠ .take) (hg : w ≠ .gap) (hp : w ≠ .publish) :
    s.openBoundary.doWork w = (s.openBoundary.doing w).perform w := by
  have ha := openBoundary_apart s
  simp only [State.apart, Prod.mk.injEq] at ha
  obtain ⟨-, -, -, -, -, h⟩ := ha
  exact doWork_of_due ⟨h.trans hr, hw, filter_isStage_openBoundary s⟩ ht hg hp

theorem doWork_of_not_mem {s : State} {w : Work} (h : w ∉ s.todo) : s.doWork w = s := if_neg h

/-- The publication waits until it is the last. -/
theorem doWork_publish_waits {s : State} (h : s.todo ≠ [.publish]) : s.doWork .publish = s := by
  unfold State.doWork
  split
  · exact if_pos ⟨rfl, h⟩
  · rfl

/-- A work that is due is done after what comes before it. -/
theorem doWork_of_mem {s : State} {w : Work} (h : w ∈ s.todo) (hp : w ≠ .publish ∨ s.todo = [.publish]) :
    s.doWork w = (s.worksBefore w ++ [w]).foldl State.doOne s := by
  rw [State.doWork, if_pos h, if_neg fun hc => hp.elim (· hc.1) hc.2]

/-- Works asked for in any order leave no more to do than there was. -/
theorem foldl_doWork_room (order : List Work) {s : State} (hs : standing s.todo ≤ 2) (hp : publishLast s.todo) :
    room (order.foldl State.doWork s).todo ≤ room s.todo ∧ standing (order.foldl State.doWork s).todo ≤ 2
      ∧ publishLast (order.foldl State.doWork s).todo := by
  induction order generalizing s with
  | nil => exact ⟨le_refl _, hs, hp⟩
  | cons w order ih =>
    obtain ⟨h1, h2, h3⟩ := doWork_room w hs hp
    obtain ⟨k1, k2, k3⟩ := ih h2 h3
    exact ⟨k1.trans h1, k2, k3⟩

/-- A frame boundary of a part with its units leaves nothing due, in whatever order its works are done. -/
theorem boundary_settles {s : State} (h : s.todo = []) (he : s.engines.length = 32) (hm : s.mics.length = 48)
    (hg : s.guard.pool.length = 16) (ht : s.tails.length ≤ 8) (order : List Work) :
    (order.foldl State.doWork s.openBoundary).settle.todo = [] := by
  have ho : orderly 334 s.openBoundary.todo := by
    rw [openBoundary_eq h]
    exact orderly_worksDue he hm hg ht
  obtain ⟨h1, h2, h3⟩ := ho
  obtain ⟨k1, k2, k3⟩ := foldl_doWork_room order h2 h3
  refine settle_todo k2 k3 (k1.trans ?_)
  rw [room]
  omega

/-- What is left to do, work by work. -/
theorem sum_room {f : Work → Nat} (hf : ∀ w, f w = 3 * weight w + if stands w then 1 else 0) (l : List Work) :
    (l.map f).sum = room l := by
  induction l with
  | nil => rfl
  | cons w l ih =>
    rw [List.map_cons, List.sum_cons, ih, hf, room, room, heft, heft, standing, standing, List.map_cons, List.sum_cons,
      List.countP_cons]
    omega

/-- The standing works are the claims and the publications. -/
theorem count_standing (l : List Work) : l.count .claim + l.count .publish = standing l := by
  induction l with
  | nil => rfl
  | cons w l ih =>
    rw [List.count_cons, List.count_cons, standing, List.countP_cons, ← standing, ← ih]
    cases w <;> simp [stands] <;> omega

/-! ### The statement -/

section
variable {s : State} (hr : s.resetHeld = false) (hf : 64 ≤ s.framePos)
include hr hf

theorem exec_openBoundary : exec (.frameBoundary [] true) s = .next s.openBoundary := exec_frameBoundary hr hf [] true

/-- Whatever the order, the frame counter has advanced by 1 and a frame begins (07 R150). -/
theorem frameBoundary_advances (order : List Work) (leave : Bool) : ∃ t, exec (.frameBoundary order leave) s = .next t
    ∧ t.frame = s.frame + 1 ∧ t.framePos = 0 ∧ t.att.mask = s.att.mask ∧ t.runctl = s.runctl ∧ t.outputs = s.outputs := by
  refine ⟨_, exec_frameBoundary hr hf order leave, ?_⟩
  have h1 := (foldl_doWork_apart order s.openBoundary).trans (openBoundary_apart s)
  have h2 := (settle_apart _).trans h1
  cases leave
  · simp only [State.apart, Prod.mk.injEq] at h2
    obtain ⟨a, b, c, d, e, -⟩ := h2
    exact ⟨a, b, c, d, e⟩
  · simp only [State.apart, Prod.mk.injEq] at h1
    obtain ⟨a, b, c, d, e, -⟩ := h1
    exact ⟨a, b, c, d, e⟩

end

/-- Settles O49. -/
theorem frameBoundaryAdvances : Obligations.FrameBoundaryAdvances := by
  refine ⟨fun s hr => ⟨fun hf order leave => exec_frameBoundary_early hf order leave, fun hf => ⟨frameBoundary_advances hr hf,
    fun h0 => ⟨s.opened.setTodo s.opened.worksDue, ?opens, rfl, ?due⟩, _, exec_openBoundary hr hf, fun w hw ht hg hp => ?one⟩,
    fun hf => ⟨_, exec_openBoundary hr hf, fun order leave => exec_frameBoundary hr hf order leave⟩,
    fun hf h0 he hm hg ht order => ⟨_, exec_frameBoundary hr hf order false, boundary_settles h0 he hm hg ht order⟩⟩,
    ?works, fun s h => settle_nil h, ?settle⟩
  case opens => rw [exec_openBoundary hr hf, openBoundary_eq h0]
  case one => rw [exec_frameBoundary hr hf, if_pos rfl, List.foldl_cons, List.foldl_nil, doWork_openBoundary hr hw ht hg hp]
  case due =>
    obtain ⟨take, refuse, gap, publish, modeTake, clockTake, lanes⟩ := count_always s.opened
    refine ⟨take, refuse, gap, publish, mem_worksDue, mem_worksDue, modeTake, clockTake, lanes,
      mem_worksDue.trans Option.isSome_iff_exists, mem_worksDue.trans ?_,
      fun e b => mem_worksDue.trans unit_isSome_iff, mem_worksDue.trans Option.isSome_iff_exists,
      fun m => mem_worksDue.trans unit_isSome_iff, fun m => mem_worksDue.trans unit_isSome_iff,
      fun n => mem_worksDue.trans unit_isSome_iff, fun e => mem_worksDue.trans ?_, fun k => mem_worksDue,
      mem_worksDue.trans (any_iff fading_iff), mem_worksDue.trans (any_iff fun _ => beq_iff_eq),
      mem_worksDue.trans (any_iff fun _ => beq_iff_eq), mem_worksDue.trans (any_iff fun _ => beq_iff_eq), mem_worksDue⟩
    · exact Bool.or_eq_true_iff.trans (or_congr_left Option.isSome_iff_exists)
    · exact exists_congr fun x => and_congr_right fun _ => beq_iff_eq
  case works =>
    intro s w stage stages before once
    have hstage : stage = isStage := by funext x; cases x <;> rfl
    have hbefore : before = s.worksBefore w := by
      simp only [before, stages, hstage, State.worksBefore, Bool.or_eq_true, beq_iff_eq]
      rfl
    have honce : once = State.doOne := rfl
    exact ⟨doWork_of_not_mem, fun hw hp => hw ▸ doWork_publish_waits hp, fun hm hp => by
      rw [hbefore, honce]; exact doWork_of_mem hm hp⟩
  case settle =>
    intro s w rest h wt hn hs hp
    have hwt (x : Work) : wt x = 3 * weight x + if stands x then 1 else 0 := by cases x <;> rfl
    rw [sum_room hwt] at hn
    rw [count_standing] at hs
    exact ⟨settle_cons h hs hp hn, settle_todo hs hp hn⟩

end Sys2Proof.Machine
end

section
/-! PROOFS. The scan and the gap timer at a frame boundary (01 R9, R11 to R13). -/

namespace Sys2Proof.Machine

/-! ### Refusals and takes among the works (01 R9) -/

@[simp] theorem answer_todo (s : State) (k : Nat) (bs : List Byte) (o : Answer) (d : Nat) :
    (s.answer k bs o d).todo = s.todo := rfl

theorem refuseAll_todo (p : Word16 → Bool) (o : Answer) (s : State) : (s.refuseAll p o).todo = s.todo :=
  foldl_keeps (P := fun t => t.todo = s.todo) (fun t k h => by unfold refuseSlot; split <;> exact h) _ s rfl

theorem scanRefuse_todo (s : State) : s.scanRefuse.todo = s.todo := (refuseAll_todo ..).trans (refuseAll_todo ..)

/-- The refusals are asked for first. -/
theorem doWork_refuse {s : State} (hs : s.todo.filter isStage = []) : s.doWork .refuse = s.doOne .refuse := by
  by_cases hm : .refuse ∈ s.todo
  · rw [doWork_of_mem hm (.inl (by decide)), State.worksBefore, hs]; rfl
  · rw [doWork_of_not_mem hm, doOne_of_not_mem hm]

/-- A take, once the refusals are made. -/
theorem doWork_take {s : State} (hs : s.todo.filter isStage = []) (hr : .refuse ∉ s.todo) : s.doWork .take = s.doOne .take := by
  by_cases hm : .take ∈ s.todo
  · rw [doWork_of_mem hm (.inl (by decide)), State.worksBefore, hs]
    show (s.doOne .refuse).doOne .take = _
    rw [doOne_of_not_mem hr]
  · rw [doWork_of_not_mem hm, doOne_of_not_mem hm]

/-- The gap timer after the refusals and the takes. -/
theorem doWork_gap_of_mem {s : State} (hs : s.todo.filter isStage = []) (hm : .gap ∈ s.todo) :
    s.doWork .gap = ((List.replicate 4 .take).foldl State.doOne (s.doOne .refuse)).doOne .gap := by
  rw [doWork_of_mem hm (.inl (by decide)), State.worksBefore, hs]; rfl

/-- The refusals are made, and no stage of an analysis waits. -/
def State.scanned (s : State) : Prop := .refuse ∉ s.todo ∧ s.todo.filter isStage = []

theorem scanned_of_subset {s t : State} (h : s.scanned)
    (hl : ∀ w ∈ t.todo, w ∈ s.todo ∨ w = .claim ∨ w = .publish) : t.scanned := by
  obtain ⟨hr, hs⟩ := h
  rw [List.filter_eq_nil_iff] at hs
  refine ⟨fun hm => ?_, List.filter_eq_nil_iff.2 fun w hw hst => ?_⟩
  · rcases hl _ hm with h | h | h
    · exact hr h
    · cases h
    · cases h
  · rcases hl w hw with h | rfl | rfl
    · exact hs w h hst
    · cases hst
    · cases hst

/-- No work but an analysis puts back a refusal or a stage. -/
theorem scanned_closed : WorkClosed State.scanned where
  ram _ _ _ h := h
  taken _ _ _ h := h
  letGo _ _ h := h
  gap _ _ h := h
  advance _ h := h
  slots _ _ h := h
  loader _ _ h := h
  coef _ _ h := h
  engines _ _ h := h
  net _ _ h := h
  trans _ _ h := h
  tails _ _ h := h
  mics _ _ h := h
  guard _ _ h := h
  lanes _ _ h := h
  clock _ _ h := h
  mode _ _ h := h
  key _ _ h := h
  locked _ h _ := h
  refused _ h _ _ := h
  unlocked _ h _ := h
  lockout _ h := h
  occur _ _ _ _ h := h
  finish _ _ _ h := h
  meters _ _ h := h
  erase _ _ h := scanned_of_subset h fun _ hw => .inl (List.mem_of_mem_erase hw)
  drop _ _ h := scanned_of_subset h fun _ hw => .inl (List.mem_filter.1 hw).1
  stand s h := scanned_of_subset h fun w hw => by
    have hw' : w ∈ (s.todo.filter fun w => w != .claim && w != .publish) ++ [.claim, .publish] := hw
    simp only [List.mem_append, List.mem_filter, List.mem_cons, List.not_mem_nil, or_false] at hw'
    exact hw'.imp_left And.left
  shown _ _ h := h
  changed _ _ h := h

/-- The state in which the refusals of the frame boundary are made. -/
def State.refusedScan (s : State) : State := (s.openBoundary.doing .refuse).scanRefuse

theorem doWork_refuse_openBoundary (s : State) : s.openBoundary.doWork .refuse = s.refusedScan := by
  rw [doWork_refuse (filter_isStage_openBoundary s), doOne_of_mem (refuse_mem_openBoundary s)]
  rfl

theorem refusedScan_scanned (s : State) : s.refusedScan.scanned := by
  obtain ⟨-, hc, -⟩ := count_always s.openBoundary
  have h1 : (s.openBoundary.doing .refuse).scanned := by
    rw [State.scanned, doing_todo, ← List.count_eq_zero, List.count_erase_self, openBoundary_todo, hc]
    refine ⟨rfl, List.filter_eq_nil_iff.2 fun w hw => ?_⟩
    exact List.filter_eq_nil_iff.1 (filter_isStage_worksDue s.openBoundary) w (List.mem_of_mem_erase hw)
  unfold State.refusedScan
  exact scanned_closed.scanRefuse h1

theorem take_mem_refusedScan (s : State) : .take ∈ s.refusedScan.todo := by
  unfold State.refusedScan
  rw [scanRefuse_todo, doing_todo]
  exact (List.mem_erase_of_ne (by decide)).2 (take_mem_openBoundary s)

theorem foldl_doWork_take {s : State} (h : s.scanned) (n : Nat) :
    (List.replicate n .take).foldl State.doWork s = (List.replicate n .take).foldl State.doOne s := by
  induction n generalizing s with
  | zero => rfl
  | succ n ih =>
    rw [List.replicate_succ, List.foldl_cons, List.foldl_cons, doWork_take h.2 h.1]
    exact ih (scanned_closed.onDue h .take fun _ h => scanned_closed.perform .take (by decide) h)

/-! ### Checks of a take (01 R12, R13) -/

/-- A take at the frame boundary whose expected candidate no held cue shadows. -/
theorem doWork_take_dispatch {v : State} (h : v.scanned) (hm : .take ∈ v.todo) {k : Nat} (he : v.expectedSlot = some k)
    (hn : v.holdsNumber v.cues.expected = false) : v.doWork .take = dispatchCue k (cueBytes v.ram k) (v.took k) := by
  have he' : (v.doing .take).expectedSlot = some k := he
  rw [doWork_take h.2 h.1, doOne_of_mem hm]
  show (v.doing .take).takeNext = _
  simp only [State.takeNext, he']
  exact takeSlot_dispatch hn

/-- The answers of the scan, by slot. -/
theorem refused_eq {s : State} {k : Nat} {o : Answer} (hc : s.isCandidate k = true)
    (h : o = .badNumber ∧ cueNumber s.ram k = 0 ∨ o = .stale ∧ isBehind s.cues.expected (cueNumber s.ram k) = true) :
    s.refused k = some (u8 (cueBytes s.ram k) 1, o, s.answerDetail (cueBytes s.ram k) o 0) := by
  rcases h with ⟨rfl, h⟩ | ⟨rfl, h⟩
  · simp [State.refused, State.refusal, hc, h]
  · have h0 : (cueNumber s.ram k == 0) = false := by
      rw [beq_eq_false_iff_ne]
      exact fun h0 => by rw [h0, isBehind_zero] at h; cases h
    simp only [State.refused, State.refusal, hc, h, h0, Bool.and_false, Bool.false_eq_true, if_false, Bool.and_self, if_true]
    rfl

theorem refused_isSome (s : State) (k : Nat) : (s.refused k).isSome =
    (s.isCandidate k && (cueNumber s.ram k == 0 || isBehind s.cues.expected (cueNumber s.ram k))) := by
  rw [Bool.and_or_distrib_left, ← refusal_isSome s (· == 0) .badNumber, ← refusal_isSome s _ .stale, State.refused]
  cases s.refusal (· == 0) .badNumber k <;> rfl

theorem isBehind_iff (e c : Word16) : isBehind e c = true ↔ c ≠ 0 ∧ 1 ≤ (e - c).toNat ∧ (e - c).toNat ≤ 32767 := by
  simp [isBehind, and_assoc]

/-- A slot that the scan does not refuse keeps its bytes. -/
theorem refused_none {s : State} {k : Nat} (h : ∀ o : Answer, ¬ (s.isCandidate k = true
    ∧ (o = .badNumber ∧ cueNumber s.ram k = 0 ∨ o = .stale ∧ isBehind s.cues.expected (cueNumber s.ram k) = true))) :
    s.refused k = none := by
  rw [← Option.not_isSome_iff_eq_none, refused_isSome, Bool.and_eq_true, Bool.or_eq_true, beq_iff_eq]
  rintro ⟨hc, hz | hb⟩
  · exact h _ ⟨hc, .inl ⟨rfl, hz⟩⟩
  · exact h _ ⟨hc, .inr ⟨rfl, hb⟩⟩

/-- Settles O23. -/
theorem failedChecksAreAnswered : Obligations.FailedChecksAreAnswered := by
  refine ⟨?checks, ?unknown, ?scan⟩
  case checks =>
    intro s k kind ht b
    rw [exec_of_turn ht]
    obtain ⟨-, -, -, -, hk⟩ := ht
    refine ⟨fun h => congrArg _ (takeSlot_stale h), fun h => ?_⟩
    have hd : (s.doing .take).takeSlot k = dispatchCue k b (s.took k) := takeSlot_dispatch h
    rw [hd]
    exact ⟨fun h => congrArg _ (dispatchCue_check h), fun h hp hl => congrArg _ (dispatchCue_locked h hk hp hl),
      fun h hg hs => congrArg _ (dispatchCue_mode h hk hg hs)⟩
  case unknown =>
    intro s hr hf v
    have hv : s.openBoundary.doWork .refuse = v := doWork_refuse_openBoundary s
    have hm : .take ∈ v.todo := take_mem_refusedScan s
    have hs : v.scanned := refusedScan_scanned s
    refine ⟨?_, fun k he hn h0 hk => ?_⟩
    · rw [exec_frameBoundary hr hf, if_pos rfl, List.foldl_cons, List.foldl_nil, hv]
    · rw [exec_frameBoundary hr hf, if_pos rfl, List.foldl_cons, List.foldl_cons, List.foldl_nil, hv,
        doWork_take_dispatch hs hm he hn, dispatchCue_unknown h0 hk]
  case scan =>
    intro s hm hl hc t behind refused
    obtain ⟨ram, ht, hslot, hout⟩ := scanRefuse_spec hm hl hc
    have hb (c : Word16) : behind c ↔ isBehind s.cues.expected c = true := (isBehind_iff ..).symm
    refine ⟨fun k hk o ho => ?_, fun k hk ho => ?_, fun a ha => by rw [ht.ram, hout a ha], ht.cues, ht.todo, ht.slots, ht.trans,
      ht.loader, ?_, ht.others⟩
    · obtain ⟨hcand, hno⟩ := ho
      rw [hb] at hno
      have hone (i : Nat) (hi : i < 128) : readByte t.ram (Config.cueSlotBase k + i) = readByte (answerWrite s.ram k
          (u8 (cueBytes s.ram k) 1) o (s.answerDetail (cueBytes s.ram k) o 0)) (Config.cueSlotBase k + i) := by
        rw [ht.ram, hslot k hk i hi, refused_eq hcand hno]; rfl
      have hrun (j n : Nat) (h : j + n ≤ 128) : readBytes t.ram (Config.cueSlotBase k + j) n = readBytes (answerWrite s.ram k
          (u8 (cueBytes s.ram k) 1) o (s.answerDetail (cueBytes s.ram k) o 0)) (Config.cueSlotBase k + j) n :=
        readBytes_congr fun i hi => by rw [Nat.add_assoc]; exact hone _ (by omega)
      exact ⟨(hone 0 (by decide)).trans (answerWrite_state hm ..), (hrun 6 2 (by decide)).trans (answerWrite_word hm ..),
        (hrun 8 4 (by decide)).trans (answerWrite_detail hm ..), fun i hi h0 hi' => (hone i hi).trans
          (answerWrite_outside hm _ _ _ _ (by omega) (by omega))⟩
    · have hn : s.refused k = none := refused_none fun o hc => ho o ⟨hc.1, by rw [hb]; exact hc.2⟩
      refine readBytes_congr fun i hi => ?_
      rw [ht.ram, hslot k hk i hi, hn]; rfl
    · rw [ht.count]
      simp only [refused_isSome]

end Sys2Proof.Machine
end

section
/-! PROOFS. The gap timer (01 R11), and that the takes of a frame boundary leave its work due. -/

namespace Sys2Proof.Machine

/-! ### No take does the gap timer's work

A cue's execution withdraws or makes works of its own block alone: glide steps, a copy, a take. -/

theorem gap_mem_onDue {s : State} (h : .gap ∈ s.todo) {w : Work} (hw : w ≠ .gap) {f : State → State}
    (hf : ∀ t : State, (f t).todo = t.todo) : .gap ∈ (s.onDue w f).todo := by
  unfold State.onDue
  split
  · rw [hf]
    exact (List.mem_erase_of_ne hw.symm).2 h
  · exact h

theorem gap_mem_dropWork {s : State} (h : .gap ∈ s.todo) {w : Work} (hw : w ≠ .gap) : .gap ∈ (s.dropWork w).todo :=
  List.mem_filter.2 ⟨h, by simpa using hw.symm⟩

theorem gap_mem_foldl {α : Type} {f : State → α → State} (hf : ∀ (s : State) (a : α), .gap ∈ s.todo → .gap ∈ (f s a).todo)
    (l : List α) {s : State} (h : .gap ∈ s.todo) : .gap ∈ (l.foldl f s).todo :=
  foldl_keeps (P := fun t => Work.gap ∈ t.todo) hf l s h

/-! What leaves the works due as they are. -/

theorem answerHeld_todo (s : State) (k : Nat) (o : Answer) (d : Nat) : (s.answerHeld k o d).todo = s.todo := by
  unfold State.answerHeld; split <;> rfl

theorem judge_todo (s : State) (x : Source) (b : Bool) (d : Nat) : (s.judge x b d).todo = s.todo := by
  unfold State.judge; split_ifs <;> rfl

theorem request_todo (s : State) (q : Request) : (s.request q).todo = s.todo := by
  unfold State.request; split <;> rfl

theorem requestLive_todo (s : State) (g : Nat) : (s.requestLive g).todo = s.todo := by
  unfold State.requestLive
  split
  · exact request_todo ..
  · rfl

theorem setBeta_todo (s : State) (v : Nat) : (s.setBeta v).todo = s.todo := judge_todo ..

theorem retire_todo (s : State) (k : Option Nat) : (s.retire k).todo = s.todo := by
  cases k <;> rfl

theorem abortLoad_todo (s : State) (k : Nat) : (s.abortLoad k).todo = s.todo := by
  unfold State.abortLoad
  split
  · rfl
  · exact answerHeld_todo ..

theorem supersede_todo (s : State) (t : Transition) : (s.supersede t).todo = s.todo := answerHeld_todo ..

theorem acceptGo_todo (s : State) (k : Nat) (target : Option Nat) (f : Nat) (c : Bool) :
    (s.acceptGo k target f c).todo = s.todo := by
  cases target with
  | some slot => exact request_todo ..
  | none => exact retire_todo ..

/-! What makes the glide steps that are still due. -/

theorem gap_mem_setPhi {s : State} (h : .gap ∈ s.todo) (m v : Nat) : .gap ∈ (s.setPhi m v).todo := by
  unfold State.setPhi
  split
  · exact h
  · exact gap_mem_onDue h (by simp) fun _ => rfl

theorem gap_mem_stepTrimGlide {s : State} (h : .gap ∈ s.todo) (m : Nat) : .gap ∈ (s.stepTrimGlide m).todo :=
  gap_mem_onDue h (by simp) fun _ => rfl

theorem gap_mem_changeEntry {s : State} (h : .gap ∈ s.todo) (n : Nat) (f : Notch → Notch) :
    .gap ∈ (s.changeEntry n f).todo := by
  unfold State.changeEntry
  dsimp only
  rw [judge_todo]
  exact gap_mem_onDue (w := .depthGlide n) h (by simp) fun _ => rfl

theorem touch_todo (s : State) (m : Nat) : (s.touch m).todo = s.todo := rfl

theorem raise_todo (s : State) (x : Source) (d : Nat) : (s.raise x d).todo = s.todo := rfl

theorem gap_mem_fallbackStep {s : State} (h : .gap ∈ s.todo) (m : Nat) : .gap ∈ (s.fallbackStep m).todo := by
  unfold State.fallbackStep
  dsimp only
  rw [raise_todo, touch_todo, setBeta_todo]
  exact gap_mem_setPhi h ..

theorem gap_mem_displace {s : State} (h : .gap ∈ s.todo) (v : Nat) : .gap ∈ (s.displace v).todo := by
  unfold State.displace
  exact gap_mem_fallbackStep ((raise_todo ..).symm ▸ h) _

theorem gap_mem_changeIf {s : State} (h : .gap ∈ s.todo) (p : Prop) [Decidable p] (n : Nat) (f : Notch → Notch) :
    .gap ∈ (if p then s.changeEntry n f else s).todo := by
  split
  · exact gap_mem_changeEntry h ..
  · exact h

theorem gap_mem_trimTau {s : State} (h : .gap ∈ s.todo) (t : Int) (g : Nat) : .gap ∈ (s.trimTau t g).todo := by
  rw [State.trimTau, requestLive_todo]
  exact h

theorem gap_mem_trimEpsilon {s : State} (h : .gap ∈ s.todo) (t : Int) (g : Nat) : .gap ∈ (s.trimEpsilon t g).todo :=
  gap_mem_onDue (w := .epsGlide) h (by simp) fun _ => rfl

/-! The cues. -/

theorem gap_mem_cueLoadScene {s : State} (h : .gap ∈ s.todo) (k : Nat) (bs : List Byte) : .gap ∈ (cueLoadScene k bs s).todo := by
  unfold cueLoadScene
  dsimp only
  split_ifs
  iterate 4 exact h
  exact gap_mem_dropWork h (by decide)

theorem cueVacateScene_todo (s : State) (k : Nat) (bs : List Byte) : (cueVacateScene k bs s).todo = s.todo := by
  unfold cueVacateScene
  dsimp only
  split
  · rfl
  · split
    case h_6 => exact abortLoad_todo ..
    case h_3 => split <;> rfl
    all_goals rfl

theorem cueGo_todo (s : State) (k : Nat) (bs : List Byte) : (cueGo k bs s).todo = s.todo := by
  unfold cueGo
  dsimp only
  iterate 4
    split
    · rfl
  split
  · exact acceptGo_todo ..
  · split
    · exact (acceptGo_todo ..).trans (supersede_todo ..)
    · rfl

theorem gap_mem_cueTrim {s : State} (h : .gap ∈ s.todo) (k : Nat) (bs : List Byte) : .gap ∈ (cueTrim k bs s).todo := by
  unfold cueTrim
  dsimp only
  rw [answer_todo]
  split_ifs
  · exact gap_mem_trimEpsilon (gap_mem_trimTau h _ _) _ _
  · exact gap_mem_trimEpsilon h _ _
  · exact gap_mem_trimTau h _ _
  · exact h

theorem gap_mem_cueLoadMicTable {s : State} (h : .gap ∈ s.todo) (k : Nat) (bs : List Byte) :
    .gap ∈ (cueLoadMicTable k bs s).todo := by
  unfold cueLoadMicTable
  dsimp only
  split
  · exact h
  · split
    · exact h
    · rw [answer_todo, State.setMics_todo]
      exact gap_mem_foldl (fun _ m h => gap_mem_stepTrimGlide h m) _ h

theorem gap_mem_cueFixNotch {s : State} (h : .gap ∈ s.todo) (k : Nat) (bs : List Byte) : .gap ∈ (cueFixNotch k bs s).todo := by
  unfold cueFixNotch
  dsimp only
  split_ifs
  iterate 2 exact h
  split
  · exact gap_mem_foldl (fun s n h => gap_mem_changeIf h _ _ _) _ (gap_mem_changeEntry h ..)
  · split
    · exact gap_mem_changeEntry h ..
    · split
      · rw [answer_todo]
        split
        · rw [requestLive_todo]
          exact gap_mem_changeEntry (gap_mem_displace h _) _ _
        · exact gap_mem_changeEntry (gap_mem_displace h _) _ _
      · exact h

theorem gap_mem_cueClearNotch {s : State} (h : .gap ∈ s.todo) (k : Nat) (bs : List Byte) :
    .gap ∈ (cueClearNotch k bs s).todo := by
  unfold cueClearNotch
  dsimp only
  split_ifs
  · exact h
  · exact gap_mem_changeEntry h ..
  · exact h

theorem gap_mem_cueClearGuard {s : State} (h : .gap ∈ s.todo) (k : Nat) (bs : List Byte) :
    .gap ∈ (cueClearGuard k bs s).todo := by
  have h1 : .gap ∈ ((List.range Config.microphones).foldl (fun (s : State) m => s.setPhi m 0) s.freeFloating).todo :=
    gap_mem_foldl (fun s m h => gap_mem_setPhi h m 0) _ (gap_mem_foldl (fun s n h => gap_mem_changeIf h _ _ _) _ h)
  unfold cueClearGuard
  dsimp only
  generalize (List.range Config.microphones).foldl (fun (s : State) m => s.setPhi m 0) s.freeFloating = t at h1 ⊢
  rw [answer_todo, State.setGuard_todo, State.setMics_todo]
  split
  · rw [requestLive_todo, setBeta_todo]; exact h1
  · exact h1

theorem cueClearStatus_todo (s : State) (k : Nat) (bs : List Byte) : (cueClearStatus k bs s).todo = s.todo := by
  unfold cueClearStatus
  dsimp only
  split <;> rfl

theorem cueLock_todo (s : State) (k : Nat) (bs : List Byte) : (cueLock k bs s).todo = s.todo := by
  unfold cueLock
  split
  · rfl
  · split_ifs <;> rfl

theorem cueUnlock_todo (s : State) (k : Nat) (bs : List Byte) : (cueUnlock k bs s).todo = s.todo := by
  unfold cueUnlock
  split_ifs <;> rfl

theorem cueSetKey_todo (s : State) (k : Nat) (bs : List Byte) : (cueSetKey k bs s).todo = s.todo := by
  unfold cueSetKey
  split <;> rfl

theorem gap_mem_executeCue {s : State} (h : .gap ∈ s.todo) (kind : CueKind) (k : Nat) (bs : List Byte) :
    .gap ∈ (executeCue kind k bs s).todo := by
  cases kind with
  | mark => exact h
  | loadScene => exact gap_mem_cueLoadScene h k bs
  | vacateScene => exact (cueVacateScene_todo s k bs).symm ▸ h
  | go => exact (cueGo_todo s k bs).symm ▸ h
  | trim => exact gap_mem_cueTrim h k bs
  | clearStatus => exact (cueClearStatus_todo s k bs).symm ▸ h
  | loadMicTable => exact gap_mem_cueLoadMicTable h k bs
  | setGuard => exact h
  | fixNotch => exact gap_mem_cueFixNotch h k bs
  | clearNotch => exact gap_mem_cueClearNotch h k bs
  | clearGuard => exact gap_mem_cueClearGuard h k bs
  | lock => exact (cueLock_todo s k bs).symm ▸ h
  | unlock => exact (cueUnlock_todo s k bs).symm ▸ h
  | setKey => exact (cueSetKey_todo s k bs).symm ▸ h

/-- A take leaves the gap timer's work due. -/
theorem gap_mem_takeNext {s : State} (h : .gap ∈ s.todo) : .gap ∈ s.takeNext.todo := by
  have dispatch {s : State} (h : .gap ∈ s.todo) (k : Nat) (bs : List Byte) : .gap ∈ (dispatchCue k bs s).todo := by
    unfold dispatchCue
    split
    · exact h
    · split
      · exact h
      · split_ifs
        · exact h
        · exact h
        · exact gap_mem_executeCue h ..
  unfold State.takeNext
  split
  · unfold State.takeSlot
    split
    · exact h
    · exact dispatch (s := s.takeCopy _) h ..
  · exact gap_mem_dropWork h (by decide)

/-! ### The numbers that wait (01 R8, R11) -/

/-- A number ahead waits in some slot. -/
theorem mem_waiting {s : State} {c : Word16} :
    c ∈ s.waiting ↔ ∃ k < 32, s.isCandidate k = true ∧ cueNumber s.ram k = c ∧ isAhead s.cues.expected c = true := by
  simp only [State.waiting, List.mem_filter, List.mem_map, List.mem_range, and_assoc]
  constructor
  · rintro ⟨⟨k, hk, hc, he⟩, ha⟩; exact ⟨k, hk, hc, he, ha⟩
  · rintro ⟨k, hk, hc, he, ha⟩; exact ⟨⟨k, hk, hc, he⟩, ha⟩

/-- The lowest waiting number is one that waits, none nearer to E. -/
theorem lowestWaiting_spec (e : Word16) {l : List Word16} (h : l ≠ []) :
    ∃ c ∈ l, lowestWaiting e l = some c ∧ ∀ d ∈ l, distance e c ≤ distance e d := by
  induction l with
  | nil => exact absurd rfl h
  | cons c l ih =>
    rw [lowestWaiting]
    by_cases hl : l = []
    · subst hl; exact ⟨c, by simp, rfl, by simp⟩
    · obtain ⟨d, hd, he, hmin⟩ := ih hl
      rw [he]
      dsimp only
      split
      · exact ⟨d, by simp [hd], rfl, by simp only [List.mem_cons, forall_eq_or_imp]; exact ⟨by omega, hmin⟩⟩
      · refine ⟨c, by simp, rfl, fun x hx => ?_⟩
        rcases List.mem_cons.1 hx with rfl | hx
        · exact le_refl _
        · have := hmin x hx; omega

theorem distance_inj {e c d : Word16} (h : distance e c = distance e d) : c = d := by
  have h1 : c - e = d - e := BitVec.eq_of_toNat_eq h
  simpa using h1

/-! ### The gap timer's work (01 R11) -/

/-- A cue taken, a candidate that holds E, or none ahead: the gap timer returns to 0. -/
theorem gapStep_zero {s : State} (h : s.cues.tookNow = true ∨ s.expectedSlot ≠ none ∨ s.waiting = []) :
    s.gapStep = s.setGap 0 := by
  rw [← Option.isSome_iff_ne_none, ← or_assoc, ← Bool.or_eq_true_iff] at h
  unfold State.gapStep
  split
  · rfl
  · rw [h.resolve_left ‹_›]; rfl

/-- A number ahead waits: the gap timer advances, and its 750th frame raises CUE GAP. -/
theorem gapStep_waits {s : State} (ht : s.cues.tookNow = false) (he : s.expectedSlot = none) {c : Word16}
    (hc : lowestWaiting s.cues.expected s.waiting = some c) : s.gapStep =
      if 749 ≤ s.cues.gapTimer then (s.setGap 0).raise .cueGap (s.cues.expected.toNat + 65536 * c.toNat)
      else s.setGap (s.cues.gapTimer + 1) := by
  unfold State.gapStep
  rw [ht, he, hc, if_neg (by decide)]
  have hg : Config.gapLength ≤ s.cues.gapTimer + 1 ↔ 749 ≤ s.cues.gapTimer := by rw [Config.gapLength]; omega
  simp only [hg]

/-- The row CUE_GAP is the gap timer's work at its 750th frame. -/
theorem exec_cueGap {s : State} (h : s.due .gap) (hr : .refuse ∉ s.todo) (ht : .take ∉ s.todo) (hg : 749 ≤ s.cues.gapTimer) :
    exec .cueGap s = .next (s.doing .gap).gapStep := by
  have hl : (Config.gapLength ≤ s.cues.gapTimer + 1 : Bool) = true := decide_eq_true (Nat.succ_le_succ hg)
  show s.released (fun s => s.eventWork .gap (Config.gapLength ≤ s.cues.gapTimer + 1)) = _
  rw [released_of h.1, State.eventWork, if_pos hl, doWork_gap h hr ht]

/-- The refusals and the four takes of a frame boundary, asked for in their order. -/
theorem foldl_scan (s : State) : [.refuse, .take, .take, .take, .take].foldl State.doWork s.openBoundary =
    (List.replicate 4 .take).foldl State.doOne s.refusedScan := by
  rw [List.foldl_cons, doWork_refuse_openBoundary]
  exact foldl_doWork_take (refusedScan_scanned s) 4

theorem gap_mem_refusedScan (s : State) : .gap ∈ s.refusedScan.todo := by
  unfold State.refusedScan
  rw [scanRefuse_todo, doing_todo]
  exact (List.mem_erase_of_ne (by decide)).2 (gap_mem_openBoundary s)

/-- The scan of a frame boundary leaves the gap timer's work due. -/
theorem gap_mem_scan (s : State) (n : Nat) : .gap ∈ ((List.replicate n .take).foldl State.doOne s.refusedScan).todo := by
  have keep : ∀ (t : State) (w : Work), w = .take → .gap ∈ t.todo → .gap ∈ (t.doOne w).todo := by
    rintro t w rfl h
    unfold State.doOne State.onDue
    split
    · exact gap_mem_takeNext (s := t.setTodo _) ((List.mem_erase_of_ne (by decide)).2 h)
    · exact h
  have hg := gap_mem_refusedScan s
  generalize s.refusedScan = t at hg ⊢
  induction n generalizing t with
  | zero => exact hg
  | succ n ih =>
    rw [List.replicate_succ, List.foldl_cons]
    exact ih _ (keep t .take rfl hg)

/-- The gap timer's work of a frame boundary, asked for first, is made on the state that the scan leaves (01 R9, R11). -/
theorem doWork_gap_openBoundary (s : State) : s.openBoundary.doWork .gap =
    (((List.replicate 4 .take).foldl State.doOne s.refusedScan).doing .gap).perform .gap := by
  have hr : s.openBoundary.doOne .refuse = s.refusedScan := by
    rw [← doWork_refuse (filter_isStage_openBoundary s), doWork_refuse_openBoundary]
  rw [doWork_gap_of_mem (filter_isStage_openBoundary s) (gap_mem_openBoundary s), hr, doOne_of_mem (gap_mem_scan s 4)]

/-- Settles O50. -/
theorem theGapIsReported : Obligations.TheGapIsReported := by
  refine ⟨?reports, ?follows, ?steps⟩
  case reports =>
    intro s k hd hr ht hn he hg hk hc ha hmin
    have hmem : cueNumber s.ram k ∈ s.waiting := mem_waiting.2 ⟨k, hk, hc, rfl, ha⟩
    obtain ⟨c, hcm, hlow, hle⟩ := lowestWaiting_spec s.cues.expected (List.ne_nil_of_mem hmem)
    have hck : c = cueNumber s.ram k := by
      obtain ⟨j, hj, hjc, rfl, hja⟩ := mem_waiting.1 hcm
      exact distance_inj (le_antisymm (hle _ hmem) (hmin j hj hjc hja))
    rw [exec_cueGap hd hr ht hg.ge, (gapStep_waits (s := s.doing .gap) hn he hlow).trans (if_pos hg.ge), hck]
    rfl
  case follows =>
    intro s u hr hf hu
    rw [exec_frameBoundary hr hf, if_pos rfl, foldl_scan] at hu
    rw [exec_frameBoundary hr hf, if_pos rfl, List.foldl_cons, List.foldl_nil, doWork_gap_openBoundary,
      Host.Outcome.next.inj hu]
  case steps =>
    intro s waits
    have hw : waits ↔ s.waiting ≠ [] := by
      simp only [ne_eq, List.eq_nil_iff_forall_not_mem, not_forall, not_not, mem_waiting]
      constructor
      · rintro ⟨k, hk, hc, ha⟩; exact ⟨_, k, hk, hc, rfl, ha⟩
      · rintro ⟨_, k, hk, hc, rfl, ha⟩; exact ⟨k, hk, hc, ha⟩
    rw [hw, ne_eq, not_not]
    refine ⟨gapStep_zero, fun ht he hne hg => ?_⟩
    obtain ⟨c, -, hlow, -⟩ := lowestWaiting_spec s.cues.expected hne
    exact (gapStep_waits ht he hlow).trans (if_neg (by omega))

end Sys2Proof.Machine
end

section
/-! PROOFS. Lists of fields in common memory: what writing them leaves (01 R5, 09 R176, R180). -/

namespace Sys2Proof.Machine

/-- No two of the fields share a byte. -/
def fieldsApart (l : List (Nat × List Byte)) : Prop :=
  l.Pairwise fun e f => e.1 + e.2.length ≤ f.1 ∨ f.1 + f.2.length ≤ e.1

/-- The byte at `x` is in none of the fields. -/
def offFields (l : List (Nat × List Byte)) (x : Nat) : Prop := ∀ e ∈ l, x < e.1 ∨ e.1 + e.2.length ≤ x

theorem writeFields_cons (e : Nat × List Byte) (l : List (Nat × List Byte)) (ram : List Host.Cell) :
    writeFields (e :: l) ram = writeFields l (writeBytes ram e.1 e.2) := rfl

theorem writeFields_append (l m : List (Nat × List Byte)) (ram : List Host.Cell) :
    writeFields (l ++ m) ram = writeFields m (writeFields l ram) := List.foldl_append

theorem readByte_writeFields_off {ram : List Host.Cell} (h : Memory.wf ram = true) {l : List (Nat × List Byte)} {x : Nat}
    (hx : offFields l x) : readByte (writeFields l ram) x = readByte ram x := by
  induction l generalizing ram with
  | nil => rfl
  | cons e l ih =>
    rw [writeFields_cons, ih (writeBytes_wf h _ _) fun f hf => hx f (List.mem_cons_of_mem _ hf),
      readByte_writeBytes_outside h (hx e List.mem_cons_self)]

/-- The bytes of a field that is apart from all fields written. -/
theorem readBytes_writeFields_off {ram : List Host.Cell} (h : Memory.wf ram = true) {l : List (Nat × List Byte)} {a n : Nat}
    (hx : ∀ e ∈ l, a + n ≤ e.1 ∨ e.1 + e.2.length ≤ a) : readBytes (writeFields l ram) a n = readBytes ram a n :=
  readBytes_congr fun i hi => readByte_writeFields_off h fun e he => by have := hx e he; omega

/-- Fields apart from one another read as written. -/
theorem readBytes_writeFields {ram : List Host.Cell} (h : Memory.wf ram = true) {l : List (Nat × List Byte)}
    (hl : fieldsApart l) {a : Nat} {bs : List Byte} (hm : (a, bs) ∈ l) : readBytes (writeFields l ram) a bs.length = bs := by
  induction l generalizing ram with
  | nil => cases hm
  | cons e l ih =>
    obtain ⟨he, hl⟩ := List.pairwise_cons.1 hl
    rw [writeFields_cons]
    rcases List.mem_cons.1 hm with rfl | hm
    · rw [readBytes_writeFields_off (writeBytes_wf h _ _) he, readBytes_writeBytes h]
    · exact ih (writeBytes_wf h _ _) hl hm

/-! ### Fields that have changed -/

/-- The fields of `new` that `writeChanged` writes. -/
def rewritten (changed : Nat) (old new : List (Nat × List Byte)) : List (Nat × List Byte) :=
  (old.zip new).filterMap fun e => if e.1 = e.2 ∧ changed.testBit e.2.1 = false then none else some e.2

theorem rewritten_cons (changed : Nat) (o n : Nat × List Byte) (old new : List (Nat × List Byte)) :
    rewritten changed (o :: old) (n :: new) =
      if o = n ∧ changed.testBit n.1 = false then rewritten changed old new else n :: rewritten changed old new := by
  by_cases h : o = n ∧ changed.testBit n.1 = false
  · simp only [rewritten, List.zip_cons_cons, List.filterMap_cons, if_pos h]
  · simp only [rewritten, List.zip_cons_cons, List.filterMap_cons, if_neg h]

theorem writeChanged_eq (changed : Nat) {old new : List (Nat × List Byte)} (h : old.length = new.length)
    (ram : List Host.Cell) : writeChanged changed old new ram = writeFields (rewritten changed old new) ram := by
  induction old generalizing new ram with
  | nil => rw [List.length_eq_zero_iff.1 h.symm]; rfl
  | cons o old ih =>
    cases new with
    | nil => cases h
    | cons n new =>
      rw [writeChanged, ih (by simpa using h), rewritten_cons]
      split <;> rfl

theorem rewritten_sublist (changed : Nat) (old new : List (Nat × List Byte)) : (rewritten changed old new).Sublist new := by
  induction old generalizing new with
  | nil => exact List.nil_sublist _
  | cons o old ih =>
    cases new with
    | nil => exact List.nil_sublist _
    | cons n new =>
      rw [rewritten_cons]
      split
      · exact (ih new).cons _
      · exact (ih new).cons_cons _

/-- The fields written are those that differ or are marked. -/
theorem mem_rewritten {changed : Nat} {old new : List (Nat × List Byte)} {f : Nat × List Byte} :
    f ∈ rewritten changed old new ↔ ∃ (i : Nat) (e : Nat × List Byte),
      old[i]? = some e ∧ new[i]? = some f ∧ (e ≠ f ∨ changed.testBit f.1 = true) := by
  have h (e f : Nat × List Byte) : ¬ (e = f ∧ changed.testBit f.1 = false) ↔ e ≠ f ∨ changed.testBit f.1 = true := by
    rw [not_and_or, Bool.not_eq_false]
  rw [rewritten, List.mem_filterMap]
  simp only [List.mem_iff_getElem?, List.getElem?_zip_eq_some, Option.ite_none_left_eq_some, h, Option.some.injEq]
  constructor
  · rintro ⟨⟨e, f'⟩, ⟨i, ho, hn⟩, hc, rfl⟩; exact ⟨i, e, ho, hn, hc⟩
  · rintro ⟨i, e, ho, hn, hc⟩; exact ⟨(e, f), ⟨i, ho, hn⟩, hc, rfl⟩

/-- Two fields of a list at different places are apart. -/
theorem fieldsApart_getElem? {l : List (Nat × List Byte)} (h : fieldsApart l) {i j : Nat} {e f : Nat × List Byte}
    (hi : l[i]? = some e) (hj : l[j]? = some f) (hij : i ≠ j) : e.1 + e.2.length ≤ f.1 ∨ f.1 + f.2.length ≤ e.1 := by
  obtain ⟨hil, rfl⟩ := List.getElem?_eq_some_iff.1 hi
  obtain ⟨hjl, rfl⟩ := List.getElem?_eq_some_iff.1 hj
  have hp := List.pairwise_iff_getElem.1 h
  rcases Nat.lt_or_gt_of_ne hij with hlt | hlt
  · exact hp i j hil hjl hlt
  · exact (hp j i hjl hil hlt).symm

/-- A field that has changed or is marked reads as its new value, every other as before. -/
theorem readBytes_writeChanged {ram : List Host.Cell} (h : Memory.wf ram = true) (changed : Nat)
    {old new : List (Nat × List Byte)} (hlen : old.length = new.length) (hnew : fieldsApart new) {i a : Nat}
    {x y : List Byte} (ho : old[i]? = some (a, x)) (hn : new[i]? = some (a, y)) :
    readBytes (writeChanged changed old new ram) a y.length =
      if x ≠ y ∨ changed.testBit a = true then y else readBytes ram a y.length := by
  rw [writeChanged_eq changed hlen]
  split
  · rename_i hc
    refine readBytes_writeFields h (hnew.sublist (rewritten_sublist ..)) (mem_rewritten.2 ⟨i, _, ho, hn, ?_⟩)
    exact hc.imp_left fun hne he => hne (Prod.mk.inj he).2
  · rename_i hc
    refine readBytes_writeFields_off h fun f hf => ?_
    obtain ⟨j, e, hoj, hnj, hcj⟩ := mem_rewritten.1 hf
    refine fieldsApart_getElem? hnew hn hnj fun hij => hc ?_
    subst hij
    rw [ho] at hoj
    rw [hn] at hnj
    injection hoj with hoj
    injection hnj with hnj
    subst hoj hnj
    exact hcj.imp_left fun hne he => hne (by rw [he])

/-- A byte of none of the fields reads as before. -/
theorem readByte_writeChanged_off {ram : List Host.Cell} (h : Memory.wf ram = true) (changed : Nat)
    {old new : List (Nat × List Byte)} (hlen : old.length = new.length) {x : Nat} (hx : offFields new x) :
    readByte (writeChanged changed old new ram) x = readByte ram x := by
  rw [writeChanged_eq changed hlen]
  exact readByte_writeFields_off h fun e he => hx e ((rewritten_sublist ..).subset he)

/-! ### Where the page's fields and the mirrors' entries lie (01 Formats) -/

/-- Addresses and lengths of fields. -/
def spans (l : List (Nat × List Byte)) : List (Nat × Nat) := l.map fun e => (e.1, e.2.length)

/-- The spans of the view of a part with these numbers of units. -/
def viewSpans (lanes notices slots engines pool mics : Nat) : List (Nat × Nat) :=
  [(0x000, 2), (0x002, 1), (0x004, 2), (0x006, 1), (0x007, 1)]
  ++ (List.range lanes).map (fun i => (0x008 + i, 1))
  ++ [(0x00E, 1), (0x00F, 1), (0x010, 1), (0x012, 2), (0x014, 4)]
  ++ (List.range notices).flatMap (fun i => [(0x100 + 16 * i, 1), (0x101 + 16 * i, 1), (0x104 + 16 * i, 4), (0x108 + 16 * i, 4)])
  ++ (List.range slots).map (fun k => (0x02000 + 8 * k, 8))
  ++ (List.range engines).map (fun e => (0x02040 + 2 * e, 2))
  ++ [(0x02080, 32)]
  ++ (List.range pool).map (fun n => (0x020A0 + 16 * n, 16))
  ++ (List.range mics).map (fun m => (0x021A0 + 8 * m, 8))
  ++ [(0x02320, 6)]

@[simp] theorem byte_length (n : Nat) : (byte n).length = 1 := rfl

theorem transitionBytes_length (t : Option Transition) : (transitionBytes t).length = 32 := by
  cases t <;> simp [transitionBytes, List.range_succ]

theorem spans_mapIdx {α : Type} (f : Nat → α → Nat × List Byte) (g : Nat → Nat × Nat)
    (h : ∀ i x, ((f i x).1, (f i x).2.length) = g i) (l : List α) : spans (l.mapIdx f) = (List.range l.length).map g := by
  exact List.ext_getElem (by simp [spans]) fun i _ _ => by simpa [spans] using h ..

theorem spans_view (s : State) : spans s.view = viewSpans s.lanes.length s.att.notices.length s.slots.length
    s.engines.length s.guard.pool.length s.mics.length := by
  have append (l m : List (Nat × List Byte)) : spans (l ++ m) = spans l ++ spans m := List.map_append
  have notices : spans (s.att.notices.mapIdx noticeFields).flatten = (List.range s.att.notices.length).flatMap
      (fun i => [(0x100 + 16 * i, 1), (0x101 + 16 * i, 1), (0x104 + 16 * i, 4), (0x108 + 16 * i, 4)]) := by
    rw [spans, List.map_flatten, List.flatMap_def]
    exact congrArg List.flatten (List.ext_getElem (by simp) fun i _ _ => by simp [noticeFields])
  have trans : spans [(0x02080, transitionBytes s.trans)] = [(0x02080, 32)] := by simp [spans, transitionBytes_length]
  simp only [State.view, append, notices, trans]
  rw [spans_mapIdx _ (fun i => (0x008 + i, 1)) fun _ _ => rfl, spans_mapIdx _ (fun k => (0x02000 + 8 * k, 8)) fun _ _ => rfl,
    spans_mapIdx _ (fun e => (0x02040 + 2 * e, 2)) fun _ _ => rfl, spans_mapIdx _ (fun n => (0x020A0 + 16 * n, 16)) fun _ _ => rfl,
    spans_mapIdx _ (fun m => (0x021A0 + 8 * m, 8)) fun _ _ => rfl]
  rfl

/-- A part with the manual's numbers of units. -/
structure State.Units (s : State) : Prop where
  lanes : s.lanes.length = 6
  notices : s.att.notices.length = 14
  slots : s.slots.length = 8
  engines : s.engines.length = 32
  pool : s.guard.pool.length = 16
  mics : s.mics.length = 48

theorem spans_view_units {s : State} (h : s.Units) : spans s.view = viewSpans 6 14 8 32 16 48 := by
  rw [spans_view, h.lanes, h.notices, h.slots, h.engines, h.pool, h.mics]

/-- Spans that share no byte, in a form that is decided. -/
theorem fieldsApart_iff (l : List (Nat × List Byte)) :
    fieldsApart l ↔ (spans l).Pairwise fun e f => e.1 + e.2 ≤ f.1 ∨ f.1 + f.2 ≤ e.1 := by
  rw [spans, List.pairwise_map]; rfl

/-- The level and kind bytes, the page's fields and the mirrors' entries share no byte. -/
theorem fixed_view_apart {s : State} (h : s.Units) : fieldsApart (fixedNoticeBytes ++ s.view) := by
  have happ : spans (fixedNoticeBytes ++ s.view) = spans fixedNoticeBytes ++ viewSpans 6 14 8 32 16 48 := by
    rw [← spans_view_units h]; exact List.map_append
  rw [fieldsApart_iff, happ]
  decide +kernel

theorem view_apart {s : State} (h : s.Units) : fieldsApart s.view := (List.pairwise_append.1 (fixed_view_apart h)).2.1

/-- The fields and entries lie in the engine page and in the mirrors. -/
theorem view_within {s : State} (h : s.Units) {e : Nat × List Byte} (he : e ∈ s.view) :
    e.1 + e.2.length ≤ 0x1000 ∨ (0x2000 ≤ e.1 ∧ e.1 + e.2.length ≤ 0x4000) := by
  have hm : (e.1, e.2.length) ∈ viewSpans 6 14 8 32 16 48 := by
    rw [← spans_view_units h]; exact List.mem_map_of_mem he
  have hall : ∀ x ∈ viewSpans 6 14 8 32 16 48, x.1 + x.2 ≤ 0x1000 ∨ (0x2000 ≤ x.1 ∧ x.1 + x.2 ≤ 0x4000) := by decide +kernel
  exact hall _ hm

end Sys2Proof.Machine
end

section
/-! PROOFS. The engine reset (01 R3, R5, R18). -/

namespace Sys2Proof.Machine

/-! ### The cues held are aborted (01 R18) -/

/-- The ABORTED answers of the cues held. -/
def State.aborts (s : State) (k : Nat) : Option (Nat × Answer × Nat) :=
  (s.cues.held.getD k none).map fun bs => (u8 bs 1, .aborted, 0)

theorem raise_ram (s : State) (x : Source) (d : Nat) : (s.raise x d).ram = s.ram := rfl

theorem abortHeld_ram (s : State) (k : Nat) : (abortHeld s k).ram = answerOne s.ram k (s.aborts k) := by
  unfold abortHeld State.aborts
  split <;> rename_i h <;> rw [h] <;> rfl

theorem abortHeld_held (s : State) {k j : Nat} (h : j ≠ k) :
    (abortHeld s k).cues.held.getD j none = s.cues.held.getD j none := by
  unfold abortHeld
  split
  · show (s.cues.held.set k none).getD j none = _
    rw [List.getD_eq_getElem?_getD, List.getElem?_set_ne h.symm, List.getD_eq_getElem?_getD]
  · rfl

/-- The first `n` slots are aborted; the others hold what they held. -/
theorem abortHeld_range (s : State) (n : Nat) :
    ((List.range n).foldl abortHeld s).ram = answerEach s.aborts s.ram n
      ∧ ∀ k, n ≤ k → ((List.range n).foldl abortHeld s).cues.held.getD k none = s.cues.held.getD k none := by
  induction n with
  | zero => exact ⟨rfl, fun _ _ => rfl⟩
  | succ n ih =>
    obtain ⟨hram, hheld⟩ := ih
    rw [List.range_succ, List.foldl_append, List.foldl_cons, List.foldl_nil, answerEach_succ, abortHeld_ram, hram]
    refine ⟨?_, fun k hk => (abortHeld_held _ (by omega)).trans (hheld k (by omega))⟩
    rw [State.aborts, hheld n (le_refl n), State.aborts]

theorem abortAll_ram (s : State) : s.abortAll.ram = answerEach s.aborts s.ram 32 := by
  have h : ((List.range Config.cueSlots).foldl abortHeld s).ram = answerEach s.aborts s.ram Config.cueSlots :=
    (abortHeld_range s _).1
  unfold State.abortAll
  dsimp only
  split
  · rw [raise_ram, h, Config.cueSlots]
  · rw [h, Config.cueSlots]

/-- The fields of the part that an engine reset leaves. -/
def State.spared (s : State) : BitVec 4 × List InputLane × Clock × Nat := (s.att.mask, s.lanes, s.clock, s.framePos)

theorem raise_spared {x : Source} (s : State) (d : Nat) : (s.raise x d).spared = s.spared := by
  show ((s.att.change _ _).mask, s.lanes, s.clock, s.framePos) = _
  rw [change_mask]; rfl

theorem abortHeld_spared (s : State) (k : Nat) : (abortHeld s k).spared = s.spared := by
  unfold abortHeld
  split
  · exact raise_spared ..
  · rfl

theorem abortAll_spared (s : State) : s.abortAll.spared = s.spared := by
  have h : ((List.range Config.cueSlots).foldl abortHeld s).spared = s.spared :=
    foldl_keeps (P := fun t => t.spared = s.spared) (fun t k h => (abortHeld_spared t k).trans h) _ s rfl
  unfold State.abortAll
  dsimp only
  split
  · exact (raise_spared ..).trans h
  · exact h

/-! ### The commands -/

theorem exec_engineReset {s : State} (h : s.resetHeld = false) (rest : BitVec 31) :
    exec (.engineReset rest) s = .next s.engineReset := released_of h _

theorem writeRunctl_reset (s : State) {v : Word32} (h : v.getLsbD 31 = true) : s.writeRunctl v = s.engineReset := if_pos h

theorem runctl_reset : Runctl.word ⟨0, false⟩ = 0 := by decide

/-- Settles O12. -/
theorem engineResetState : Obligations.EngineResetState := by
  intro s rest hr
  have h := abortAll_spared s
  simp only [State.spared, Prod.mk.injEq] at h
  obtain ⟨hmask, hlanes, hclock, hpos⟩ := h
  refine ⟨s.engineReset, exec_engineReset hr rest, fun v hv => ?_, runctl_reset, rfl, rfl, reset_held, rfl, rfl, rfl, rfl,
    rfl, rfl, rfl, rfl, rfl, rfl, rfl, ?_, rfl, hmask, hlanes, rfl, hpos, rfl, rfl⟩
  · rw [(exec_writeRunctl hr v).1, writeRunctl_reset s hv]
  · show { Clock.reset with present := s.abortAll.clock.present, good := s.abortAll.clock.good } = _
    rw [hclock]
    rfl

/-! ### Common memory after the reset -/

/-- Memory as `rewrite` leaves it: the page and the mirrors cleared, then every field written. -/
theorem rewrite_ram (s : State) : s.rewrite.ram = writeFields (fixedNoticeBytes ++ s.view)
    (sparseClear 0x02000 0x04000 (sparseClear 0x00000 0x01000 s.ram)) := by
  rw [writeFields_append, State.rewrite, State.setShown_ram, State.setRam_ram]

/-- A byte of the page or the mirrors that no field covers reads 0; outside them every byte is left. -/
theorem readByte_cleared {ram : List Host.Cell} (h : Memory.wf ram = true) (b : Nat) :
    readByte (sparseClear 0x02000 0x04000 (sparseClear 0x00000 0x01000 ram)) b =
      if b < 0x1000 ∨ (0x2000 ≤ b ∧ b < 0x4000) then 0 else readByte ram b := by
  rw [readByte, sparseRead_sparseClear (sparseClear_memory_wf h ..), sparseRead_sparseClear h]
  split_ifs <;> first | rfl | omega

theorem fixed_within {e : Nat × List Byte} (he : e ∈ fixedNoticeBytes) : e.1 + e.2.length ≤ 0x1000 := by
  revert e
  decide +kernel

/-- The level and kind bytes, as the table of sources gives them. -/
theorem mem_fixed : ∀ i < 14, (0x102 + 16 * i, [[3, 3, 2, 2, 1, 1, 1, 1, 0, 0, 0, 2, 3, 1].getD i (0 : Byte),
    if i = 7 ∨ i = 8 ∨ i = 10 ∨ i = 13 then 1 else 0]) ∈ fixedNoticeBytes := by decide +kernel

theorem fixed_span {e : Nat × List Byte} (he : e ∈ fixedNoticeBytes) : ∃ i < 14, e.1 = 0x102 + 16 * i ∧ e.2.length = 2 := by
  revert e
  decide +kernel

/-- A byte of the page or the mirrors in no field. -/
theorem readByte_rewrite_off {s : State} (hm : Memory.wf s.ram = true) {b : Nat} (h : b < 0x1000 ∨ (0x2000 ≤ b ∧ b < 0x4000))
    (ho : offFields (fixedNoticeBytes ++ s.view) b) : readByte s.rewrite.ram b = 0 := by
  rw [rewrite_ram, readByte_writeFields_off (sparseClear_memory_wf (sparseClear_memory_wf hm ..) ..) ho, readByte_cleared hm,
    if_pos h]

section
variable {s : State} (hm : Memory.wf s.ram = true) (hu : s.Units)
include hm hu

/-- Every field and every level and kind byte reads as written. -/
theorem readBytes_rewrite {a : Nat} {bs : List Byte} (h : (a, bs) ∈ fixedNoticeBytes ++ s.view) :
    readBytes s.rewrite.ram a bs.length = bs := by
  rw [rewrite_ram]
  exact readBytes_writeFields (sparseClear_memory_wf (sparseClear_memory_wf hm ..) ..) (fixed_view_apart hu) h

/-- Every byte outside the page and the mirrors is left. -/
theorem readByte_rewrite_outside {b : Nat} (h : ¬ (b < 0x1000 ∨ (0x2000 ≤ b ∧ b < 0x4000))) :
    readByte s.rewrite.ram b = readByte s.ram b := by
  rw [rewrite_ram, readByte_writeFields_off (sparseClear_memory_wf (sparseClear_memory_wf hm ..) ..), readByte_cleared hm,
    if_neg h]
  intro e he
  rcases List.mem_append.1 he with he | he
  · have := fixed_within he; omega
  · have := view_within hu he; omega

end

theorem cleared_units {s : State} (h : s.lanes.length = 6) : s.abortAll.cleared.Units := by
  have hl := abortAll_spared s
  simp only [State.spared, Prod.mk.injEq] at hl
  obtain ⟨-, hl, -, -⟩ := hl
  exact ⟨(congrArg List.length hl).trans h, rfl, rfl, rfl, rfl, rfl⟩

/-- Common memory outside the page and the mirrors: the ABORTED answers and nothing else. -/
theorem engineReset_outside {s : State} (hm : Memory.wf s.ram = true) (hl : s.lanes.length = 6) {b : Nat}
    (h : ¬ (b < 0x1000 ∨ (0x2000 ≤ b ∧ b < 0x4000))) :
    readByte s.engineReset.ram b = readByte (answerEach s.aborts s.ram 32) b := by
  have hw : Memory.wf s.abortAll.cleared.ram = true := by
    show Memory.wf s.abortAll.ram = true
    rw [abortAll_ram]
    exact answerEach_wf hm _ _
  rw [State.engineReset, readByte_rewrite_outside hw (cleared_units hl) h, ← abortAll_ram]
  rfl

/-- Settles O13. -/
theorem engineResetMemory : Obligations.EngineResetMemory := by
  intro s rest hr hm hl
  have hu := cleared_units hl
  have hw : Memory.wf s.abortAll.cleared.ram = true := by
    show Memory.wf s.abortAll.ram = true
    rw [abortAll_ram]
    exact answerEach_wf hm _ _
  have hslot {k i : Nat} (hk : k < 32) (hi : i < 128) : readByte s.engineReset.ram (Config.cueSlotBase k + i) =
      readByte (answerOne s.ram k (s.aborts k)) (Config.cueSlotBase k + i) := by
    rw [engineReset_outside hm hl (by simp only [Config.cueSlotBase]; omega), answerEach_slot hm _ hk hi]
  refine ⟨s.engineReset, exec_engineReset hr rest, fun a ha => ?above, fun k hk hn => ?free, fun k hk bs hb => ?held,
    fun a bs h => readBytes_rewrite hw hu (List.mem_append_right _ h), fun i hi =>
      readBytes_rewrite hw hu (List.mem_append_left _ (mem_fixed i hi)), fun b hb hv hf => readByte_rewrite_off hw hb ?off⟩
  case above =>
    rw [engineReset_outside hm hl (by omega)]
    exact answerEach_outside hm _ fun k hk => by simp only [Config.cueSlotBase]; omega
  case free =>
    have ha : s.aborts k = none := by rw [State.aborts, hn]; rfl
    exact readBytes_congr fun i hi => by rw [hslot hk hi, ha]; rfl
  case held =>
    have ha : s.aborts k = some (u8 bs 1, .aborted, 0) := by rw [State.aborts, hb]; rfl
    have hone {i : Nat} (hi : i < 128) : readByte s.engineReset.ram (Config.cueSlotBase k + i) =
        readByte (answerWrite s.ram k (u8 bs 1) .aborted 0) (Config.cueSlotBase k + i) := by rw [hslot hk hi, ha]; rfl
    refine ⟨(hone (i := 0) (by decide)).trans (answerWrite_state hm ..), ?_, fun i hi h0 hi' =>
      (hone hi).trans (answerWrite_outside hm _ _ _ _ (by omega) (by omega))⟩
    calc readBytes s.engineReset.ram (Config.cueSlotBase k + 6) 6
        = readBytes (answerWrite s.ram k (u8 bs 1) .aborted 0) (Config.cueSlotBase k + 6) 6 :=
          readBytes_congr fun i hi => by rw [Nat.add_assoc]; exact hone (by omega)
      _ = readBytes (answerWrite s.ram k (u8 bs 1) .aborted 0) (Config.cueSlotBase k + 6) 2
            ++ readBytes (answerWrite s.ram k (u8 bs 1) .aborted 0) (Config.cueSlotBase k + 8) 4 := rfl
      _ = _ := by rw [answerWrite_word hm, answerWrite_detail hm]; rfl
  case off =>
    intro e he
    rcases List.mem_append.1 he with he | he
    · obtain ⟨i, hi, ha, hn⟩ := fixed_span he
      have := hf i hi
      omega
    · exact hv e.1 e.2 he

end Sys2Proof.Machine
end

section
/-! PROOFS. The meters, the publication and what the page and the mirrors show (01 R5, Formats, 06 R121, 09 R176 to R180). -/

namespace Sys2Proof.Machine

/-! ### Runs of bytes within a field -/

/-- Part of a run of bytes. -/
theorem readBytes_part (ram : List Host.Cell) (a : Nat) {j k n : Nat} (h : j + k ≤ n) :
    readBytes ram (a + j) k = ((readBytes ram a n).drop j).take k := by
  refine List.ext_getElem (by simp; omega) fun i h1 h2 => ?_
  simp [readBytes, Nat.add_assoc]

/-- Entry `m` of a run of entries of 4 bytes. -/
theorem flatten_entry {l : List (List Byte)} (h : ∀ e ∈ l, e.length = 4) {m : Nat} (hm : m < l.length) :
    (l.flatten.drop (4 * m)).take 4 = l[m] := by
  induction l generalizing m with
  | nil => cases hm
  | cons e l ih =>
    obtain ⟨he, hl⟩ := List.forall_mem_cons.1 h
    rw [List.flatten_cons]
    cases m with
    | zero =>
      rw [Nat.mul_zero, List.drop_zero, List.take_append_of_le_length he.ge, List.take_of_length_le he.le,
        List.getElem_cons_zero]
    | succ m =>
      have hd : (e ++ l.flatten).drop (4 * (m + 1)) = l.flatten.drop (4 * m) := by
        rw [List.drop_append, List.drop_eq_nil_of_le (by omega), List.nil_append, he]
        rfl
      rw [hd, ih hl (by simpa using hm), List.getElem_cons_succ]

theorem length_flatten_entries {l : List (List Byte)} (h : ∀ e ∈ l, e.length = 4) : l.flatten.length = 4 * l.length := by
  induction l with
  | nil => rfl
  | cons e l ih =>
    obtain ⟨he, hl⟩ := List.forall_mem_cons.1 h
    rw [List.flatten_cons, List.length_append, he, ih hl, List.length_cons]
    omega

/-! ### The meter write (09 R177 to R179) -/

theorem micMeter_length (p q n : Nat) : (micMeter p q n).length = 4 := rfl
theorem speakerMeter_length (p c : Nat) : (speakerMeter p c).length = 4 := rfl
theorem settingBytes_length (s : State) : s.settingBytes.length = 6 := rfl

/-- The entries of the microphones' meters. -/
def State.micMeters (s : State) : List (List Byte) :=
  List.zipWith (fun p q => micMeter p q s.meters.periods) s.meters.micPeaks s.meters.micSquares

/-- The entries of the speakers' meters. -/
def State.speakerMeters (s : State) : List (List Byte) := List.zipWith speakerMeter s.meters.speakerPeaks s.net.clips

theorem micMeters_entry (s : State) : ∀ e ∈ s.micMeters, e.length = 4 := by
  intro e he
  obtain ⟨i, hi, rfl⟩ := List.getElem_of_mem he
  simp [State.micMeters, micMeter_length]

theorem speakerMeters_entry (s : State) : ∀ e ∈ s.speakerMeters, e.length = 4 := by
  intro e he
  obtain ⟨i, hi, rfl⟩ := List.getElem_of_mem he
  simp [State.speakerMeters, speakerMeter_length]

theorem meterBytes_eq (s : State) : s.meterBytes = [(0x04000, s.micMeters.flatten), (0x040C0, s.speakerMeters.flatten),
    (0x042C0, s.settingBytes), (0x042C8, leBytes 4 s.frame.toNat)] := rfl

/-- Collections of a part with its microphones and speakers. -/
structure State.MeterUnits (s : State) : Prop where
  micPeaks : s.meters.micPeaks.length = 48
  micSquares : s.meters.micSquares.length = 48
  speakerPeaks : s.meters.speakerPeaks.length = 128
  clips : s.net.clips.length = 128

section
variable {s : State} (hu : s.MeterUnits)
include hu

theorem micMeters_length : s.micMeters.length = 48 := by simp [State.micMeters, hu.micPeaks, hu.micSquares]
theorem speakerMeters_length : s.speakerMeters.length = 128 := by simp [State.speakerMeters, hu.speakerPeaks, hu.clips]

theorem spans_meterBytes : spans s.meterBytes = [(0x4000, 192), (0x40C0, 512), (0x42C0, 6), (0x42C8, 4)] := by
  rw [meterBytes_eq, spans, List.map_cons, List.map_cons, length_flatten_entries (micMeters_entry s), micMeters_length hu,
    length_flatten_entries (speakerMeters_entry s), speakerMeters_length hu]
  rfl

theorem meterBytes_apart : fieldsApart s.meterBytes := by
  rw [fieldsApart_iff, spans_meterBytes hu]
  decide

theorem meterBytes_off {a : Nat} (h : a < 0x4000 ∨ 0x42CC ≤ a ∨ a = 0x42C6 ∨ a = 0x42C7) : offFields s.meterBytes a := by
  have hall : ∀ x ∈ spans s.meterBytes, a < x.1 ∨ x.1 + x.2 ≤ a := by
    rw [spans_meterBytes hu]
    simp only [List.forall_mem_cons, List.not_mem_nil, false_imp_iff, implies_true, and_true]
    omega
  exact fun e he => hall _ (List.mem_map_of_mem he)

theorem micMeters_getElem {m : Nat} (hm : m < 48) : s.micMeters[m]'(by rw [micMeters_length hu]; exact hm) =
    leBytes 2 (twos16 (peakLevel (s.meters.micPeaks.getD m 0)))
      ++ leBytes 2 (twos16 (rmsLevel (s.meters.micSquares.getD m 0) s.meters.periods)) := by
  rw [List.getD_eq_getElem _ _ (by rw [hu.micPeaks]; exact hm), List.getD_eq_getElem _ _ (by rw [hu.micSquares]; exact hm)]
  simp only [State.micMeters, List.getElem_zipWith]
  rfl

theorem speakerMeters_getElem {x : Nat} (hx : x < 128) : s.speakerMeters[x]'(by rw [speakerMeters_length hu]; exact hx) =
    leBytes 2 (twos16 (peakLevel (s.meters.speakerPeaks.getD x 0))) ++ leBytes 2 (s.net.clips.getD x 0) := by
  rw [List.getD_eq_getElem _ _ (by rw [hu.speakerPeaks]; exact hx), List.getD_eq_getElem _ _ (by rw [hu.clips]; exact hx)]
  simp only [State.speakerMeters, List.getElem_zipWith]
  rfl

end

/-- An entry of a run of entries of 4 bytes that stands in memory. -/
theorem readBytes_entry {ram : List Host.Cell} {a : Nat} {l : List (List Byte)} (hl : ∀ e ∈ l, e.length = 4)
    (h : readBytes ram a l.flatten.length = l.flatten) {m : Nat} (hm : m < l.length) : readBytes ram (a + 4 * m) 4 = l[m] := by
  rw [readBytes_part ram a (n := l.flatten.length) (by rw [length_flatten_entries hl]; omega), h, flatten_entry hl hm]

/-! ### The view -/

/-- An entry of the view, by the block that it shows. -/
theorem mem_view {s : State} {e : Nat × List Byte} : e ∈ s.view ↔
    e ∈ [(0x000, leBytes 2 s.cues.expected.toNat), (0x002, byte s.mode.mode.code), (0x004, leBytes 2 s.muteFactor),
      (0x006, byte (bit s.clock.external)), (0x007, byte s.clock.state.code)]
    ∨ e ∈ s.lanes.mapIdx (fun i l => (0x008 + i, byte (bit l.locked)))
    ∨ e ∈ [(0x00E, byte (bit s.lock.locked)), (0x00F, byte (bit s.lock.key.isSome)), (0x010, byte s.lock.failures),
      (0x012, leBytes 2 s.lock.lockout), (0x014, leBytes 4 s.frame.toNat)]
    ∨ e ∈ (s.att.notices.mapIdx noticeFields).flatten
    ∨ e ∈ s.slots.mapIdx (fun k x => (0x02000 + 8 * k, x.entryBytes))
    ∨ e ∈ s.engines.mapIdx (fun e x => (0x02040 + 2 * e, x.entryBytes))
    ∨ e ∈ [(0x02080, transitionBytes s.trans)]
    ∨ e ∈ s.guard.pool.mapIdx (fun n x => (0x020A0 + 16 * n, x.entryBytes))
    ∨ e ∈ s.mics.mapIdx (fun m x => (0x021A0 + 8 * m, x.entryBytes))
    ∨ e ∈ [(0x02320, s.settingBytes)] := by
  simp only [State.view, List.mem_append, or_assoc]

theorem mem_mapIdx_of_getElem? {α β : Type} {f : Nat → α → β} {l : List α} {i : Nat} {x : α} (h : l[i]? = some x) :
    f i x ∈ l.mapIdx f := by
  obtain ⟨hi, rfl⟩ := List.getElem?_eq_some_iff.1 h
  exact List.mem_mapIdx.2 ⟨i, hi, rfl⟩

/-! ### Values of the words and levels (06 R121, 09 R178) -/

set_option maxRecDepth 100000 in
theorem notchWords_values : let q := 2 ^ 30
    [notchWords 2 300, notchWords 53 150, notchWords 53 600, notchWords 256 1500, notchWords 426 0, notchWords 426 1800] =
        [⟨1073583358, -2146236846, 1072815108, -2146236846, 1072656642⟩, ⟨1071674289, -2010219565, 1049737838, -2010219565, 1047670303⟩,
          ⟨1065346882, -2003029123, 1048477074, -2003029123, 1040082133⟩, ⟨972761507, 0, 929079356, 0, 828099038⟩,
          ⟨q, 1700486472, 894475649, 1700486472, 894475649⟩, ⟨882025774, 1476381081, 826802311, 1476381081, 635086261⟩] := by
  decide +kernel

theorem peakLevel_values :
    [0, 1, 2, 1000, 83886, 838861, 4194304, 5931642, 8388607, 8388608, 16777216, 2147483648].map peakLevel =
      [-14400, -13847, -13245, -7847, -4000, -2000, -602, -301, 0, 0, 602, 4816] := by decide +kernel

theorem rmsLevel_values :
    [(0, 2048), (1, 1), (1, 2048), (2048 * 838861 ^ 2, 2048), (2048 * 4194304 ^ 2, 2048), (1024 * 8388608 ^ 2, 2048),
        (2048 * 8388608 ^ 2, 2048)].map (fun x => rmsLevel x.1 x.2) = [-14400, -13847, -14400, -2000, -602, -301, 0] := by
  decide +kernel

/-! ### The publication (01 R5, 06 R120, R121) -/

/-- The words of a filter show in no entry. -/
theorem formWords_entryBytes (n : Notch) : n.formWords.entryBytes = n.entryBytes := by
  unfold Notch.formWords; split <;> simp only [Notch.entryBytes]

theorem formWords_mirrored (n : Notch) : n.formWords.mirrored = n.mirrored := by
  unfold Notch.formWords; split <;> simp only [Notch.mirrored]

/-- The state with the filters' words formed and the analysis buffers cut, as the publication writes it. -/
def State.formed (s : State) : State :=
  (s.setGuard { s.guard with pool := s.guard.pool.map Notch.formWords }).setMics
    (s.mics.map fun m => { m with buffer := m.buffer.take Config.analysisLength })

theorem publish_eq (s : State) : s.publish =
    ((s.formed.setRam (writeChanged s.formed.changed s.formed.shown s.formed.view s.formed.ram)).setShown
      s.formed.view).setChanged 0 := rfl

theorem formed_view (s : State) : s.formed.view = s.view := by
  have pool : (s.guard.pool.map Notch.formWords).mapIdx (fun n x => (0x020A0 + 16 * n, x.entryBytes)) =
      s.guard.pool.mapIdx fun n x => (0x020A0 + 16 * n, x.entryBytes) :=
    List.ext_getElem (by simp) fun i _ _ => by simp [formWords_entryBytes]
  have mics : (s.mics.map fun m => { m with buffer := m.buffer.take Config.analysisLength }).mapIdx
      (fun m x => (0x021A0 + 8 * m, x.entryBytes)) = s.mics.mapIdx fun m x => (0x021A0 + 8 * m, x.entryBytes) :=
    List.ext_getElem (by simp) fun i _ _ => by simp [Mic.entryBytes]
  simp only [State.view, State.formed, State.setMics_guard, State.setGuard_guard, State.setMics_mics, pool,
    mics]
  rfl

/-- Neither shows in a mirror entry: nothing is marked. -/
theorem formed_changed (s : State) : s.formed.changed = s.changed := by
  have pool : (s.guard.pool.map Notch.formWords).map Notch.mirrored = s.guard.pool.map Notch.mirrored := by
    rw [List.map_map]
    exact List.map_congr_left fun n _ => formWords_mirrored n
  have mics : (s.mics.map fun m => { m with buffer := m.buffer.take Config.analysisLength }).map Mic.mirrored =
      s.mics.map Mic.mirrored := by
    rw [List.map_map]
    rfl
  simp only [State.formed, State.setMics_changed, State.setGuard_changed, State.setGuard_mics, Guard.changes, pool, mics,
    changedFrom_self, Nat.or_zero]

theorem publish_ram (s : State) : s.publish.ram = writeChanged s.changed s.shown s.view s.ram := by
  rw [publish_eq, formed_changed, formed_view]
  rfl

theorem publish_view (s : State) : s.publish.view = s.view := (formed_view s).symm ▸ rfl

/-- The publication, the one work left due, comes before the next sample period (log 1). -/
theorem beforeSample_publish {s : State} (hf : s.framePos < 64) (h : s.todo = [.publish]) :
    s.beforeSample = (s.setTodo []).publish := by
  have ho : s.frameOver = false := decide_eq_false (Nat.not_le.2 hf)
  have hw : s.doWork .publish = (s.setTodo []).publish := by
    rw [doWork_of_mem (by simp [h]) (.inr h), State.worksBefore, h]
    show s.doOne .publish = _
    rw [doOne_of_mem (by simp [h]), State.doing, h]
    rfl
  have ht : (s.doWork .publish).todo = [] := by rw [hw]; rfl
  rw [State.beforeSample, ho, if_neg (by decide), State.settle, runAll_cons 1023 h, runAll_nil _ ht, hw]

/-! ### What an update marks (log 10) -/

theorem testBit_or_iff {x y a : Nat} {p : Prop} (h : y.testBit a = true ↔ p) :
    (x ||| y).testBit a = true ↔ x.testBit a = true ∨ p := by
  rw [Nat.testBit_or, Bool.or_eq_true, h]

/-- A mark of one of two blocks of entries. -/
theorem testBit_marks_or {x y a : Nat} {p q : Prop} (hx : x.testBit a = true ↔ p) (hy : y.testBit a = true ↔ q) :
    (x ||| y).testBit a = true ↔ p ∨ q := by
  rw [testBit_or_iff hy, hx]

/-- The marks of units shown through a function that differs as `q` says. -/
theorem unit_marks {α β : Type} [DecidableEq β] {f : α → β} {q : α → α → Prop} (h : ∀ x y, f x ≠ f y ↔ q x y)
    (stride a base : Nat) (old new : List α) : (changedFrom stride base (old.map f) (new.map f)).testBit a = true ↔
      ∃ (k : Nat) (x y : α), a = base + stride * k ∧ old[k]? = some x ∧ new[k]? = some y ∧ q x y := by
  simp only [testBit_changedFrom_map, h]

/-- The marks of two fields in a row. -/
theorem pair_marks {α : Type} [DecidableEq α] (stride a base : Nat) (x₁ x₂ y₁ y₂ : α) :
    (changedFrom stride base [x₁, x₂] [y₁, y₂]).testBit a = true ↔ (a = base ∧ x₁ ≠ y₁) ∨ (a = base + stride ∧ x₂ ≠ y₂) := by
  rw [testBit_changedFrom]
  constructor
  · rintro ⟨k, x, y, ha, hx, hy, hne⟩
    match k with
    | 0 => simp_all
    | 1 => simp_all
    | k + 2 => simp at hx
  · rintro (⟨ha, hne⟩ | ⟨ha, hne⟩)
    · exact ⟨0, x₁, y₁, by omega, rfl, rfl, hne⟩
    · exact ⟨1, x₂, y₂, by omega, rfl, rfl, hne⟩

section
variable (s : State) (a : Nat)

theorem setEngines_marks (v : List Engine) : (s.setEngines v).changed.testBit a = true ↔ s.changed.testBit a = true
    ∨ ∃ (e : Nat) (x y : Engine), a = 0x2040 + 2 * e ∧ s.engines[e]? = some x ∧ v[e]? = some y
      ∧ (x.state ≠ y.state ∨ x.owner ≠ y.owner) :=
  testBit_or_iff (unit_marks (fun x y => by simp only [Engine.mirrored, ne_eq, Prod.mk.injEq, not_and_or]) ..)

theorem setSlots_marks (v : List Slot) : (s.setSlots v).changed.testBit a = true ↔ s.changed.testBit a = true
    ∨ ∃ (k : Nat) (x y : Slot), a = 0x2000 + 8 * k ∧ s.slots[k]? = some x ∧ v[k]? = some y
      ∧ (x.state ≠ y.state ∨ x.flags ≠ y.flags ∨ x.shownSizes ≠ y.shownSizes) :=
  testBit_or_iff (unit_marks (fun x y => by
    rw [Slot.mirrored, Slot.mirrored, ne_eq, Prod.mk.injEq, Prod.mk.injEq, not_and_or, not_and_or]) ..)

theorem setTrans_marks (v : Option Transition) : (s.setTrans v).changed.testBit a = true ↔ s.changed.testBit a = true
    ∨ (a = 0x2080 ∧ s.trans.map (fun t => { t with clamped := false }) ≠ v.map (fun t => { t with clamped := false })) :=
  testBit_or_iff (testBit_changedFrom_single ..)

theorem setGuard_marks (v : Guard) : (s.setGuard v).changed.testBit a = true ↔ s.changed.testBit a = true
    ∨ ((∃ (n : Nat) (x y : Notch), a = 0x20A0 + 16 * n ∧ s.guard.pool[n]? = some x ∧ v.pool[n]? = some y
        ∧ (x.kind ≠ y.kind ∨ x.mic ≠ y.mic ∨ x.bin ≠ y.bin ∨ x.depth ≠ y.depth ∨ x.hold ≠ y.hold ∨ x.stamp ≠ y.stamp))
      ∨ (a = 0x2320 ∧ s.guard.beta ≠ v.beta)) :=
  testBit_or_iff (testBit_marks_or (unit_marks (fun x y => by
    simp only [Notch.mirrored, ne_eq, Prod.mk.injEq, not_and_or]) ..) (testBit_changedFrom_single ..))

theorem setMics_marks (v : List Mic) : (s.setMics v).changed.testBit a = true ↔ s.changed.testBit a = true
    ∨ ∃ (m : Nat) (x y : Mic), a = 0x21A0 + 8 * m ∧ s.mics[m]? = some x ∧ v[m]? = some y
      ∧ (x.persistence ≠ y.persistence ∨ x.persistenceBin ≠ y.persistenceBin ∨ x.phi ≠ y.phi ∨ x.quiet ≠ y.quiet) :=
  testBit_or_iff (unit_marks (fun x y => by simp only [Mic.mirrored, ne_eq, Prod.mk.injEq, not_and_or]) ..)

theorem setCoef_marks (v : Coefficients) : (s.setCoef v).changed.testBit a = true ↔ s.changed.testBit a = true
    ∨ (a = 0x2320 ∧ (s.coef.tau ≠ v.tau ∨ s.coef.epsilon ≠ v.epsilon)) := by
  rw [← not_and_or, ← Prod.mk.injEq]
  exact testBit_or_iff (testBit_changedFrom_single ..)

theorem setLock_marks (v : ShowLock) : (s.setLock v).changed.testBit a = true ↔ s.changed.testBit a = true
    ∨ ((a = 0x00E ∧ s.lock.locked ≠ v.locked) ∨ (a = 0x00F ∧ s.lock.key.isSome ≠ v.key.isSome)
      ∨ (a = 0x010 ∧ s.lock.failures ≠ v.failures) ∨ (a = 0x012 ∧ s.lock.lockout ≠ v.lockout)) := by
  rw [← or_assoc (a := a = 0x00E ∧ _)]
  exact testBit_or_iff (testBit_marks_or (pair_marks ..) (pair_marks ..))

theorem setAtt_marks (v : Attention) : (s.setAtt v).changed.testBit a = true ↔ s.changed.testBit a = true
    ∨ ∃ (n : Nat) (x y : Notice), s.att.notices[n]? = some x ∧ v.notices[n]? = some y
      ∧ ((a = 0x100 + 16 * n ∧ x.pending ≠ y.pending) ∨ (a = 0x101 + 16 * n ∧ x.count ≠ y.count)
        ∨ (a = 0x104 + 16 * n ∧ x.detail ≠ y.detail) ∨ (a = 0x108 + 16 * n ∧ x.stamp ≠ y.stamp)) := by
  refine (testBit_or_iff (testBit_marks_or (testBit_marks_or (testBit_marks_or (testBit_changedFrom_map ..)
    (testBit_changedFrom_map ..)) (testBit_changedFrom_map ..)) (testBit_changedFrom_map ..))).trans (or_congr_right ?_)
  constructor
  · rintro (((⟨n, x, y, ha, hx, hy, h⟩ | ⟨n, x, y, ha, hx, hy, h⟩) | ⟨n, x, y, ha, hx, hy, h⟩) | ⟨n, x, y, ha, hx, hy, h⟩)
    · exact ⟨n, x, y, hx, hy, .inl ⟨ha, h⟩⟩
    · exact ⟨n, x, y, hx, hy, .inr (.inl ⟨ha, h⟩)⟩
    · exact ⟨n, x, y, hx, hy, .inr (.inr (.inl ⟨ha, h⟩))⟩
    · exact ⟨n, x, y, hx, hy, .inr (.inr (.inr ⟨ha, h⟩))⟩
  · rintro ⟨n, x, y, hx, hy, ⟨ha, h⟩ | ⟨ha, h⟩ | ⟨ha, h⟩ | ⟨ha, h⟩⟩
    · exact .inl (.inl (.inl ⟨n, x, y, ha, hx, hy, h⟩))
    · exact .inl (.inl (.inr ⟨n, x, y, ha, hx, hy, h⟩))
    · exact .inl (.inr ⟨n, x, y, ha, hx, hy, h⟩)
    · exact .inr ⟨n, x, y, ha, hx, hy, h⟩

end

end Sys2Proof.Machine
end

section
/-! PROOFS. What the meters, the publication and the view say together (01 R5, Formats, 09 R176 to R180). -/

namespace Sys2Proof.Machine

/-- What a slot's entry shows of its scene's sizes (02 R20). -/
theorem shownSizes_eq (x : Slot) : x.shownSizes = match x.state with
    | .vacant | .loading | .faulted => (0, 0)
    | .ready | .live | .outgoing => ((x.record.map (·.lines.length)).getD 0, ((x.record.bind (·.computed)).map fun c =>
        c.times.foldl (fun m v => max m (max v.lf (max v.mf v.hf))) 0).getD 0) := by
  have hc : x.lineCount = (x.record.map (·.lines.length)).getD 0 := by
    unfold Slot.lineCount; cases x.record <;> rfl
  have hl : x.longest = ((x.record.bind (·.computed)).map fun c =>
      c.times.foldl (fun m v => max m (max v.lf (max v.mf v.hf))) 0).getD 0 := by
    unfold Slot.longest; cases x.record.bind (·.computed) <;> rfl
  unfold Slot.shownSizes
  rw [hc, hl]
  cases x.state <;> rfl

/-- The status flags as a sum of their weights (01 Formats). -/
theorem flags_byte (f : StatusFlags) : f.byte = (if f.floor then 1 else 0) + (if f.ceil then 2 else 0)
    + (if f.tclamp then 4 else 0) + (if f.gclamp then 8 else 0) := by
  obtain ⟨a, b, c, d⟩ := f
  cases a <;> cases b <;> cases c <;> cases d <;> rfl

theorem metersStep_ram (s : State) : s.metersStep.ram = writeFields s.meterBytes s.ram := by
  rw [State.metersStep, State.setMeters_ram, State.setRam_ram]

/-- The meter write changes common memory and the meters' collections. -/
theorem metersStep_eq (s : State) : s.metersStep =
    (s.setRam s.metersStep.ram).setMeters ⟨List.replicate 48 0, List.replicate 48 0, List.replicate 128 0, 0⟩ := by
  rw [metersStep_ram]
  generalize hr : writeFields s.meterBytes s.ram = r
  rw [State.metersStep, hr]
  rfl

section
variable {s : State} (hm : Memory.wf s.ram = true) (hu : s.MeterUnits)
include hm hu

/-- Each part of the meter area reads as written. -/
theorem readBytes_metersStep {a : Nat} {bs : List Byte} (h : (a, bs) ∈ s.meterBytes) :
    readBytes s.metersStep.ram a bs.length = bs := by
  rw [metersStep_ram]
  exact readBytes_writeFields hm (meterBytes_apart hu) h

theorem metersStep_mic {m : Nat} (h : m < 48) : readBytes s.metersStep.ram (0x4000 + 4 * m) 4 =
    leBytes 2 (twos16 (peakLevel (s.meters.micPeaks.getD m 0)))
      ++ leBytes 2 (twos16 (rmsLevel (s.meters.micSquares.getD m 0) s.meters.periods)) := by
  rw [← micMeters_getElem hu h]
  exact readBytes_entry (micMeters_entry s) (readBytes_metersStep hm hu (by simp [meterBytes_eq])) _

theorem metersStep_speaker {x : Nat} (h : x < 128) : readBytes s.metersStep.ram (0x40C0 + 4 * x) 4 =
    leBytes 2 (twos16 (peakLevel (s.meters.speakerPeaks.getD x 0))) ++ leBytes 2 (s.net.clips.getD x 0) := by
  rw [← speakerMeters_getElem hu h]
  exact readBytes_entry (speakerMeters_entry s) (readBytes_metersStep hm hu (by simp [meterBytes_eq])) _

theorem metersStep_settings : readBytes s.metersStep.ram 0x42C0 6 = s.settingBytes := by
  have h := readBytes_metersStep hm hu (a := 0x42C0) (bs := s.settingBytes) (by simp [meterBytes_eq])
  rwa [settingBytes_length] at h

theorem metersStep_frame : readBytes s.metersStep.ram 0x42C8 4 = leBytes 4 s.frame.toNat := by
  have h := readBytes_metersStep hm hu (a := 0x42C8) (bs := leBytes 4 s.frame.toNat) (by simp [meterBytes_eq])
  rwa [leBytes_length] at h

theorem metersStep_off {a : Nat} (h : a < 0x4000 ∨ 0x42CC ≤ a ∨ a = 0x42C6 ∨ a = 0x42C7) :
    readByte s.metersStep.ram a = readByte s.ram a := by
  rw [metersStep_ram, readByte_writeFields_off hm (meterBytes_off hu h)]

end

theorem exec_meterWrite {s : State} (h : s.due .meters) : exec .meterWrite s = .next (s.doing .meters).metersStep := by
  show s.released (fun s => s.doWork .meters) = _
  rw [released_of h.1, doWork_of_due h (by decide) (by decide) (by decide)]
  rfl

/-! ### Entries, byte by byte (01 Formats) -/

theorem slot_entryBytes (x : Slot) : x.entryBytes =
    leBytes 1 (match x.state with
      | .vacant => 0 | .loading => 1 | .ready => 2 | .faulted => 3 | .live => 4 | .outgoing => 5)
    ++ leBytes 1 x.shownSizes.1 ++ leBytes 1 ((if x.flags.floor then 1 else 0) + (if x.flags.ceil then 2 else 0)
      + (if x.flags.tclamp then 4 else 0) + (if x.flags.gclamp then 8 else 0))
    ++ List.replicate 1 0 ++ leBytes 2 x.shownSizes.2 ++ List.replicate 2 0 := by
  have hs : x.state.code = match x.state with
      | .vacant => 0 | .loading => 1 | .ready => 2 | .faulted => 3 | .live => 4 | .outgoing => 5 := by
    cases x.state <;> rfl
  rw [← flags_byte, ← hs]
  rfl

theorem engine_entryBytes (x : Engine) : x.entryBytes =
    leBytes 1 (match x.state with | .free => 0 | .assigned => 1 | .draining => 2 | .scrubbing => 3)
      ++ leBytes 1 (x.owner.getD 255) := by
  have hs : x.state.code = match x.state with | .free => 0 | .assigned => 1 | .draining => 2 | .scrubbing => 3 := by
    cases x.state <;> rfl
  rw [← hs]
  rfl

theorem notch_entryBytes (x : Notch) : x.entryBytes =
    leBytes 1 (match x.kind with | .free => 0 | .floating => 1 | .fixed => 2) ++ leBytes 1 x.mic ++ leBytes 2 x.bin
      ++ leBytes 2 x.depth ++ leBytes 2 x.hold ++ leBytes 4 x.stamp.toNat ++ List.replicate 4 0 := by
  have hk : x.kind.code = match x.kind with | .free => 0 | .floating => 1 | .fixed => 2 := by cases x.kind <;> rfl
  rw [← hk]
  rfl

/-- The bytes of the transition record's entry (05 R91). -/
theorem transitionBytes_some (t : Transition) : transitionBytes (some t) =
    leBytes 1 1 ++ leBytes 1 (t.target.getD 255) ++ leBytes 1 (t.source.getD 255)
      ++ leBytes 1 (match t.style with | some .overlap => 0 | some .sequential => 1 | none => 255)
      ++ leBytes 1 (match t.phase with | .prepare => 0 | .claim => 1 | .out => 2 | .in_ => 3 | .fade => 4)
      ++ leBytes 1 t.cueSlot ++ leBytes 2 t.fade ++ leBytes 2 t.position ++ leBytes 1 t.cuts.length
      ++ ((List.range 7).flatMap fun i => leBytes 1 (t.cuts.getD i 255)) ++ List.replicate 14 0 := by
  have hs : (match t.style with | none => 255 | some .overlap => 0 | some .sequential => 1 : Nat) =
      match t.style with | some .overlap => 0 | some .sequential => 1 | none => 255 := by
    rcases t.style with _ | _ | _ <;> rfl
  have hp : t.phase.code = match t.phase with | .prepare => 0 | .claim => 1 | .out => 2 | .in_ => 3 | .fade => 4 := by
    cases t.phase <;> rfl
  rw [← hs, ← hp]
  rfl

/-- Entries of the view by place, for the fields that stand alone. -/
theorem mem_view_head (s : State) : ∀ e ∈ [(0x000, leBytes 2 s.cues.expected.toNat), (0x002, byte s.mode.mode.code),
    (0x004, leBytes 2 s.muteFactor), (0x006, byte (bit s.clock.external)), (0x007, byte s.clock.state.code)], e ∈ s.view :=
  fun _ h => mem_view.2 (.inl h)

theorem mem_view_lane {s : State} {i : Nat} {l : InputLane} (h : s.lanes[i]? = some l) :
    (0x008 + i, byte (bit l.locked)) ∈ s.view := mem_view.2 (.inr (.inl (mem_mapIdx_of_getElem? h)))

theorem mem_view_lock (s : State) : ∀ e ∈ [(0x00E, byte (bit s.lock.locked)), (0x00F, byte (bit s.lock.key.isSome)),
    (0x010, byte s.lock.failures), (0x012, leBytes 2 s.lock.lockout), (0x014, leBytes 4 s.frame.toNat)], e ∈ s.view :=
  fun _ h => mem_view.2 (.inr (.inr (.inl h)))

theorem mem_view_notice {s : State} {i : Nat} {n : Notice} (h : s.att.notices[i]? = some n) :
    ∀ e ∈ noticeFields i n, e ∈ s.view := fun _ he =>
  mem_view.2 (.inr (.inr (.inr (.inl (List.mem_flatten.2 ⟨_, mem_mapIdx_of_getElem? h, he⟩)))))

theorem mem_view_slot {s : State} {k : Nat} {x : Slot} (h : s.slots[k]? = some x) :
    (0x02000 + 8 * k, x.entryBytes) ∈ s.view := mem_view.2 (.inr (.inr (.inr (.inr (.inl (mem_mapIdx_of_getElem? h))))))

theorem mem_view_engine {s : State} {e : Nat} {x : Engine} (h : s.engines[e]? = some x) :
    (0x02040 + 2 * e, x.entryBytes) ∈ s.view :=
  mem_view.2 (.inr (.inr (.inr (.inr (.inr (.inl (mem_mapIdx_of_getElem? h)))))))

theorem mem_view_trans (s : State) : (0x02080, transitionBytes s.trans) ∈ s.view :=
  mem_view.2 (.inr (.inr (.inr (.inr (.inr (.inr (.inl List.mem_cons_self)))))))

theorem mem_view_notch {s : State} {n : Nat} {x : Notch} (h : s.guard.pool[n]? = some x) :
    (0x020A0 + 16 * n, x.entryBytes) ∈ s.view :=
  mem_view.2 (.inr (.inr (.inr (.inr (.inr (.inr (.inr (.inl (mem_mapIdx_of_getElem? h)))))))))

theorem mem_view_mic {s : State} {m : Nat} {x : Mic} (h : s.mics[m]? = some x) :
    (0x021A0 + 8 * m, x.entryBytes) ∈ s.view :=
  mem_view.2 (.inr (.inr (.inr (.inr (.inr (.inr (.inr (.inr (.inl (mem_mapIdx_of_getElem? h))))))))))

theorem mem_view_settings (s : State) : (0x02320, s.settingBytes) ∈ s.view :=
  mem_view.2 (.inr (.inr (.inr (.inr (.inr (.inr (.inr (.inr (.inr List.mem_cons_self)))))))))

/-- Settles O60. -/
theorem metersAreWritten : Obligations.MetersAreWritten := by
  refine ⟨?meters, fun s hf h => beforeSample_publish hf h, ?publication, notchWords_values, peakLevel_values, rmsLevel_values,
    ?view⟩
  case meters =>
    intro s hd hm hp hq hs hc
    have hm : Memory.wf (s.doing .meters).ram = true := hm
    have hu : (s.doing .meters).MeterUnits := ⟨hp, hq, hs, hc⟩
    exact ⟨_, exec_meterWrite hd, metersStep_eq _, fun m h => metersStep_mic hm hu h, fun x h => metersStep_speaker hm hu h,
      metersStep_settings hm hu, metersStep_frame hm hu, fun a h => metersStep_off hm hu h⟩
  case publication =>
    intro s t
    refine ⟨formed_view s, publish_view s, rfl, rfl, rfl, rfl, rfl, rfl, rfl, fun hm hl hn hs he hp hmi hshown => ?_⟩
    have hu : s.Units := ⟨hl, hn, hs, he, hp, hmi⟩
    have hlen : s.shown.length = s.view.length := by simpa using congrArg List.length hshown
    have ht : t.ram = writeChanged s.changed s.shown s.view s.ram := publish_ram s
    rw [ht]
    exact ⟨fun i a old new ho hv => readBytes_writeChanged hm _ hlen (view_apart hu) ho hv,
      fun b hb => readByte_writeChanged_off hm _ hlen fun e he => hb e.1 e.2 he⟩
  case view =>
    intro size
    have hsize : size = Slot.shownSizes := funext fun x => (shownSizes_eq x).symm
    rw [hsize]
    refine ⟨?entries, ?marks⟩
    case marks =>
      intro s a marks
      exact ⟨setSlots_marks s a, setEngines_marks s a, setTrans_marks s a, setGuard_marks s a, setMics_marks s a,
        setCoef_marks s a, setLock_marks s a, setAtt_marks s a⟩
    case entries =>
      intro s flag zeros
      have head := mem_view_head s
      have lock := mem_view_lock s
      simp only [List.forall_mem_cons] at head lock
      obtain ⟨h0, h2, h4, h6, h7, -⟩ := head
      obtain ⟨hE, hF, h10, h12, h14, -⟩ := lock
      refine ⟨h0, ?_, h4, h6, ?_, fun i l h => mem_view_lane h, hE, hF, h10, h12, h14, fun n x h => ?_, fun k x h => ?_,
        fun e x h => ?_, ?_, fun n x h => ?_, fun m x h => mem_view_mic h, mem_view_settings s⟩
      · cases hx : s.mode.mode <;> rw [hx] at h2 <;> exact h2
      · cases hx : s.clock.state <;> rw [hx] at h7 <;> exact h7
      · have hn := mem_view_notice h
        simp only [noticeFields, List.forall_mem_cons] at hn
        obtain ⟨hp, hc, hd, hs, -⟩ := hn
        exact ⟨hp, hc, hd, hs⟩
      · have hm := mem_view_slot h
        rw [slot_entryBytes] at hm
        exact hm
      · have hm := mem_view_engine h
        rw [engine_entryBytes] at hm
        exact hm
      · have hm := mem_view_trans s
        cases ht : s.trans <;> rw [ht] at hm
        · exact hm
        · rw [transitionBytes_some] at hm
          exact hm
      · have hm := mem_view_notch h
        rw [notch_entryBytes] at hm
        exact hm

end Sys2Proof.Machine
end

section
/-! PROOFS. LOAD SCENE and VACATE SCENE (02 R21, R22, R34, R35). -/

namespace Sys2Proof.Machine

/-- The image does not lie in the image area, or its length is odd or below 26 (02 R21 step 2). -/
theorem badImage_iff (offset length : Nat) : badImage offset length = true ↔
    offset < 0x06000 ∨ 0x80000 < offset + length ∨ length % 2 = 1 ∨ length < 26 := by
  simp only [badImage, Bool.or_eq_true, decide_eq_true_eq, or_assoc]
  exact Iff.rfl

/-- Settles O25: past the take, LOAD SCENE is its chain of refusals. -/
theorem loadSceneIsCheckedAndAccepted : Obligations.LoadSceneIsCheckedAndAccepted := by
  intro s k h b t n offset length
  refine (exec_of_takeable h).trans (congrArg _ ?_)
  show cueLoadScene k b t = _
  simp only [cueLoadScene, badImage_iff]
  rfl

/-! ### VACATE SCENE by the state of its slot (02 R34) -/

/-- The end of a load by an abort (02 R35; log 33). -/
theorem abortLoad_some {s : State} {l : LoadRecord} (h : s.loader = some l) (n : Nat) : s.abortLoad n =
    ((((s.onSlot n fun x => { x with state := .vacant, record := none }).forgetLoad n).answerHeld l.cueSlot .aborted 0).raise
      .loadEnded (l.target + 256 * 0x0D)).setLoader none := by
  rw [State.abortLoad, h]
  rfl

section
variable (k : Nat) (bs : List Byte) (s : State)

theorem cueVacateScene_range (h : 7 < u8 bs 12) : cueVacateScene k bs s = s.answer k bs .range 0 := if_pos h

variable (h : u8 bs 12 ≤ 7)
include h

theorem cueVacateScene_playing (hs : (s.slot (u8 bs 12)).state = .live ∨ (s.slot (u8 bs 12)).state = .outgoing) :
    cueVacateScene k bs s = s.answer k bs .busy 0 := by
  rw [cueVacateScene, if_neg (Nat.not_lt.2 h)]
  rcases hs with hs | hs <;> rw [hs]

theorem cueVacateScene_ready (hs : (s.slot (u8 bs 12)).state = .ready) : cueVacateScene k bs s =
    if s.transitionTarget = some (u8 bs 12) then s.answer k bs .busy 0
    else (s.onSlot (u8 bs 12) fun x => { x with state := .vacant, record := none }).answer k bs .done 0 := by
  rw [cueVacateScene, if_neg (Nat.not_lt.2 h), hs]

theorem cueVacateScene_faulted (hs : (s.slot (u8 bs 12)).state = .faulted) : cueVacateScene k bs s =
    (s.onSlot (u8 bs 12) fun x => { x with state := .vacant }).answer k bs .done 0 := by
  rw [cueVacateScene, if_neg (Nat.not_lt.2 h), hs]

theorem cueVacateScene_vacant (hs : (s.slot (u8 bs 12)).state = .vacant) :
    cueVacateScene k bs s = s.answer k bs .done 0 := by
  rw [cueVacateScene, if_neg (Nat.not_lt.2 h), hs]

theorem cueVacateScene_loading (hs : (s.slot (u8 bs 12)).state = .loading) :
    cueVacateScene k bs s = (s.abortLoad (u8 bs 12)).answer k bs .done 0 := by
  rw [cueVacateScene, if_neg (Nat.not_lt.2 h), hs]

end

/-- Settles O26, by the cases of the slot's state. -/
theorem vacateSceneByState : Obligations.VacateSceneByState := by
  refine ⟨?_, fun s n => rfl⟩
  intro s k h b t n
  have hx : exec (.vacateScene k) s = .next (cueVacateScene k b t) := exec_of_takeable h
  rw [hx]
  simp only [Host.Outcome.next.injEq]
  refine ⟨fun hn => cueVacateScene_range k b t hn, fun hn hs => ?busy, fun hn hs ht => ?ready,
    fun hn hs => cueVacateScene_faulted k b t hn hs, fun hn hs => cueVacateScene_vacant k b t hn hs,
    fun l hn hs hl ht => ?loading⟩
  case busy =>
    obtain hs | hs | ⟨hs, ht⟩ := hs
    · exact cueVacateScene_playing k b t hn (.inl hs)
    · exact cueVacateScene_playing k b t hn (.inr hs)
    · exact (cueVacateScene_ready k b t hn hs).trans (if_pos ht)
  case ready => exact (cueVacateScene_ready k b t hn hs).trans (if_neg ht)
  case loading =>
    have hl' : t.loader = some l := hl
    rw [cueVacateScene_loading k b t hn hs, abortLoad_some hl', ht]

end Sys2Proof.Machine
end

section
/-! PROOFS. The validation of an image: its faults in their order, and what is read without one (02 R26 to R31). -/

namespace Sys2Proof.Machine

/-! ### Chains of faults -/

/-- Two chains agree past a first fault that they report alike. -/
theorem ite_congr_else {α : Type} {p q : Prop} [Decidable p] [Decidable q] {e x y : α} (h : p ↔ q) (hn : ¬ q → x = y) :
    (if p then e else x) = if q then e else y :=
  ite_congr (propext h) (fun _ => rfl) hn

/-- What follows a check is done where the check finds no fault. -/
theorem bind_ite_error {α β : Type} {p : Prop} [Decidable p] (e : Nat × Nat) (x : Checked α) (f : α → Checked β) :
    ((if p then .error e else x : Checked α) >>= f) = if p then .error e else x >>= f := by
  split <;> rfl

/-- The bytes run into the check word or past the image (02 R26). -/
theorem not_fits_iff {len p n : Nat} (h : 0 < n) : (!fits len p n) = true ↔ len < p + n + 2 := by
  simp only [fits, Bool.not_eq_true', decide_eq_false_iff_not]
  omega

/-- As above, of bytes that may be none. -/
theorem not_fits_of_le {len p n : Nat} (h : p + 2 ≤ len) : (!fits len p n) = true ↔ len < p + n + 2 := by
  simp only [fits, Bool.not_eq_true', decide_eq_false_iff_not]
  omega

/-! ### Times and gains -/

theorem badTime_eq : badTime = fun t => decide (t < 100 ∨ 12000 < t) := funext fun _ => (Bool.decide_or ..).symm

/-- A gain that is neither off nor in range (02 R29, R30). -/
def gainOutside (g : Int) : Bool := decide (g ≠ -32768 ∧ (g < -9600 ∨ 1200 < g))

/-- The gain of a field; the lowest number is off (02 R39, R40). -/
def gainRead (g : Int) : Option Int := if g = -32768 then none else some g

theorem gainField_outside {g : Int} (h : gainOutside g = true) : gainField g = none := by
  obtain ⟨hn, hr⟩ := of_decide_eq_true h
  rw [gainField, if_neg hn, if_neg (by omega)]

theorem gainField_inside {g : Int} (h : ¬ gainOutside g = true) : gainField g = some (gainRead g) := by
  simp only [gainOutside, decide_eq_true_eq] at h
  unfold gainField gainRead
  split
  · rfl
  · rw [if_pos (by omega)]

/-! ### Lines (02 R28) -/

/-- The override times that stand before that of band `b`. -/
def overridesBefore (flags b : Nat) : Nat := (List.range b).countP fun i => flags.testBit i

/-- The override time of band `b` of the line record at `p`. -/
def overrideTime (img : List Byte) (p b : Nat) : Option Nat :=
  if (u8 img (p + 6)).testBit b = true then some (u16 img (p + 7 + 2 * overridesBefore (u8 img (p + 6)) b)) else none

theorem overridesBefore_succ (flags b : Nat) :
    overridesBefore flags (b + 1) = overridesBefore flags b + bit (flags.testBit b) := by
  simp only [overridesBefore, List.range_succ, List.countP_append, List.countP_singleton, bit]

theorem overrideTimes_eq (img : List Byte) (p : Nat) : overrideTimes img (u8 img (p + 6)) (p + 7) =
    ⟨overrideTime img p 0, overrideTime img p 1, overrideTime img p 2⟩ := by
  have h0 : overridesBefore (u8 img (p + 6)) 0 = 0 := rfl
  simp only [overrideTimes, overrideTime, overridesBefore_succ, h0, Nat.mul_add, Nat.add_assoc, Nat.mul_zero, Nat.zero_add,
    Nat.add_zero]

/-- One more line record, its faults in their order. -/
theorem checkLines_faults (img : List Byte) (len n j p : Nat) : checkLines img len (n + 1) j p =
    if len < p + 9 then .error (0x03, 0)
    else if u16 img p < 256 ∨ 30720 < u16 img p then .error (0x08, j)
    else if min 512 (u16 img p / 4) < u16 img (p + 2) then .error (0x09, j)
    else if 8 ≤ u8 img (p + 6) then .error (0x0A, j)
    else if len < p + 9 + 2 * overridesBefore (u8 img (p + 6)) 3 then .error (0x03, 0)
    else if (overrideTime img p 0).any badTime = true ∨ (overrideTime img p 1).any badTime = true
      ∨ (overrideTime img p 2).any badTime = true then .error (0x0A, j)
    else match checkLines img len n (j + 1) (p + 7 + 2 * overridesBefore (u8 img (p + 6)) 3) with
      | .error f => .error f
      | .ok (rest, q) => .ok (⟨u16 img p, u16 img (p + 2), u16 img (p + 4),
          ⟨overrideTime img p 0, overrideTime img p 1, overrideTime img p 2⟩⟩ :: rest, q) := by
  have hk : bit ((u8 img (p + 6)).testBit 0) + bit ((u8 img (p + 6)).testBit 1) + bit ((u8 img (p + 6)).testBit 2) =
      overridesBefore (u8 img (p + 6)) 3 := by
    simp only [overridesBefore_succ]
    exact congrArg (· + _ + _) (Nat.zero_add _).symm
  simp only [checkLines, checkLine, overrideTimes_eq, hk, bind_ite_error]
  refine ite_congr_else (not_fits_iff (by omega)) fun h => ?_
  refine ite_congr_else (by simp) fun _ => ite_congr_else Iff.rfl fun _ => ite_congr_else Iff.rfl fun _ => ?_
  refine ite_congr_else ((not_fits_of_le (by omega)).trans (by omega)) fun _ => ?_
  refine ite_congr_else (by simp [or_assoc]) fun _ => ?_
  show (checkLines img len n (j + 1) (p + 7 + 2 * overridesBefore (u8 img (p + 6)) 3) >>= _) = _
  cases checkLines img len n (j + 1) (p + 7 + 2 * overridesBefore (u8 img (p + 6)) 3) <;> rfl

/-! ### Send entries (02 R29) -/

/-- One more send entry, its faults in their order. -/
theorem checkSends_faults (img : List Byte) (len lines n i p : Nat) (seen : List SendRecord) :
    checkSends img len lines (n + 1) i p seen =
    if len < p + 6 then .error (0x03, 0)
    else if 47 < u8 img p ∨ lines ≤ u8 img (p + 1) then .error (0x0B, i)
    else if ∃ x ∈ seen, x.mic = u8 img p ∧ x.line = u8 img (p + 1) then .error (0x0C, i)
    else if gainOutside (s16 img (p + 2)) = true then .error (0x0D, i)
    else match checkSends img len lines n (i + 1) (p + 4)
        (⟨u8 img p, u8 img (p + 1), gainRead (s16 img (p + 2))⟩ :: seen) with
      | .error f => .error f
      | .ok (rest, q) => .ok (⟨u8 img p, u8 img (p + 1), gainRead (s16 img (p + 2))⟩ :: rest, q) := by
  rw [checkSends]
  refine ite_congr_else (not_fits_iff (by omega)) fun _ => ite_congr_else (by simp) fun _ =>
    ite_congr_else (by simp) fun _ => ?_
  by_cases hg : gainOutside (s16 img (p + 2)) = true
  · rw [gainField_outside hg, if_pos hg]
  · rw [gainField_inside hg, if_neg hg]
    show (checkSends img len lines n (i + 1) (p + 4) _ >>= _) = _
    cases checkSends img len lines n (i + 1) (p + 4) _ <;> rfl

/-! ### Speaker records and their taps (02 R30) -/

/-- One more tap, its faults in their order. -/
theorem checkTaps_faults (img : List Byte) (lines : List LineRecord) (n i p : Nat) : checkTaps img lines (n + 1) i p =
    if lines.length ≤ u8 img p ∨ (lines[u8 img p]?).any (fun l => decide (l.loopLength < u16 img (p + 1))) = true then
      .error (0x10, i)
    else if gainOutside (s16 img (p + 3)) = true then .error (0x11, i)
    else match checkTaps img lines n (i + 1) (p + 5) with
      | .error f => .error f
      | .ok rest => .ok (⟨u8 img p, u16 img (p + 1), gainRead (s16 img (p + 3))⟩ :: rest) := by
  simp only [checkTaps]
  cases hl : lines[u8 img p]? with
  | none => rw [if_pos (.inl (List.getElem?_eq_none_iff.1 hl))]
  | some l =>
    have hlen : ¬ lines.length ≤ u8 img p := Nat.not_le.2 (List.getElem?_eq_some_iff.1 hl).1
    refine ite_congr_else (by simp [hlen]) fun _ => ?_
    by_cases hg : gainOutside (s16 img (p + 3)) = true
    · rw [gainField_outside hg, if_pos hg]
    · rw [gainField_inside hg, if_neg hg]
      cases checkTaps img lines n (i + 1) (p + 5) <;> rfl

/-- One more speaker record, its faults in their order. -/
theorem checkSpeakers_faults (img : List Byte) (len : Nat) (lines : List LineRecord) (n r p taps : Nat) (seen : List Nat) :
    checkSpeakers img len lines (n + 1) r p taps seen =
    if len < p + 6 then .error (0x03, 0)
    else if 127 < u8 img p ∨ u8 img p ∈ seen then .error (0x0E, r)
    else if u8 img (p + 1) < 1 ∨ 8 < u8 img (p + 1) then .error (0x0F, r)
    else if s16 img (p + 2) < -9600 ∨ 1200 < s16 img (p + 2) then .error (0x11, r)
    else if len < p + 6 + 5 * u8 img (p + 1) then .error (0x03, 0)
    else match checkTaps img lines (u8 img (p + 1)) taps (p + 4) with
      | .error f => .error f
      | .ok list => match checkSpeakers img len lines n (r + 1) (p + 4 + 5 * u8 img (p + 1)) (taps + u8 img (p + 1))
          (u8 img p :: seen) with
        | .error f => .error f
        | .ok (rest, q, count) => .ok (⟨u8 img p, s16 img (p + 2), list⟩ :: rest, q, count) := by
  rw [checkSpeakers]
  refine ite_congr_else (not_fits_iff (by omega)) fun h => ite_congr_else (by simp) fun _ =>
    ite_congr_else (by simp) fun _ => ite_congr_else (by simp) fun _ =>
    ite_congr_else ((not_fits_of_le (by omega)).trans (by omega)) fun _ => ?_
  cases checkTaps img lines (u8 img (p + 1)) taps (p + 4) with
  | error f => rfl
  | ok list =>
    cases checkSpeakers img len lines n (r + 1) (p + 4 + 5 * u8 img (p + 1)) (taps + u8 img (p + 1)) (u8 img p :: seen) <;> rfl

/-! ### The whole image (02 R27, R31) -/

/-- What validation makes of the bytes after the header: the records, the tap count and the length. -/
def checkRecords (img : List Byte) (len : Nat) : Checked SceneRecord :=
  match checkLines img len (u8 img 8) 0 24 with
  | .error f => .error f
  | .ok (lines, p) => match checkSends img len (u8 img 8) (u16 img 18) 0 p [] with
    | .error f => .error f
    | .ok (sends, p) => match checkSpeakers img len lines (u16 img 20) 0 p 0 [] with
      | .error f => .error f
      | .ok (speakers, p, taps) =>
        if taps ≠ u16 img 22 then .error (0x12, 0)
        else if p ≠ len - 2 then .error (0x03, 0)
        else .ok ⟨if u8 img 9 = 0 then .nearest else .down, u16 img 10, ⟨u16 img 12, u16 img 14, u16 img 16⟩, lines,
          sends, speakers, none, none⟩

theorem validate_eq (img : List Byte) (len : Nat) :
    validate img len = checkHeader img len >>= fun _ => checkRecords img len := by
  refine congrArg (checkHeader img len >>= ·) (funext fun _ => ?_)
  unfold checkRecords
  show (checkLines img len (u8 img 8) 0 24 >>= _) = _
  cases checkLines img len (u8 img 8) 0 24 with
  | error f => rfl
  | ok x =>
    obtain ⟨lines, p⟩ := x
    show (checkSends img len (u8 img 8) (u16 img 18) 0 p [] >>= _) = _
    dsimp only
    cases checkSends img len (u8 img 8) (u16 img 18) 0 p [] with
    | error f => rfl
    | ok y =>
      obtain ⟨sends, p⟩ := y
      show (checkSpeakers img len lines (u16 img 20) 0 p 0 [] >>= _) = _
      dsimp only
      cases checkSpeakers img len lines (u16 img 20) 0 p 0 [] <;> rfl

/-- The header's faults in their order, then the records. -/
theorem validate_faults (img : List Byte) (len : Nat) : validate img len =
    if img.take 4 ≠ [0x43, 0x53, 0x43, 0x31] then .error (0x02, 0)
    else if u32 img 4 ≠ len then .error (0x03, 0)
    else if u8 img 8 ∉ [4, 8, 16, 32] then .error (0x04, 0)
    else if u8 img 9 ≠ 0 ∧ u8 img 9 ≠ 1 then .error (0x05, 0)
    else if u16 img 10 < 5 ∨ 300 < u16 img 10 then .error (0x06, 0)
    else if badTime (u16 img 12) = true ∨ badTime (u16 img 14) = true ∨ badTime (u16 img 16) = true then .error (0x07, 0)
    else if 256 < u16 img 18 then .error (0x0B, 0)
    else if 128 < u16 img 20 then .error (0x0E, 0)
    else if 1024 < u16 img 22 then .error (0x12, 0)
    else checkRecords img len := by
  simp only [validate_eq, checkHeader, bind_ite_error]
  refine ite_congr_else Iff.rfl fun _ => ite_congr_else Iff.rfl fun _ => ite_congr_else (by simp [and_assoc]) fun _ =>
    ite_congr_else (by omega) fun _ => ite_congr_else (by simp) fun _ => ite_congr_else (by simp [or_assoc]) fun _ =>
    ite_congr_else Iff.rfl fun _ => ite_congr_else Iff.rfl fun _ => ite_congr_else Iff.rfl fun _ => rfl

end Sys2Proof.Machine
end

section
/-! PROOFS. The image loader: chunks, and the end of the copy (02 R24, R25, R32, 04 R83). -/

namespace Sys2Proof.Machine

/-! ### Slots after a change of one -/

/-- A slot that exists reads as changed. -/
theorem slot_onSlot_same (s : State) {k : Nat} (h : k < s.slots.length) (f : Slot → Slot) :
    (s.onSlot k f).slot k = f (s.slot k) := by
  simp [State.slot, State.onSlot, List.getD_eq_getElem?_getD, List.getElem?_eq_getElem h]

/-- A change of a slot that exists writes its entry alone. -/
theorem onSlot_slots (s : State) {k : Nat} (h : k < s.slots.length) (f : Slot → Slot) :
    (s.onSlot k f).slots = s.slots.set k (f (s.slot k)) := by
  rw [State.onSlot, State.setSlots_slots, List.modify_eq_set_getElem?, List.getElem?_eq_getElem h, State.slot,
    List.getD_eq_getElem _ _ h]
  rfl

/-! ### The load record does not bear on answers -/

theorem setLoader_answerHeld (s : State) (v : Option LoadRecord) (k : Nat) (o : Answer) (d : Nat) :
    (s.setLoader v).answerHeld k o d = (s.answerHeld k o d).setLoader v := by
  unfold State.answerHeld
  rw [State.setLoader_cues]
  split <;> rfl

/-- The end of a load leaves no load record, whatever it was. -/
theorem setLoader_endLoad (s : State) (v : Option LoadRecord) (l : LoadRecord) (o : Answer) (d : Nat) :
    (s.setLoader v).endLoad l o d = s.endLoad l o d := by
  unfold State.endLoad
  rw [setLoader_answerHeld]
  rfl

theorem setLoader_faultLoad (s : State) (v : Option LoadRecord) (l : LoadRecord) (code index : Nat) :
    (s.setLoader v).faultLoad l code index = s.faultLoad l code index :=
  setLoader_endLoad ((s.onSlot l.target fun x => { x with state := .faulted, record := none, image := [] }).forgetComputation
    l.target) v l .image _

/-! ### Chunks (02 R24) -/

/-- The loader's work while an image is copied: a chunk, and the end of the copy with the last. -/
theorem loaderStep_copying {s : State} {l : LoadRecord} (h : s.loader = some l) (hp : l.phase = .copying) : s.loaderStep =
    let c := copyChunk s.ram l (s.slot l.target).image
    let t := s.onSlot l.target fun x => { x with image := c.2 }
    if c.1.done = c.1.length then (t.setLoader (some c.1)).endCopy c.1 else t.setLoader (some c.1) := by
  rw [State.loaderStep, h]
  dsimp only
  rw [hp]

/-- A chunk before the last is 512 bytes. -/
theorem copyChunk_early (ram : List Host.Cell) {l : LoadRecord} (h : l.done + 512 < l.length) (image : List Byte) :
    copyChunk ram l image = ({ l with done := l.done + 512, sum := l.sum + wordSum (readBytes ram (l.offset + l.done) 512) },
      (image ++ readBytes ram (l.offset + l.done) 512).take 7168) := by
  have hn : min Config.chunkSize (l.length - l.done) = 512 := Nat.min_eq_left (by show 512 ≤ _; omega)
  rw [copyChunk, hn]
  rfl

/-- The last chunk is what is left. -/
theorem copyChunk_last (ram : List Host.Cell) {l : LoadRecord} (hd : l.done ≤ l.length) (h : l.length ≤ l.done + 512)
    (image : List Byte) :
    copyChunk ram l image =
      ({ l with done := l.length, sum := l.sum + wordSum (readBytes ram (l.offset + l.done) (l.length - l.done)) },
      (image ++ readBytes ram (l.offset + l.done) (l.length - l.done)).take 7168) := by
  have hn : min Config.chunkSize (l.length - l.done) = l.length - l.done := Nat.min_eq_right (by show _ ≤ 512; omega)
  rw [copyChunk, hn, Nat.add_sub_cancel' hd]
  rfl

/-! ### The end of the copy (02 R25, R32) -/

/-- What the end of the copy does: a fault, or the record and the request of its computation. -/
theorem endCopy_setLoader (s : State) (l : LoadRecord) {image : List Byte} (h : (s.slot l.target).image = image) :
    (s.setLoader (some l)).endCopy l =
    if l.sum ≠ 0 then s.faultLoad l 0x01 0
    else match validate image l.length with
      | .error f => s.faultLoad l f.1 f.2
      | .ok r => ((s.onSlot l.target fun x => { x with record := some r }).setLoader
          (some { l with phase := .computing })).request ⟨l.target, none, true, false⟩ := by
  unfold State.endCopy
  subst h
  simp only [setLoader_faultLoad]
  rfl

theorem exec_copyEnd {s : State} (h : s.due .copy) {l : LoadRecord} (hl : s.loader = some l) (hp : l.phase = .copying)
    (hd : l.length ≤ l.done + 512) : exec .copyEnd s = .next (s.doing .copy).loaderStep := by
  have hc : (s.loader.any fun l => l.copying && decide (l.length ≤ l.done + Config.chunkSize)) = true := by
    rw [hl, Option.any_some, LoadRecord.copying, hp]
    exact decide_eq_true hd
  refine (released_of h.1 _).trans (congrArg _ ?_)
  rw [hc]
  exact doWork_of_due h (by decide) (by decide) (by decide)

/-- Settles O27, by what the last chunk and a chunk before it leave, and the chains of faults of validation. -/
theorem copyEnds : Obligations.CopyEnds := by
  refine ⟨?last, ?chunk, ?validation⟩
  case last =>
    intro s l h hl hp hd hlast bytes sum image t fail ht
    refine (exec_copyEnd h hl hp hlast).trans (congrArg _ ?_)
    have himage : (t.slot l.target).image = image := congrArg Slot.image (slot_onSlot_same (s.doing .copy) ht _)
    rw [loaderStep_copying (s := s.doing .copy) hl hp, copyChunk_last _ hd hlast]
    exact (if_pos rfl).trans (endCopy_setLoader t _ himage)
  case chunk =>
    intro s l hl hp hd bytes
    show s.loaderStep = _
    rw [loaderStep_copying hl hp, copyChunk_early _ hd]
    exact if_neg hd.ne
  case validation =>
    intro img len bad badGain gain n
    have hb : badTime = bad := badTime_eq
    refine ⟨(validate_faults img len).trans (by rw [hb]; rfl), fun m j p => ⟨rfl, (checkLines_faults img len m j p).trans
        (by rw [hb]; rfl)⟩,
      fun m lines i p seen => ⟨rfl, checkSends_faults img len lines m i p seen⟩,
      fun m lines r p taps seen => ⟨rfl, checkSpeakers_faults img len lines m r p taps seen⟩,
      fun m lines i p => ⟨rfl, checkTaps_faults img lines m i p⟩⟩

end Sys2Proof.Machine
end

section
/-! PROOFS. The coefficient unit's requests and its pick (04 R79 to R81). -/

namespace Sys2Proof.Machine

/-! ### The coefficient unit written twice -/

/-- A first update that leaves tau and epsilon is not seen past a second. -/
theorem setCoef_setCoef (s : State) {v : Coefficients} (ht : v.tau = s.coef.tau) (he : v.epsilon = s.coef.epsilon)
    (w : Coefficients) : (s.setCoef v).setCoef w = s.setCoef w := by
  simp only [State.setCoef, ht, he, changedFrom_self, Nat.or_zero]

/-- The computation that a request starts (04 R70, R81). -/
def State.started (s : State) (q : Request) : Computation :=
  ⟨q.slot, s.frame, s.coef.tau, s.guard.beta, decide ((s.slot q.slot).state = .loading), q.glide, q.loader, q.changeover⟩

theorem startComputation_eq (s : State) (q : Request) :
    s.startComputation q = s.setCoef { s.coef with underWay := some (s.started q) } := rfl

theorem startComputation_setRequests (s : State) (set : List Request) (q : Request) :
    (s.setCoef { s.coef with requests := set }).startComputation q =
      s.setCoef { s.coef with requests := set, underWay := some (s.started q) } :=
  setCoef_setCoef s (v := { s.coef with requests := set }) rfl rfl _

/-! ### The pending set (04 R80) -/

theorem enterRequest_new {q : Request} {set : List Request} (h : ∀ e ∈ set, e.slot ≠ q.slot) :
    enterRequest q set = set ++ [q] :=
  if_neg (by simpa using h)

theorem enterRequest_merged {q : Request} {set : List Request} (h : ∃ e ∈ set, e.slot = q.slot) :
    enterRequest q set = set.map fun e => if e.slot = q.slot then
      ⟨e.slot, q.glide.or e.glide, e.loader || q.loader, e.changeover || q.changeover⟩ else e := by
  refine (if_pos (by simpa using h)).trans (List.map_congr_left fun e _ => ?_)
  exact ite_congr (propext beq_iff_eq) (fun _ => rfl) fun _ => rfl

theorem request_idle {s : State} (h : s.coef.underWay = none) (q : Request) : s.request q = s.startComputation q := by
  rw [State.request, h]

theorem request_busy {s : State} (h : s.coef.underWay ≠ none) (q : Request) :
    s.request q = s.setCoef { s.coef with requests := enterRequest q s.coef.requests } := by
  obtain ⟨c, hc⟩ := Option.ne_none_iff_exists'.1 h
  rw [State.request, hc]

/-! ### The pick (04 R81) -/

/-- An entry that serves the LIVE slot, the target of the transition record or the LOADING slot. -/
def State.serves (s : State) (e : Request) : Bool :=
  some e.slot == s.live || some e.slot == s.trans.bind (·.target) || some e.slot == s.loading

/-- The entry of a set for a slot, if there is a slot. -/
def requestFor (set : List Request) (k : Option Nat) : Option Request := k.bind fun k => set.find? fun e => e.slot == k

theorem find_eq_requestFor (set : List Request) (k : Option Nat) :
    (set.find? fun e => some e.slot == k) = requestFor set k := by
  cases k with
  | none => exact List.find?_eq_none.2 fun e _ => by simp
  | some k => rfl

theorem slot_ne_of_requestFor {set : List Request} {k : Option Nat} (h : requestFor set k = none) :
    ∀ e ∈ set, (some e.slot == k) = false := by
  rw [← find_eq_requestFor, List.find?_eq_none] at h
  exact fun e he => Bool.eq_false_iff.2 (h e he)

/-- Entries dropped for serving no one are not looked for. -/
theorem requestFor_filter {set : List Request} {p : Request → Bool} {k : Option Nat}
    (h : ∀ e, (some e.slot == k) = true → p e = true) : requestFor (set.filter p) k = requestFor set k := by
  rw [← find_eq_requestFor, ← find_eq_requestFor, List.find?_filter]
  refine congrArg (List.find? · set) (funext fun e => ?_)
  cases hk : some e.slot == k
  · simp
  · simp [h e hk]

/-- The request that a pick takes. -/
def State.picked (s : State) : Option Request :=
  ((requestFor s.coef.requests s.live).or (requestFor s.coef.requests (s.trans.bind (·.target)))).or
    (requestFor s.coef.requests s.loading)

theorem firstRequest_serving (s : State) : s.firstRequest (s.coef.requests.filter s.serves) = s.picked := by
  simp only [State.firstRequest, find_eq_requestFor]
  rw [requestFor_filter (k := s.live), requestFor_filter (k := s.transitionTarget), requestFor_filter (k := s.loading)]
  · rfl
  all_goals intro e he; simp only [State.serves, Bool.or_eq_true]
  · exact .inr he
  · exact .inl (.inr he)
  · exact .inl (.inl he)

/-- Where nothing is picked no entry serves. -/
theorem serving_nil {s : State} (h : s.picked = none) : s.coef.requests.filter s.serves = [] := by
  simp only [State.picked, Option.or_eq_none_iff] at h
  obtain ⟨⟨h1, h2⟩, h3⟩ := h
  refine List.filter_eq_nil_iff.2 fun e he => ?_
  simp only [State.serves, slot_ne_of_requestFor h1 e he, slot_ne_of_requestFor h2 e he, slot_ne_of_requestFor h3 e he]
  decide

theorem pick_eq (s : State) : s.pick = match s.picked with
    | none => s.setCoef { s.coef with requests := [] }
    | some q => s.setCoef { s.coef with
        requests := s.coef.requests.filter fun e => s.serves e && e.slot != q.slot
        underWay := some (s.started q) } := by
  have hp : s.pick = match s.firstRequest (s.coef.requests.filter s.serves) with
      | none => s.setCoef { s.coef with requests := s.coef.requests.filter s.serves }
      | some q => (s.setCoef { s.coef with
          requests := (s.coef.requests.filter s.serves).filter (·.slot != q.slot) }).startComputation q := rfl
  rw [hp, firstRequest_serving]
  cases hq : s.picked with
  | none => simp only [serving_nil hq]
  | some q =>
    dsimp only
    rw [List.filter_filter, List.filter_congr fun e _ => Bool.and_comm (e.slot != q.slot) (s.serves e)]
    exact startComputation_setRequests s _ q

end Sys2Proof.Machine
end

section
/-! PROOFS. The decay glides of a LIVE slot (04 R84). -/

namespace Sys2Proof.Machine

/-! ### Bands -/

theorem bands_get_put {α : Type} (x : Bands α) (b c : Band) (v : α) : (x.put b v).get c = if b = c then v else x.get c := by
  cases b <;> cases c <;> rfl

theorem bands_ext {α : Type} {x y : Bands α} (h : ∀ b, x.get b = y.get b) : x = y := by
  have hl : x.lf = y.lf := h .lf
  have hm : x.mf = y.mf := h .mf
  have hh : x.hf = y.hf := h .hf
  cases x; cases y
  simp only at hl hm hh
  rw [hl, hm, hh]

theorem bands_get_put_ne {α : Type} (x : Bands α) {b c : Band} (h : b ≠ c) (v : α) : (x.put b v).get c = x.get c := by
  rw [bands_get_put, if_neg h]

theorem bands_put_comm {α : Type} (x : Bands α) {b c : Band} (h : b ≠ c) (v w : α) :
    (x.put b v).put c w = (x.put c w).put b v := by
  refine bands_ext fun d => ?_
  simp only [bands_get_put]
  split_ifs with hc hb
  · exact absurd (hb.trans hc.symm) h
  all_goals rfl

/-! ### One engine -/

/-- A step in one band and a new glide in another do not meet. -/
theorem stepGlide_startGlide {b c : Band} (h : b ≠ c) (stop n : Nat) (e : Engine) :
    (e.startGlide b stop n).stepGlide c = (e.stepGlide c).startGlide b stop n := by
  simp only [Engine.stepGlide, Engine.startGlide, bands_get_put_ne _ h]
  cases e.glides.get c with
  | none => rfl
  | some g => simp only [bands_get_put_ne _ h.symm, bands_put_comm _ h]

/-- The step of a band that is still due, made. -/
def Engine.stepDue (todo : List Work) (i : Nat) (e : Engine) (b : Band) : Engine :=
  if .decayGlide i b ∈ todo then e.stepGlide b else e

theorem stepDue_startGlide (todo : List Work) (i : Nat) {b c : Band} (h : b ≠ c) (stop n : Nat) (e : Engine) :
    (e.startGlide b stop n).stepDue todo i c = (e.stepDue todo i c).startGlide b stop n := by
  unfold Engine.stepDue
  split
  · exact stepGlide_startGlide h stop n e
  · rfl

theorem stepDue_congr {todo todo' : List Work} {i : Nat} {b : Band} (h : .decayGlide i b ∈ todo ↔ .decayGlide i b ∈ todo')
    (e : Engine) : e.stepDue todo i b = e.stepDue todo' i b := ite_congr (propext h) (fun _ => rfl) fun _ => rfl

/-- An engine whose three glides start toward `words`, once the steps still due are made. -/
def Engine.glided (todo : List Work) (i : Nat) (words : Bands Nat) (n : Nat) (e : Engine) : Engine :=
  let e' := allBands.foldl (Engine.stepDue todo i) e
  let start (b : Band) : Option Glide := some ⟨e'.words.get b, words.get b, n, 0⟩
  { e' with glides := ⟨start .lf, start .mf, start .hf⟩ }

theorem glided_congr {todo todo' : List Work} {i : Nat} (h : ∀ b, .decayGlide i b ∈ todo ↔ .decayGlide i b ∈ todo')
    (words : Bands Nat) (n : Nat) (e : Engine) : e.glided todo i words n = e.glided todo' i words n := by
  simp only [Engine.glided, allBands, List.foldl_cons, List.foldl_nil, stepDue_congr (h _)]

/-- Band after band, or all steps before all starts. -/
theorem glided_eq (todo : List Work) (i : Nat) (words : Bands Nat) (n : Nat) (e : Engine) :
    ((((((e.stepDue todo i .lf).startGlide .lf words.lf n).stepDue todo i .mf).startGlide .mf words.mf n).stepDue todo i
      .hf).startGlide .hf words.hf n) = e.glided todo i words n := by
  rw [stepDue_startGlide todo i (by decide), stepDue_startGlide todo i (by decide), stepDue_startGlide todo i (by decide)]
  rfl

/-! ### The state -/

@[simp] theorem onEngine_engine (s : State) (i k : Nat) (f : Engine → Engine) :
    (s.onEngine i f).engines[k]? = if i = k then s.engines[k]?.map f else s.engines[k]? := by
  rw [State.onEngine, State.setEngines_engines, List.getElem?_modify]
  split
  · rfl
  · exact Option.map_id' ..

theorem onEngine_todo (s : State) (i : Nat) (f : Engine → Engine) : (s.onEngine i f).todo = s.todo := rfl

/-- The step and the new glide of one band of engine `i`. -/
def State.glideBand (s : State) (n stop i : Nat) (b : Band) : State :=
  (s.stepDecayGlide i b).onEngine i (Engine.startGlide b stop n)

theorem glideEngine_eq (s : State) (n : Nat) (decay : List (Bands Nat)) (i j : Nat) : s.glideEngine n decay i j =
    ((s.glideBand n (decay.getD j ⟨0, 0, 0⟩).lf i .lf).glideBand n (decay.getD j ⟨0, 0, 0⟩).mf i .mf).glideBand n
      (decay.getD j ⟨0, 0, 0⟩).hf i .hf := rfl

theorem glideBand_engine {s : State} {i : Nat} {e : Engine} (h : s.engines[i]? = some e) (n stop : Nat) (b : Band) :
    (s.glideBand n stop i b).engines[i]? = some ((e.stepDue s.todo i b).startGlide b stop n) := by
  rw [State.glideBand, State.stepDecayGlide, State.onDue, Engine.stepDue]
  split <;> simp [h]

theorem glideBand_other (s : State) {i k : Nat} (h : i ≠ k) (n stop : Nat) (b : Band) :
    (s.glideBand n stop i b).engines[k]? = s.engines[k]? := by
  rw [State.glideBand, State.stepDecayGlide, State.onDue]
  split <;> simp [h]

/-- Only the step of that engine and band is made. -/
theorem glideBand_mem_todo (s : State) {i k : Nat} {b c : Band} (h : i ≠ k ∨ b ≠ c) (n stop : Nat) :
    .decayGlide k c ∈ (s.glideBand n stop i b).todo ↔ .decayGlide k c ∈ s.todo := by
  rw [State.glideBand, State.stepDecayGlide, State.onDue, onEngine_todo]
  split
  · refine List.mem_erase_of_ne fun hw => ?_
    injection hw with h1 h2
    exact h.elim (fun h => h h1.symm) fun h => h h2.symm
  · exact Iff.rfl

theorem glideEngine_engine {s : State} {i : Nat} {e : Engine} (h : s.engines[i]? = some e) (n : Nat)
    (decay : List (Bands Nat)) (j : Nat) :
    (s.glideEngine n decay i j).engines[i]? = some (e.glided s.todo i (decay.getD j ⟨0, 0, 0⟩) n) := by
  rw [glideEngine_eq, glideBand_engine (glideBand_engine (glideBand_engine h ..) ..), ← glided_eq]
  simp only [stepDue_congr (glideBand_mem_todo _ (.inr (by decide : Band.lf ≠ .mf)) ..),
    stepDue_congr (glideBand_mem_todo _ (.inr (by decide : Band.lf ≠ .hf)) ..),
    stepDue_congr (glideBand_mem_todo _ (.inr (by decide : Band.mf ≠ .hf)) ..)]

theorem glideEngine_other (s : State) {i k : Nat} (h : i ≠ k) (n : Nat) (decay : List (Bands Nat)) (j : Nat) :
    (s.glideEngine n decay i j).engines[k]? = s.engines[k]? := by
  rw [glideEngine_eq, glideBand_other _ h, glideBand_other _ h, glideBand_other _ h]

theorem glideEngine_mem_todo (s : State) {i k : Nat} (h : i ≠ k) (n : Nat) (decay : List (Bands Nat)) (j : Nat) (b : Band) :
    .decayGlide k b ∈ (s.glideEngine n decay i j).todo ↔ .decayGlide k b ∈ s.todo := by
  rw [glideEngine_eq, glideBand_mem_todo _ (.inl h), glideBand_mem_todo _ (.inl h), glideBand_mem_todo _ (.inl h)]

/-- The glides of the engines of a map, from line `k` on. -/
def State.glideEngines (s : State) (n : Nat) (decay : List (Bands Nat)) (es : List Nat) (k : Nat) : State :=
  (es.zipIdx k).foldl (fun s e => s.glideEngine n decay e.1 e.2) s

theorem glideEngines_cons (s : State) (n : Nat) (decay : List (Bands Nat)) (i : Nat) (es : List Nat) (k : Nat) :
    s.glideEngines n decay (i :: es) k = (s.glideEngine n decay i k).glideEngines n decay es (k + 1) := rfl

theorem glideEngines_other (n : Nat) (decay : List (Bands Nat)) {i : Nat} {es : List Nat} (h : i ∉ es) (s : State) (k : Nat) :
    (s.glideEngines n decay es k).engines[i]? = s.engines[i]? := by
  induction es generalizing s k with
  | nil => rfl
  | cons a es ih =>
    rw [List.mem_cons, not_or] at h
    rw [glideEngines_cons, ih h.2, glideEngine_other _ (Ne.symm h.1)]

/-- Each engine of a map is met once: its glides start toward the words of its line. -/
theorem glideEngines_engine (n : Nat) (decay : List (Bands Nat)) {es : List Nat} (hn : es.Nodup) {s : State} {k j i : Nat}
    {e : Engine} (hj : es[j]? = some i) (he : s.engines[i]? = some e) :
    (s.glideEngines n decay es k).engines[i]? = some (e.glided s.todo i (decay.getD (k + j) ⟨0, 0, 0⟩) n) := by
  induction es generalizing s k j with
  | nil => cases hj
  | cons a es ih =>
    obtain ⟨ha, hn⟩ := List.nodup_cons.1 hn
    rw [glideEngines_cons]
    cases j with
    | zero =>
      obtain rfl : a = i := Option.some.inj hj
      rw [glideEngines_other n decay ha, glideEngine_engine he]
      rfl
    | succ j =>
      have hj : es[j]? = some i := hj
      have hai : a ≠ i := fun h => ha (h ▸ List.mem_of_getElem? hj)
      rw [ih hn hj ((glideEngine_other s hai n decay k).trans he), Nat.add_right_comm, Nat.add_assoc,
        glided_congr fun b => glideEngine_mem_todo s hai n decay k b]

theorem glideSlot_some {s : State} {k : Nat} {es : List Nat} (h : (s.slot k).record.bind (·.engineMap) = some es) (n : Nat)
    (decay : List (Bands Nat)) : s.glideSlot k n decay = s.glideEngines n decay es 0 := by
  rw [State.glideSlot, h]
  rfl

theorem glideSlot_none {s : State} {k : Nat} (h : (s.slot k).record.bind (·.engineMap) = none) (n : Nat)
    (decay : List (Bands Nat)) : s.glideSlot k n decay = s := by
  rw [State.glideSlot, h]

/-- What no glide bears on. -/
def State.besideEngines (s : State) :=
  (s.slots, s.att, s.ram, s.coef, s.net, s.trans, s.loader, s.cues)

theorem glideSlot_besideEngines (s : State) (k n : Nat) (decay : List (Bands Nat)) :
    (s.glideSlot k n decay).besideEngines = s.besideEngines := by
  have band (t : State) (stop i : Nat) (b : Band) : (t.glideBand n stop i b).besideEngines = t.besideEngines := by
    rw [State.glideBand, State.stepDecayGlide, State.onDue]
    split <;> rfl
  have engine (t : State) (e : Nat × Nat) : (t.glideEngine n decay e.1 e.2).besideEngines = t.besideEngines := by
    rw [glideEngine_eq, band, band, band]
  cases h : (s.slot k).record.bind (·.engineMap) with
  | none => rw [glideSlot_none h]
  | some es =>
    rw [glideSlot_some h]
    exact foldl_keeps (P := fun t => t.besideEngines = s.besideEngines) (fun t e ht => (engine t e).trans ht) _ _ rfl

end Sys2Proof.Machine
end

section
/-! PROOFS. The completion of a computation (02 R33, 04 R77, R82, R83). -/

namespace Sys2Proof.Machine

/-! ### Results kept (04 R77, R83) -/

/-- The attention block once ARITH CLAMP is raised for the flags `new`, if there are any. -/
def State.clampRaised (s : State) (k : Nat) (new : StatusFlags) : Attention :=
  if new.byte = 0 then s.att else (s.raise .arithClamp (k + 256 * new.byte)).att

theorem addFlags_eq (s : State) (k : Nat) (f : StatusFlags) : s.addFlags k f =
    (s.onSlot k fun x => { x with flags := x.flags.add f }).setAtt (s.clampRaised k ((s.slot k).flags.newly f)) := by
  unfold State.addFlags State.clampRaised
  dsimp only
  split
  · exact (setAtt_self _).symm
  · rfl

/-- A slot with the results of a computation in its record, and their flags. -/
def Slot.withResults (r : SceneRecord) (x : Computed × StatusFlags) (k : Slot) : Slot :=
  { k with record := some { r with computed := some x.1 }, flags := k.flags.add x.2 }

section
variable {s : State} {c : Computation} {r : SceneRecord} (hr : (s.slot c.slot).record = some r) (hk : c.slot < s.slots.length)
include hk

theorem keepResults_att : (s.keepResults c r).att =
    s.clampRaised c.slot ((s.slot c.slot).flags.newly (computeRecord r c.full c.tau c.beta).2) := by
  rw [State.keepResults, addFlags_eq, slot_onSlot_same _ hk]
  rfl

include hr

theorem keepResults_slots : (s.keepResults c r).slots =
    s.slots.set c.slot ((s.slot c.slot).withResults r (computeRecord r c.full c.tau c.beta)) := by
  rw [State.keepResults, addFlags_eq, State.setAtt_slots, onSlot_slots _ (by simpa [State.onSlot] using hk),
    slot_onSlot_same _ hk, onSlot_slots _ hk, List.set_set]
  simp only [Slot.withResults, Slot.onRecord, hr, Option.map_some]

theorem keepResults_slot : (s.keepResults c r).slot c.slot =
    (s.slot c.slot).withResults r (computeRecord r c.full c.tau c.beta) := by
  rw [State.slot, keepResults_slots hr hk, List.getD_eq_getElem _ _ (by simpa using hk), List.getElem_set_self]

end

/-- What the keeping of results does not bear on. -/
theorem keepResults_rest (s : State) (c : Computation) (r : SceneRecord) :
    let t := s.keepResults c r
    t.ram = s.ram ∧ t.coef = s.coef ∧ t.net = s.net ∧ t.trans = s.trans ∧ t.loader = s.loader ∧ t.cues = s.cues
      ∧ t.engines = s.engines ∧ t.todo = s.todo := by
  intro t
  have ht : t = s.keepResults c r := rfl
  rw [State.keepResults, addFlags_eq] at ht
  rw [ht]
  exact ⟨rfl, rfl, rfl, rfl, rfl, rfl, rfl, rfl⟩

/-! ### Results by the state of the slot (04 R83) -/

theorem applyResults_discarded {s : State} {c : Computation} (h : (s.slot c.slot).state = .outgoing
    ∨ (s.slot c.slot).state = .vacant ∨ (s.slot c.slot).state = .faulted) : s.applyResults c = s := by
  rw [State.applyResults]
  cases (s.slot c.slot).record with
  | none => rfl
  | some r => rcases h with h | h | h <;> rw [h]

theorem applyResults_otherLoad {s : State} {c : Computation} (h : (s.slot c.slot).state = .loading) (hf : c.full = false) :
    s.applyResults c = s := by
  rw [State.applyResults]
  cases (s.slot c.slot).record with
  | none => rfl
  | some r => simp [h, hf]

section
variable {s : State} {c : Computation} {r : SceneRecord} (hr : (s.slot c.slot).record = some r)
include hr

theorem applyResults_load (h : (s.slot c.slot).state = .loading) (hf : c.full = true) :
    s.applyResults c = s.keepResults c r := by
  simp [State.applyResults, hr, h, hf]

theorem applyResults_ready (h : (s.slot c.slot).state = .ready) :
    s.applyResults c = s.keepResults { c with full := false } r := by
  simp [State.applyResults, hr, h]

theorem applyResults_live (h : (s.slot c.slot).state = .live) :
    s.applyResults c = (s.keepResults { c with full := false } r).glideSlot c.slot (c.glide.getD 32)
      (computeRecord r false c.tau c.beta).1.decay := by
  simp only [State.applyResults, hr, h]
  rfl

end

/-! ### The requesters are told (02 R33, 05 R97) -/

theorem tellLoader_other {s : State} {c : Computation} (h : c.loader = false ∨ c.full = false ∨ s.loader = none) :
    s.tellLoader c = s := by
  rcases h with h | h | h
  · exact if_neg (by simp [h])
  · exact if_neg (by simp [h])
  · have hn : s.completeLoad = s := by rw [State.completeLoad, h]
    rw [State.tellLoader, hn, ite_self]

theorem tellLoader_load {s : State} {c : Computation} {l : LoadRecord} (h : s.loader = some l) (hl : c.loader = true)
    (hf : c.full = true) : s.tellLoader c =
      (((s.onSlot l.target fun x => { x with state := .ready }).answerHeld l.cueSlot .done 0).raise .loadEnded
        l.target).setLoader none := by
  rw [State.tellLoader, hl, hf, State.completeLoad, h]
  rfl

theorem exec_computationComplete {s : State} {c : Computation} (h : s.due .compute) (hc : s.coef.underWay = some c) :
    let u := (((s.doing .compute).applyResults c).tellLoader c).tellChangeover c
    exec .computationComplete s = .next (u.setCoef { u.coef with underWay := none }).pick := by
  refine (released_of h.1 _).trans (congrArg _ ((doWork_of_due h (by decide) (by decide) (by decide)).trans ?_))
  have hc : (s.doing .compute).coef.underWay = some c := hc
  rw [State.perform, State.complete, hc]

/-! ### The results of a completion, field by field -/

/-- The results `x` are in the record of slot `k`, their flags beside its own, ARITH CLAMP is raised for those newly set, and
the rest but the engines is as before. -/
def State.keptIn (s : State) (k : Nat) (r : SceneRecord) (x : Computed × StatusFlags) (t : State) : Prop :=
  t.besideEngines = (s.slots.set k ((s.slot k).withResults r x), s.clampRaised k ((s.slot k).flags.newly x.2), s.ram, s.coef,
    s.net, s.trans, s.loader, s.cues)

theorem keepResults_keptIn {s : State} {c : Computation} {r : SceneRecord} (hr : (s.slot c.slot).record = some r)
    (hk : c.slot < s.slots.length) :
    s.keptIn c.slot r (computeRecord r c.full c.tau c.beta) (s.keepResults c r) := by
  obtain ⟨hram, hcoef, hnet, htrans, hloader, hcues, -⟩ := keepResults_rest s c r
  rw [State.keptIn, State.besideEngines, keepResults_slots hr hk, keepResults_att hk, hram, hcoef, hnet, htrans, hloader,
    hcues]

theorem keptIn_fields {s t : State} {k : Nat} {r : SceneRecord} {x : Computed × StatusFlags} (h : s.keptIn k r x t) :
    t.slots = s.slots.set k { s.slot k with
      record := some { r with computed := some x.1 }, flags := (s.slot k).flags.add x.2 }
    ∧ t.att = (if ((s.slot k).flags.newly x.2).byte = 0 then s.att
        else (s.raise .arithClamp (k + 256 * ((s.slot k).flags.newly x.2).byte)).att)
    ∧ t.ram = s.ram ∧ t.coef = s.coef ∧ t.net = s.net ∧ t.trans = s.trans ∧ t.loader = s.loader ∧ t.cues = s.cues := by
  simp only [State.keptIn, State.besideEngines, Prod.mk.injEq] at h
  exact h

/-- In LIVE, each engine of the map once its three glides start. -/
theorem applyResults_glides {s : State} {c : Computation} {r : SceneRecord} (hr : (s.slot c.slot).record = some r)
    (hk : c.slot < s.slots.length) (h : (s.slot c.slot).state = .live) :
    (r.engineMap = none → (s.applyResults c).engines = s.engines)
    ∧ ∀ es, r.engineMap = some es → es.Nodup →
      (∀ i, i ∉ es → (s.applyResults c).engines[i]? = s.engines[i]?)
      ∧ ∀ (j i : Nat) (e : Engine), es[j]? = some i → s.engines[i]? = some e →
        (s.applyResults c).engines[i]? = some (e.glided s.todo i
          ((computeRecord r false c.tau c.beta).1.decay.getD j ⟨0, 0, 0⟩) (c.glide.getD 32)) := by
  obtain ⟨-, -, -, -, -, -, he, ht⟩ := keepResults_rest s { c with full := false } r
  have hm : ((s.keepResults { c with full := false } r).slot c.slot).record.bind (·.engineMap) = r.engineMap := by
    rw [keepResults_slot (c := { c with full := false }) hr hk]
    rfl
  rw [applyResults_live hr h]
  refine ⟨fun hn => ?_, fun es hes hd => ?_⟩
  · rw [glideSlot_none (hm.trans hn), he]
  · rw [glideSlot_some (hm.trans hes)]
    refine ⟨fun i hi => ?_, fun j i e hj hi => ?_⟩
    · rw [glideEngines_other _ _ hi, he]
    · rw [glideEngines_engine _ _ hd hj (by rwa [he]), ht, Nat.zero_add]

/-- Settles O31: what one computation's results do by the state of their slot, then the requesters and the pick. -/
theorem computationCompletes : Obligations.ComputationCompletes := by
  refine ⟨?completion, ?results, ?told, ?requests⟩
  case completion =>
    intro s c h hc u
    refine ⟨exec_computationComplete h hc, applyResults_discarded, applyResults_otherLoad, fun r hr hs hk => ?_⟩
    obtain ⟨hram, -, -, -, -, -, he, -⟩ := keepResults_rest s { c with full := false } r
    rw [applyResults_ready hr hs, keepResults_slot (c := { c with full := false }) hr hk]
    exact ⟨rfl, rfl, he, hram⟩
  case results =>
    intro s c r hr hk t kept
    refine ⟨fun hs hf => ?loading, fun hs => ?ready, fun hs => ?live⟩
    case loading =>
      have ht : t = s.keepResults c r := applyResults_load hr hs hf
      obtain ⟨-, -, -, -, hloader, -, he, -⟩ := keepResults_rest s c r
      rw [← ht] at hloader he
      have hkept := keepResults_keptIn hr hk
      rw [← ht, hf] at hkept
      exact ⟨keptIn_fields hkept, he, fun l hl hc => tellLoader_load (hloader.trans hl) hc hf⟩
    case ready =>
      have ht : t = s.keepResults { c with full := false } r := applyResults_ready hr hs
      have hkept := keepResults_keptIn (c := { c with full := false }) hr hk
      rw [← ht] at hkept
      exact keptIn_fields hkept
    case live =>
      have hkept : s.keptIn c.slot r (computeRecord r false c.tau c.beta) t := by
        have ht : t = _ := applyResults_live hr hs
        rw [ht, State.keptIn, glideSlot_besideEngines]
        exact keepResults_keptIn (c := { c with full := false }) hr hk
      exact ⟨keptIn_fields hkept, applyResults_glides hr hk hs⟩
  case told =>
    intro s c
    exact ⟨tellLoader_other, fun h => if_pos h, fun h => if_neg (by rw [h]; decide)⟩
  case requests =>
    intro s q started serves entry
    exact ⟨pick_eq s, fun h => request_idle h q, fun h =>
      ⟨fun hq => (request_busy h q).trans (by rw [enterRequest_new hq]),
        fun hq => (request_busy h q).trans (by rw [enterRequest_merged hq])⟩⟩

end Sys2Proof.Machine
end

section
/-! PROOFS. Output samples stay in range, and scrubbing (03 R53, R67). -/

namespace Sys2Proof.Machine

/-! ### Speaker output samples (03 R67) -/

/-- Saturation to the lane's range, as the spec writes it. -/
theorem satSpeaker_eq (v : Int) : satSpeaker v = max (-8388607) (min 8388607 v) := by
  unfold satSpeaker
  split_ifs <;> omega

theorem silence_in_range {v : Int} {n : Nat} (h : v ∈ List.replicate n (0 : Int)) : -8388607 ≤ v ∧ v ≤ 8388607 := by
  obtain rfl := List.eq_of_mem_replicate h
  decide

theorem reset_outputsInRange : outputsInRange OutputLanes.reset := fun _ h => h.elim silence_in_range silence_in_range

/-- Samples formed anew leave those on the lanes as they are. -/
theorem outputsInRange_formed {o : OutputLanes} (h : outputsInRange o) {l : List Int}
    (hl : ∀ v ∈ l, -8388607 ≤ v ∧ v ≤ 8388607) : outputsInRange { o with formed := l } :=
  fun v hv => hv.elim (hl v) fun hs => h v (.inr hs)

theorem outputsInRange_saturated {o : OutputLanes} (h : outputsInRange o) (l : List Int) :
    outputsInRange { o with formed := l.map satSpeaker } := by
  refine outputsInRange_formed h fun v hv => ?_
  obtain ⟨x, -, rfl⟩ := List.mem_map.1 hv
  rw [satSpeaker_eq]
  omega

/-- Only a sample period and the resets write the output samples; every other update keeps them. -/
theorem outputsInRange_closed : Closed fun s => outputsInRange s.outputs := by
  refine' {
    silent := fun _ h => outputsInRange_formed h fun _ => silence_in_range
    formed := fun _ l h => outputsInRange_saturated h l
    sent := fun _ h v hv => h v (.inl (or_self_iff.1 hv))
    held := fun _ _ => reset_outputsInRange
    release := fun _ _ => reset_outputsInRange
    cleared := fun _ h => outputsInRange_formed h fun _ => silence_in_range
    .. } <;> intros <;> assumption

/-- Settles O6, by the updates that a step is made of. -/
theorem outputsStayInRange : Obligations.OutputsStayInRange :=
  fun _ _ h => outputsInRange_closed.step (fun _ _ h => h) h

/-! ### Events of works that are due -/

/-- The event that a work due now is, is that work, done alone. -/
theorem eventWork_of_due {s : State} {w : Work} {c : Bool} (hc : c = true) (h : s.due w) (ht : w ≠ .take) (hg : w ≠ .gap)
    (hp : w ≠ .publish) : s.eventWork w c = (s.doing w).perform w := by
  rw [hc, eventWork_true, doWork_of_due h ht hg hp]

/-! ### Scrubbing (03 R53) -/

/-- A scrub step before the sixteenth. -/
theorem scrubStep_early {e : Engine} {k : Nat} (h : e.scrub = some k) (hk : k < 15) : e.scrubStep =
    { e with region := sparseClear (2048 * k) (2048 * (k + 1)) e.region, scrub := some (k + 1) } := by
  rw [Engine.scrubStep, h]
  exact if_pos (Nat.succ_lt_succ hk)

/-- The sixteenth scrub step. -/
theorem scrubStep_last {e : Engine} (h : e.scrub = some 15) : e.scrubStep = .free := by
  rw [Engine.scrubStep, h]
  rfl

/-- A change of an engine that exists writes its entry alone. -/
theorem onEngine_eq {s : State} {i : Nat} {e : Engine} (h : s.engines[i]? = some e) (f : Engine → Engine) :
    s.onEngine i f = s.setEngines (s.engines.set i (f e)) := by
  rw [State.onEngine, List.modify_eq_set_getElem?, h]
  rfl

theorem exec_scrubEnd {s : State} {i : Nat} {e : Engine} (hi : i < 32) (h : s.due (.scrub i))
    (he : s.engines[i]? = some e) (hk : e.scrub = some 15) :
    exec (.scrubEnd i) s = .next ((s.doing (.scrub i)).setEngines (s.engines.set i .free)) := by
  have hlast : ((s.engines.getD i .free).scrub.any fun k => decide (Config.scrubSteps ≤ k + 1)) = true := by
    rw [List.getD_eq_getElem?_getD, he, Option.getD_some, hk]
    rfl
  refine (forUnit_of h.1 (decide_eq_true hi) _).trans (congrArg _ ?_)
  refine (eventWork_of_due hlast h (by simp) (by simp) (by simp)).trans ((onEngine_eq (s := s.doing (.scrub i)) he _).trans ?_)
  rw [scrubStep_last hk, doing_engines]

/-- Settles O39: a step clears its chunk of the region, the sixteenth frees the engine. -/
theorem scrubbingClearsTheRegion : Obligations.ScrubbingClearsTheRegion := by
  refine ⟨fun e k hk h15 hwf => ?_, fun s i e hi h he hk => exec_scrubEnd hi h he hk⟩
  rw [scrubStep_early hk h15]
  refine ⟨rfl, fun a => (sparseRead_sparseClear hwf ..).trans (if_congr ?_ rfl rfl)⟩
  omega

end Sys2Proof.Machine
end

section
/-! PROOFS. Drains, releases, fades and tails: the ends of changeovers (03 R51, R52, 05 R103 to R112). -/

namespace Sys2Proof.Machine

/-! ### One slot -/

theorem slot_onSlot_ne (s : State) {k i : Nat} (h : i ≠ k) (f : Slot → Slot) : (s.onSlot k f).slot i = s.slot i := by
  simp only [State.slot, State.onSlot, State.setSlots_slots, List.getD_eq_getElem?_getD, List.getElem?_modify, if_neg h.symm,
    id_map']

theorem clampedBit_eq (c : Bool) : clampedBit c = if c then 2 ^ 31 else 0 := by cases c <;> rfl

/-! ### Drain (03 R51) -/

theorem engine_drain_eq (k : Nat) : Engine.drain k = fun e =>
    if e.owner = some k ∧ e.state = .assigned then { e with state := .draining } else e :=
  funext fun e => if_congr (by simp) rfl rfl

/-- A slot with an ASSIGNED engine drains. -/
theorem drainSlot_assigned {s : State} {k : Nat} (h : ∃ e ∈ s.engines, e.owner = some k ∧ e.state = .assigned) :
    s.drainSlot k = (s.setEngines (s.engines.map fun e =>
      if e.owner = some k ∧ e.state = .assigned then { e with state := .draining } else e)).setNet { s.net with
        draining := s.net.draining ++ [(k, s.frame)]
        play := s.net.play.modify k fun p => p.map fun p => { p with send := 0 } } := by
  rw [State.drainSlot, if_pos (by simpa using h), engine_drain_eq]
  rfl

theorem drainSlot_unassigned {s : State} {k : Nat} (h : ∀ e ∈ s.engines, ¬ (e.owner = some k ∧ e.state = .assigned)) :
    s.drainSlot k = s := by
  rw [State.drainSlot, if_neg (by simpa using h)]

/-! ### Release (03 R52) -/

theorem ownsEngines_iff {s : State} {k : Nat} : s.ownsEngines k = true ↔ ∃ e ∈ s.engines, e.owner = some k := by
  simp [State.ownsEngines]

/-- A slot that owns engines is released. -/
theorem releaseSlot_owner {s : State} {k : Nat} (h : s.ownsEngines k = true) :
    s.releaseSlot k = ((s.setEngines (s.engines.map fun e => if e.owner = some k then
      { e with state := .scrubbing, owner := none, line := none, scrub := some 0, glides := ⟨none, none, none⟩ }
      else e)).onSlot k fun x => { x with record := x.record.map fun r => { r with engineMap := none } }).setNet
        { s.net with play := s.net.play.set k none, draining := s.net.draining.filter fun d => d.1 != k } := by
  rw [State.releaseSlot, if_pos h]
  rfl

theorem releaseSlot_idle {s : State} {k : Nat} (h : ∀ e ∈ s.engines, e.owner ≠ some k) : s.releaseSlot k = s := by
  rw [State.releaseSlot, if_neg]
  rw [ownsEngines_iff]
  exact fun ⟨e, he, ho⟩ => h e he ho

/-! ### Fades (05 R103) -/

theorem rise_self {g : Nat} (h : 0 < g) : rise g g = 32768 :=
  Nat.div_eq_of_lt_le (by omega) (by omega)

theorem fall_self {g : Nat} (h : 0 < g) : fall g g = 0 := by rw [fall, rise_self h]

section
variable {s : State} {t : Transition} (h : s.trans = some t)
include h

theorem fadeStep_fade (hp : t.phase = .fade) : s.fadeStep =
    let v := ((s.setTrans (some { t with position := t.position + 1 })).fadeSlot t.target fun x =>
      { x with send := rise (t.position + 1) t.fade }).fadeSlot t.source fun x =>
        { x with send := fall (t.position + 1) t.fade }
    if t.fade ≤ t.position + 1 then v.endChangeover { t with position := t.position + 1 } else v := by
  rw [State.fadeStep, h]
  simp only [hp]

theorem fadeStep_out (hp : t.phase = .out) : s.fadeStep =
    let v := (s.setTrans (some { t with position := t.position + 1 })).fadeSlot t.source fun _ =>
      ⟨fall (t.position + 1) t.outLength, fall (t.position + 1) t.outLength⟩
    if t.outLength ≤ t.position + 1 then v.endOut { t with position := t.position + 1 } else v := by
  rw [State.fadeStep, h]
  simp only [hp]

theorem fadeStep_in (hp : t.phase = .in_) : s.fadeStep =
    let v := (s.setTrans (some { t with position := t.position + 1 })).fadeSlot t.target fun _ =>
      ⟨rise (t.position + 1) t.inLength, rise (t.position + 1) t.inLength⟩
    if t.inLength ≤ t.position + 1 then v.endChangeover { t with position := t.position + 1 } else v := by
  rw [State.fadeStep, h]
  simp only [hp]

theorem fadeStep_waiting (hp : t.phase = .prepare ∨ t.phase = .claim) : s.fadeStep = s := by
  rw [State.fadeStep, h]
  rcases hp with hp | hp <;> simp only [hp]

end

/-! ### The ends of FADE, IN and OUT (05 R105, R107) -/

theorem finishChangeover_eq (s : State) (t : Transition) : s.finishChangeover t =
    (((s.answerHeld t.cueSlot .done (if t.clamped then 2 ^ 31 else 0)).raise .changeoverEnded
      (t.target.getD 255 + 256 * t.source.getD 255
        + 65536 * if t.style = some .sequential then 1 else 0)).clearPersistence).setTrans none := by
  rw [State.finishChangeover, clampedBit_eq]

theorem exec_changeoverEnd {s : State} {t : Transition} (h : s.due .fade) (ht : s.trans = some t)
    (hl : t.phase = .fade ∧ t.fade ≤ t.position + 1 ∨ t.phase = .in_ ∧ t.inLength ≤ t.position + 1) :
    exec .changeoverEnd s = .next (s.doing .fade).fadeStep := by
  have hlast : (s.trans.any fun t => (t.phase == .fade && decide (t.fade ≤ t.position + 1))
      || (t.phase == .in_ && decide (t.inLength ≤ t.position + 1))) = true := by
    simpa [ht] using hl
  exact (released_of h.1 _).trans (congrArg _ (eventWork_of_due hlast h (by decide) (by decide) (by decide)))

theorem exec_outEnd {s : State} {t : Transition} (h : s.due .fade) (ht : s.trans = some t) (hp : t.phase = .out)
    (hl : t.outLength ≤ t.position + 1) : exec .outEnd s = .next (s.doing .fade).fadeStep := by
  have hlast : (s.trans.any fun t => t.phase == .out && decide (t.outLength ≤ t.position + 1)) = true := by
    simp [ht, hp, hl]
  exact (released_of h.1 _).trans (congrArg _ (eventWork_of_due hlast h (by decide) (by decide) (by decide)))

/-! ### The largest effective time (02 R20) -/

/-- A running maximum bounds what it ran over and is one of its values. -/
theorem foldl_max_spec {α : Type} (f : α → Nat) : ∀ (l : List α) (b : Nat),
    b ≤ l.foldl (fun m t => max m (f t)) b ∧ (∀ t ∈ l, f t ≤ l.foldl (fun m t => max m (f t)) b)
      ∧ (l.foldl (fun m t => max m (f t)) b = b ∨ ∃ t ∈ l, l.foldl (fun m t => max m (f t)) b = f t)
  | [], _ => ⟨le_rfl, by simp, .inl rfl⟩
  | x :: l, b => by
    obtain ⟨hb, hl, he⟩ := foldl_max_spec f l (max b (f x))
    simp only [List.foldl_cons, List.mem_cons, forall_eq_or_imp, exists_eq_or_imp]
    refine ⟨by omega, ⟨by omega, hl⟩, ?_⟩
    rcases he with he | he
    · omega
    · exact .inr (.inr he)

theorem longest_of_computed {x : Slot} {c : Computed} (h : x.record.bind (·.computed) = some c) :
    x.longest = c.times.foldl (fun m t => max m (max t.lf (max t.mf t.hf))) 0 := by
  rw [Slot.longest, h]
  rfl

theorem longest_spec {x : Slot} {c : Computed} (h : x.record.bind (·.computed) = some c) :
    (∀ v ∈ c.times, v.lf ≤ x.longest ∧ v.mf ≤ x.longest ∧ v.hf ≤ x.longest)
      ∧ (x.longest = 0 ∨ ∃ v ∈ c.times, x.longest = v.lf ∨ x.longest = v.mf ∨ x.longest = v.hf) := by
  obtain ⟨-, hle, he⟩ := foldl_max_spec (fun t : Bands Nat => max t.lf (max t.mf t.hf)) c.times 0
  rw [← longest_of_computed h] at hle he
  refine ⟨fun v hv => ?_, he.imp_right fun ⟨v, hv, he⟩ => ⟨v, hv, ?_⟩⟩
  · have := hle v hv
    omega
  · omega

/-! ### What changeovers do at their ends -/

/-- At the end of FADE the source drains, if there is one. -/
theorem endChangeover_fade (s : State) {t : Transition} (hp : t.phase = .fade) : s.endChangeover t =
    (match t.source with
      | some x => s.drainSource x
      | none => s).finishChangeover t := by
  rw [State.endChangeover, hp]
  cases t.source <;> rfl

theorem endChangeover_in (s : State) {t : Transition} (hp : t.phase = .in_) : s.endChangeover t = s.finishChangeover t := by
  rw [State.endChangeover, hp]

/-- The last step of FADE: the source drains, with its tail. -/
theorem fadeStep_fade_last {s : State} {t : Transition} (h : s.trans = some t) (hp : t.phase = .fade)
    (hl : t.position + 1 = t.fade) : s.fadeStep =
      let v := ((s.setTrans (some { t with position := t.position + 1 })).fadeSlot t.target fun p =>
        { p with send := 32768 }).fadeSlot t.source fun p => { p with send := 0 }
      (match t.source with
        | some x => v.drainSource x
        | none => v).finishChangeover t := by
  have hpos : 0 < t.fade := hl ▸ Nat.succ_pos _
  rw [fadeStep_fade h hp, if_pos hl.ge]
  refine (endChangeover_fade _ (t := { t with position := t.position + 1 }) hp).trans ?_
  rw [hl, rise_self hpos, fall_self hpos]
  rfl

theorem fadeStep_in_last {s : State} {t : Transition} (h : s.trans = some t) (hp : t.phase = .in_)
    (hl : t.position + 1 = t.inLength) : s.fadeStep =
      ((s.setTrans (some { t with position := t.position + 1 })).fadeSlot t.target fun _ => ⟨32768, 32768⟩).finishChangeover
        t := by
  rw [fadeStep_in h hp, if_pos hl.ge]
  refine (endChangeover_in _ (t := { t with position := t.position + 1 }) hp).trans ?_
  rw [hl, rise_self (hl ▸ Nat.succ_pos _)]
  rfl

/-- The last step of OUT: the source is silent, released and READY. -/
theorem fadeStep_out_last {s : State} {t : Transition} {x : Nat} (h : s.trans = some t) (hp : t.phase = .out)
    (hx : t.source = some x) (hl : t.position + 1 = t.outLength) : s.fadeStep =
      ((((((s.setTrans (some { t with position := t.position + 1 })).fadeSlot (some x) fun _ => ⟨0, 0⟩).releaseSlot x).onSlot x
        fun y => { y with state := .ready }).setTrans (some { t with phase := .claim, position := 0 }))).standClaim := by
  rw [fadeStep_out h hp, if_pos hl.ge, hl, fall_self (hl ▸ Nat.succ_pos _)]
  simp only [State.endOut, hx]
  rfl

/-- Settles O36: the ends and the steps of FADE, OUT and IN by phase, then drains, releases and the largest times. -/
theorem changeoversAndOutEnd : Obligations.ChangeoversAndOutEnd := by
  refine ⟨?ends, ?steps, fun s k => ⟨drainSlot_assigned, drainSlot_unassigned,
    fun h => releaseSlot_owner (ownsEngines_iff.2 h), releaseSlot_idle, rfl, rfl, ?none, fun x c => longest_spec⟩⟩
  case ends =>
    intro s t h ht u finish out
    refine ⟨fun hp hl => ?fade, fun hp hl => ?in_, fun x hp hx hl => ?out⟩
    case fade =>
      intro v
      rw [exec_changeoverEnd h ht (.inl ⟨hp, hl.ge⟩), fadeStep_fade_last (s := s.doing .fade) ht hp hl]
      exact congrArg _ (finishChangeover_eq ..)
    case in_ =>
      rw [exec_changeoverEnd h ht (.inr ⟨hp, hl.ge⟩), fadeStep_in_last (s := s.doing .fade) ht hp hl]
      exact congrArg _ (finishChangeover_eq ..)
    case out =>
      rw [exec_outEnd h ht hp hl.ge, fadeStep_out_last (s := s.doing .fade) ht hp hx hl]
  case steps =>
    intro s t ht p u out length up fades
    have hfades (v : State) (k : Option ℕ) (f : Play → Play) : v.fadeSlot k f = fades v k f := by cases k <;> rfl
    refine ⟨hfades, fun hp hl => ?fading, fun hp hl => ?outgoing, fun hp hl => ?incoming,
      fadeStep_waiting ht⟩
    case fading =>
      refine (fadeStep_fade ht hp).trans ((if_neg (Nat.not_le.2 hl)).trans ?_)
      rw [← hfades, ← hfades]
      rfl
    case outgoing =>
      refine (fadeStep_out ht hp).trans ((if_neg (Nat.not_le.2 hl)).trans ?_)
      rw [← hfades]
      rfl
    case incoming =>
      refine (fadeStep_in ht hp).trans ((if_neg (Nat.not_le.2 hl)).trans ?_)
      rw [← hfades]
      rfl
  case none =>
    intro x h
    rw [Slot.longest, h]

/-! ### Tails (05 R110 to R112) -/

theorem tailStep_hold {s : State} {k n : Nat} (h : s.tailOf k = some ⟨k, .hold n⟩) : s.tailStep k =
    if n ≤ 1 then s.startClosing k
    else s.setTails (s.tails.map fun x => if x.slot = k then { x with stage := .hold (n - 1) } else x) := by
  rw [State.tailStep, h]

/-- One closing step of a tail, before its end is looked for (05 R111). -/
def State.closeTo (s : State) (k o0 j : Nat) : State :=
  (s.setTails (s.tails.map fun x => if x.slot = k then { x with stage := .closing o0 j } else x)).onPlay k fun p =>
    { p with output := closingFade o0 j }

theorem tailStep_closing {s : State} {k o0 j : Nat} (h : s.tailOf k = some ⟨k, .closing o0 j⟩) : s.tailStep k =
    if 8 ≤ j + 1 then (s.closeTo k o0 (j + 1)).endTail k else s.closeTo k o0 (j + 1) := by
  rw [State.tailStep, h]
  rfl

theorem startClosing_tails (s : State) (k : Nat) : (s.startClosing k).tails = s.tails.map fun x =>
    if x.slot = k ∧ x.holding = true then { x with stage := .closing (((s.playOf k).map (·.output)).getD 0) 0 } else x :=
  List.map_congr_left fun _ _ => if_congr (by simp) rfl rfl

/-- A tail that is removed leaves nothing of its last step. -/
theorem closeTo_tails_filter (s : State) (k o0 j : Nat) :
    (s.closeTo k o0 j).tails.filter (fun x => x.slot != k) = s.tails.filter fun x => x.slot != k := by
  show (s.tails.map fun x : Tail => if x.slot = k then { x with stage := .closing o0 j } else x).filter _ = _
  induction s.tails with
  | nil => rfl
  | cons x l ih =>
    by_cases h : x.slot = k
    · simp [h, ih]
    · simp [h, ih]

theorem exec_holdExpiry {s : State} {k : Nat} (hk : k < 8) (h : s.due (.tail k)) (ht : s.tailOf k = some ⟨k, .hold 1⟩) :
    exec (.holdExpiry k) s = .next ((s.doing (.tail k)).startClosing k) := by
  have hlast : (s.tailOf k).any Tail.expires = true := by rw [ht]; rfl
  refine (forUnit_of h.1 (decide_eq_true hk) _).trans (congrArg _ ?_)
  exact (eventWork_of_due hlast h (by simp) (by simp) (by simp)).trans (tailStep_hold (s := s.doing (.tail k)) ht)

theorem exec_closingEnd {s : State} {k o0 : Nat} (hk : k < 8) (h : s.due (.tail k))
    (ht : s.tailOf k = some ⟨k, .closing o0 7⟩) :
    exec (.closingEnd k) s = .next (((s.doing (.tail k)).closeTo k o0 8).endTail k) := by
  have hlast : (s.tailOf k).any Tail.closes = true := by rw [ht]; rfl
  refine (forUnit_of h.1 (decide_eq_true hk) _).trans (congrArg _ ?_)
  exact (eventWork_of_due hlast h (by simp) (by simp) (by simp)).trans (tailStep_closing (s := s.doing (.tail k)) ht)

/-- The end of a tail whose slot owns engines: the release, READY, and the entry's removal (05 R112). -/
theorem endTail_owner {s : State} {k : Nat} (h : s.ownsEngines k = true) (hk : k < s.slots.length)
    (hp : k < s.net.play.length) :
    let t := s.endTail k
    t.tails = s.tails.filter (fun x => x.slot != k) ∧ (t.slot k).state = .ready ∧ t.playOf k = none
      ∧ t.net.draining = s.net.draining.filter (fun d => d.1 != k)
      ∧ t.engines = s.engines.map (fun e => if e.owner = some k then
          { e with state := .scrubbing, owner := none, line := none, scrub := some 0, glides := ⟨none, none, none⟩ } else e)
      ∧ (∀ i, i ≠ k → t.slot i = s.slot i) ∧ t.ram = s.ram ∧ t.att = s.att := by
  simp only [State.endTail, releaseSlot_owner h]
  refine ⟨rfl, congrArg Slot.state (slot_onSlot_same _ (by simpa [State.onSlot] using hk) _), ?_, rfl, rfl,
    fun i hi => (slot_onSlot_ne _ hi _).trans (slot_onSlot_ne _ hi _), rfl, rfl⟩
  show (s.net.play.set k none).getD k none = none
  rw [List.getD_eq_getElem?_getD, List.getElem?_set_self hp, Option.getD_some]

/-- Settles O38: the last frame of a hold, the last step of a closing, and the frames and steps before. -/
theorem tailsEnd : Obligations.TailsEnd := by
  refine ⟨fun s k o0 hk h hs hp => ⟨fun ht => ?expiry, fun ht ho => ?ending⟩,
    fun s k n o0 j => ⟨fun ht hn => ?hold, fun ht hj => ?closing⟩⟩
  case expiry => exact ⟨_, exec_holdExpiry hk h ht, startClosing_tails .., rfl, rfl, rfl, rfl⟩
  case ending =>
    obtain ⟨htails, hstate, hplay, hdrain, hengines, hslots, hram, hatt⟩ :=
      endTail_owner (s := (s.doing (.tail k)).closeTo k o0 8) ho (hk.trans_eq hs.symm)
        (by simpa [State.closeTo, State.onPlay] using hk.trans_eq hp.symm)
    exact ⟨_, exec_closingEnd hk h ht, htails.trans (closeTo_tails_filter ..), hstate, hplay, hdrain, hengines, hslots, hram,
      hatt⟩
  case hold => exact (tailStep_hold ht).trans (if_neg (by omega))
  case closing => exact (tailStep_closing ht).trans (if_neg (by omega))

end Sys2Proof.Machine
end

section
/-! PROOFS. The claim, the plan and its cuts (03 R49, 05 R98 to R102, R106, R113). -/

namespace Sys2Proof.Machine

/-! ### The FREE engines (03 R49) -/

/-- The indices at which a list has what `p` asks, in rising order. -/
theorem map_snd_filter_zipIdx {α : Type} (p : α → Bool) (l : List α) :
    (l.zipIdx.filter fun e => p e.1).map (·.2) = (List.range l.length).filter fun i => (l[i]?).any p := by
  have hp : ∀ e ∈ l.zipIdx, p e.1 = ((fun i => (l[i]?).any p) ∘ Prod.snd) e := fun e he => by
    rw [Function.comp_apply, List.mk_mem_zipIdx_iff_getElem?.1 he, Option.any_some]
  rw [List.filter_congr hp, ← List.filter_map, List.zipIdx_map_snd, List.range_eq_range']

theorem freeEngines_eq (es : List Engine) : freeEngines es =
    (List.range es.length).filter fun i => (es[i]?).any fun e => e.state == .free :=
  map_snd_filter_zipIdx (fun e : Engine => e.state == .free) es

theorem freeEngines_nodup (es : List Engine) : (freeEngines es).Nodup := by
  rw [freeEngines_eq]
  exact List.nodup_range.filter _

theorem freeEngines_length (es : List Engine) : (freeEngines es).length = countEngines .free es := by
  rw [freeEngines, List.length_map, ← List.countP_eq_length_filter, countEngines]
  conv_rhs => rw [← List.zipIdx_map_fst 0 es, List.countP_map]
  rfl

/-! ### The claim (03 R49, 05 R101, R102) -/

theorem claimEngines_other {slot i : Nat} {r : SceneRecord} {map : List Nat} (h : i ∉ map) (es : List Engine) :
    (claimEngines slot r map es)[i]? = es[i]? := by
  have hf : map.findIdx? (· == i) = none := List.findIdx?_eq_none_iff.2 fun x hx => by
    simpa using fun hxi : x = i => h (hxi ▸ hx)
  simp [claimEngines, hf]

theorem claimEngines_claimed {slot i j : Nat} {r : SceneRecord} {map : List Nat} {es : List Engine} {e : Engine}
    (hn : map.Nodup) (hj : map[j]? = some i) (he : es[i]? = some e) :
    (claimEngines slot r map es)[i]? = some (e.claimFor slot j (r.lines.getD j ⟨0, 0, 0, ⟨none, none, none⟩⟩)
      (((r.computed.map (·.decay)).getD []).getD j ⟨0, 0, 0⟩)) := by
  have hf : map.findIdx? (· == i) = some j := by
    obtain ⟨hlt, hji⟩ := List.getElem?_eq_some_iff.1 hj
    refine List.findIdx?_eq_some_iff_getElem.2 ⟨hlt, by simpa using hji, fun m hm => ?_⟩
    simpa [← hji] using fun hmj => hm.ne ((hn.getElem_inj_iff).1 hmj)
  simp [claimEngines, he, hf]

/-- What the claim of a target does beside the slots. -/
theorem claimTarget_rest (s : State) (t : Transition) (k : Nat) (r : SceneRecord) :
    let u := s.claimTarget t k r
    u.trans = some { t with phase := if t.style = some .overlap then .fade else .in_, position := 0 }
      ∧ u.engines = claimEngines k r ((freeEngines s.engines).take r.lineCount) s.engines
      ∧ u.net = { s.net with play := s.net.play.set k (some ⟨0, if t.style = some .overlap then 32768 else 0⟩) }
      ∧ u.ram = s.ram ∧ u.att = s.att ∧ u.tails = s.tails ∧ u.todo = s.todo := by
  by_cases h : t.style = some .overlap
  · simp only [State.claimTarget, h]
    cases t.source <;> exact ⟨rfl, rfl, rfl, rfl, rfl, rfl, rfl⟩
  · have hb : (t.style == some .overlap) = false := by simpa using h
    simp only [State.claimTarget, hb, if_neg h]
    exact ⟨rfl, rfl, rfl, rfl, rfl, rfl, rfl⟩

/-- The target once it is claimed and LIVE. -/
theorem claimed_slot (s : State) {k : Nat} (hk : k < s.slots.length) (r : SceneRecord) (p : Play) :
    ((s.claimSlot k r p).setSlotState k .live).slot k = { s.slot k with
      state := .live
      record := (s.slot k).record.map fun x =>
        { x with engineMap := some ((freeEngines s.engines).take r.lineCount) } } := by
  refine (slot_onSlot_same _ (by simpa [State.claimSlot, State.onSlot] using hk) _).trans ?_
  refine congrArg (fun x : Slot => { x with state := .live }) (slot_onSlot_same _ hk _)

/-- The slots after the claim of a target. -/
theorem claimTarget_slot (s : State) (t : Transition) (k : Nat) (r : SceneRecord) (i : Nat) :
    (s.claimTarget t k r).slot i =
      let p : Play := ⟨0, if t.style = some .overlap then 32768 else 0⟩
      let y := (s.claimSlot k r p).setSlotState k .live
      (if t.style = some .overlap then y.retire t.source else y).slot i := by
  by_cases h : t.style = some .overlap
  · simp only [State.claimTarget, h]
    rfl
  · have hb : (t.style == some .overlap) = false := by simpa using h
    simp only [State.claimTarget, hb, if_neg h]
    rfl

theorem setSlotState_record (s : State) (k : Nat) (st : SlotState) (i : Nat) :
    ((s.setSlotState k st).slot i).record = (s.slot i).record := by
  rcases eq_or_ne i k with rfl | h
  · by_cases hi : i < s.slots.length
    · exact (congrArg Slot.record (slot_onSlot_same s hi _)).trans rfl
    · simp [State.slot, State.setSlotState, State.onSlot, hi]
  · exact (congrArg Slot.record (slot_onSlot_ne s h _)).trans rfl

theorem retire_record (s : State) (source : Option Nat) (i : Nat) : ((s.retire source).slot i).record = (s.slot i).record := by
  cases source with
  | none => rfl
  | some x => exact setSlotState_record s x .outgoing i

theorem retire_slot_ne (s : State) {source : Option Nat} {i : Nat} (h : source ≠ some i) :
    (s.retire source).slot i = s.slot i := by
  cases source with
  | none => rfl
  | some x => exact slot_onSlot_ne s (fun hi => h (congrArg some hi.symm)) _

/-! ### Cuts (05 R99, R113) -/

theorem tailOf_holding_iff {s : State} {k : Nat} : (s.tailOf k).any (·.holding) = true ↔
    ∃ n, s.tails.find? (fun x => x.slot == k) = some ⟨k, .hold n⟩ := by
  unfold State.tailOf
  cases h : s.tails.find? (fun x => x.slot == k) with
  | none => simp
  | some x =>
    obtain ⟨slot, stage⟩ := x
    obtain rfl : slot = k := by simpa using List.find?_some h
    cases stage <;> simp [Tail.holding]

/-! ### The plan (05 R98) -/

theorem plan_eq {s : State} {t : Transition} {k : Nat} {r : SceneRecord} (ht : s.trans = some t) (hp : t.phase = .prepare)
    (hk : t.target = some k) (hr : (s.slot k).record = some r) : s.plan =
      let free := countEngines .free s.engines
      let scrub := countEngines .scrubbing s.engines
      let drain := countEngines .draining s.engines
      if r.lineCount ≤ free then s.claimTarget { t with style := some .overlap } k r
      else if r.lineCount ≤ free + scrub + drain then
        (cutWalk r.lineCount (s.net.draining.map (·.1)) (free + scrub + s.closingEngines)
          (s.setTrans (some { t with style := some .overlap, phase := .claim }))).standClaim
      else
        ((s.net.draining.map (·.1)).foldl State.cutSlot
          (s.setTrans (some { t with style := some .sequential, phase := .out, position := 0 }))).retire t.source := by
  rw [State.plan, ht]
  dsimp only
  rw [hp, hk]
  dsimp only
  rw [hr]

/-! ### The claim's command (05 R101) -/

theorem exec_claim {s : State} {t : Transition} {k : Nat} {r : SceneRecord} (h : s.due .claim) (ht : s.trans = some t)
    (hp : t.phase = .claim) (hk : t.target = some k) (hr : (s.slot k).record = some r)
    (hn : r.lines.length ≤ countEngines .free s.engines) :
    exec .claim s = .next ((s.doing .claim).claimTarget t k r) := by
  have hc : (s.trans.any fun t => t.phase == .claim && t.target.any fun k =>
      decide ((s.slot k).lineCount ≤ countEngines .free s.engines)) = true := by
    simpa [ht, hp, hk, Slot.lineCount, hr, SceneRecord.lineCount] using hn
  refine (released_of h.1 _).trans (congrArg _ ((eventWork_of_due hc h (by decide) (by decide) (by decide)).trans ?_))
  have ht' : (s.doing .claim).trans = some t := ht
  have hr' : ((s.doing .claim).slot k).record = some r := hr
  rw [State.perform, State.tryClaim, ht']
  dsimp only
  rw [hp, hk]
  dsimp only
  rw [hr']
  exact if_pos hn

/-- Settles O35: the claim field by field, then the plan's three branches and the walk along the draining list. -/
theorem claimTakesTheLowestFreeEngines : Obligations.ClaimTakesTheLowestFreeEngines := by
  refine ⟨fun s t k r => exec_claim, ?claim, fun _ => rfl, ?plan, ?cuts⟩
  case claim =>
    intro s t k r hr hn hk hp map overlap u
    obtain ⟨htrans, hengines, hnet, hram, hatt, htails, htodo⟩ := claimTarget_rest s t k r
    have hmap : (freeEngines s.engines).take r.lineCount = map := congrArg (List.take _) (freeEngines_eq s.engines)
    rw [hmap] at hengines
    have hnodup : map.Nodup := hmap ▸ (freeEngines_nodup _).sublist (List.take_sublist _ _)
    have hslot := claimed_slot s hk r
    refine ⟨htrans, ?length, fun i hi => ?others, fun j i l e hj hl he => ?claimed, ?play, fun hs => ?live, ?map,
      fun x hx hlt ho => ?source, hram, hatt, (congrArg Network.draining hnet).trans rfl, htails, htodo⟩
    case length =>
      rw [← hmap, List.length_take, freeEngines_length]
      exact Nat.min_eq_left hn
    case others => rw [hengines, claimEngines_other hi]
    case claimed =>
      rw [hengines, claimEngines_claimed hnodup hj he, List.getD_eq_getElem?_getD, hl]
      rfl
    case play =>
      show u.net.play.getD k none = _
      rw [hnet, List.getD_eq_getElem?_getD, List.getElem?_set_self hp, Option.getD_some]
    case live =>
      rw [claimTarget_slot]
      dsimp only
      split_ifs
      · rw [retire_slot_ne _ hs, hslot]
      · rw [hslot]
    case map =>
      have hrec : (u.slot k).record = (((s.claimSlot k r ⟨0, if t.style = some .overlap then 32768 else 0⟩).setSlotState k
          .live).slot k).record := by
        rw [claimTarget_slot]
        dsimp only
        split_ifs
        · rw [retire_record]
        · rfl
      rw [hrec, hslot, hr, ← hmap]
      rfl
    case source =>
      have hstyle : t.style = some .overlap := ho
      simp only [u, claimTarget_slot, hstyle, if_true, hx]
      exact congrArg Slot.state (slot_onSlot_same _ (by simpa [State.claimSlot, State.setSlotState, State.onSlot] using hlt) _)
  case plan =>
    intro s t k r ht hp hk hr n free scrub drain closing list
    rw [plan_eq ht hp hk hr]
    refine ⟨fun hn => if_pos hn, fun hf hn => (if_neg (Nat.not_le.2 hf)).trans (if_pos hn), fun hn => ?_⟩
    have hfree : free < n := ((Nat.le_add_right free scrub).trans (Nat.le_add_right _ drain)).trans_lt hn
    refine (if_neg (Nat.not_le.2 hfree)).trans ((if_neg (Nat.not_le.2 hn)).trans ?_)
    cases t.source <;> rfl
  case cuts =>
    intro s k hold
    have hiff : (s.tailOf k).any (·.holding) = true ↔ hold := tailOf_holding_iff
    refine ⟨fun h => if_neg (hiff.not.2 h), fun h => ?cut, fun _ _ => rfl, fun n r rest h => if_pos h,
      fun n r rest hr h => ?passed, fun n r rest hr h => ?walked⟩
    case cut =>
      rw [State.cutSlot, if_pos (hiff.2 h)]
      refine ⟨(startClosing_tails s k).trans (List.map_congr_left fun x _ => ?_), rfl, rfl, rfl, rfl, rfl⟩
      exact if_ctx_congr Iff.rfl (fun hx => by rw [hx.1]) fun _ => rfl
    case passed => rw [cutWalk, if_neg (Nat.not_le.2 hr), if_neg (hiff.not.2 h)]
    case walked => rw [cutWalk, if_neg (Nat.not_le.2 hr), if_pos (hiff.2 h)]

end Sys2Proof.Machine
end

section
/-! PROOFS. The arithmetic of one line, one mixer, one scene and one microphone's filters for one sample (03 R45, R58 to R66, 06
R120, R121). -/

namespace Sys2Proof.Machine

theorem sat32_eq (v : ℤ) : sat32 v = max (-2147483648) (min 2147483647 v) := by
  unfold sat32
  split_ifs <;> omega

/-! ### The line output (03 R58) -/

/-- A weighted mean, rounded down, lies between its two values. -/
theorem interpolate_mem {x y f : ℤ} (h0 : 0 ≤ f) (h1 : f ≤ 65536) :
    min x y ≤ (x * (65536 - f) + y * f) / 65536 ∧ (x * (65536 - f) + y * f) / 65536 ≤ max x y := by
  have h2 : 0 ≤ 65536 - f := by omega
  have lower : min x y * (65536 - f) + min x y * f ≤ x * (65536 - f) + y * f :=
    add_le_add (mul_le_mul_of_nonneg_right (min_le_left x y) h2) (mul_le_mul_of_nonneg_right (min_le_right x y) h0)
  have upper : x * (65536 - f) + y * f ≤ max x y * (65536 - f) + max x y * f :=
    add_le_add (mul_le_mul_of_nonneg_right (le_max_left x y) h2) (mul_le_mul_of_nonneg_right (le_max_right x y) h0)
  have whole (m : ℤ) : m * (65536 - f) + m * f = m * 65536 := by ring
  rw [whole] at lower upper
  exact ⟨(Int.le_ediv_iff_mul_le (by decide)).2 lower, Int.ediv_le_of_le_mul (by decide) upper⟩

theorem lineRead_mem (e : Engine) :
    let i := (65536 * (e.loopLength : ℤ) + e.sweep) / 65536
    min (e.behind i) (e.behind (i + 1)) ≤ e.lineRead ∧ e.lineRead ≤ max (e.behind i) (e.behind (i + 1)) :=
  interpolate_mem (Int.emod_nonneg _ (by decide)) (Int.emod_lt_of_pos _ (by decide)).le

/-! ### Absorption (03 R59) -/

/-- The three bands sum to the line output, so equal words scale it. -/
theorem absorb_equal_words {e : Engine} {d : ℕ} (h : e.words = ⟨d, d, d⟩) (y : ℤ) :
    (e.absorb y).1 = sat32 (y * d / 65536) := by
  simp only [Engine.absorb, h]
  congr 2
  ring

/-! ### The mixer (03 R60) -/

/-- The parity of a count of exclusive ors. -/
theorem countP_xor_parity {α : Type} (p q : α → Bool) (l : List α) :
    (l.countP fun x => p x ^^ q x) % 2 = (l.countP p + l.countP q) % 2 := by
  induction l with
  | nil => rfl
  | cons x l ih =>
    simp only [List.countP_cons]
    cases p x <;> cases q x <;> simp <;> omega

theorem hadamard_comm (i j : ℕ) : hadamard i j = hadamard j i := by simp only [hadamard, Nat.land_comm]

/-- The signs that parities stand for multiply as the parities add. -/
theorem sign_of_parity_mul {a b c : ℕ} (h : c % 2 = (a + b) % 2) : (if c % 2 = 0 then 1 else -1 : ℤ) =
    (if a % 2 = 0 then 1 else -1) * (if b % 2 = 0 then 1 else -1) := by
  rw [h, Nat.add_mod]
  rcases Nat.mod_two_eq_zero_or_one a with ha | ha <;> rcases Nat.mod_two_eq_zero_or_one b with hb | hb <;> simp [ha, hb]

/-- A row of the Hadamard matrix is a character: it takes an exclusive or to a product. -/
theorem hadamard_xor (i j x : ℕ) : hadamard (i ^^^ j) x = hadamard i x * hadamard j x := by
  simp only [hadamard, Nat.and_xor_distrib_right, Nat.testBit_xor]
  exact sign_of_parity_mul (countP_xor_parity ..)

theorem hadamard_row_sum : ∀ n ∈ [4, 8, 16, 32], ∀ a < n,
    ((List.range n).map (hadamard a)).sum = if a = 0 then (n : ℤ) else 0 := by decide +kernel

/-- The rows of each order are orthogonal. -/
theorem hadamard_orthogonal : ∀ n ∈ [4, 8, 16, 32], ∀ i < n, ∀ j < n,
    ((List.range n).map fun x => hadamard i x * hadamard j x).sum = if i = j then (n : ℤ) else 0 := by
  intro n hn i hi j hj
  have hlt : i ^^^ j < n := by
    obtain ⟨m, rfl⟩ : ∃ m, n = 2 ^ m := by
      fin_cases hn
      exacts [⟨2, rfl⟩, ⟨3, rfl⟩, ⟨4, rfl⟩, ⟨5, rfl⟩]
    exact Nat.xor_lt_two_pow hi hj
  simp only [← hadamard_xor]
  exact (hadamard_row_sum n hn _ hlt).trans (if_congr Nat.xor_eq_zero_iff rfl rfl)

/-- The bit above a half is set in no index of that half and shared by the two upper quarters. -/
theorem hadamard_half : ∀ n ∈ [1, 2, 4, 8, 16], hadamard n n = -1 ∧ ∀ i < n, hadamard i n = 1 ∧ i + n = i ^^^ n := by
  decide

/-- Each order is built from the one before, by Sylvester's construction. -/
theorem hadamard_sylvester : ∀ n ∈ [1, 2, 4, 8, 16], ∀ i < n, ∀ j < n, hadamard i (j + n) = hadamard i j
    ∧ hadamard (i + n) j = hadamard i j ∧ hadamard (i + n) (j + n) = -hadamard i j := by
  intro n hn i hi j hj
  obtain ⟨hnn, half⟩ := hadamard_half n hn
  obtain ⟨hi1, hix⟩ := half i hi
  obtain ⟨hj1, hjx⟩ := half j hj
  have right (k : ℕ) : hadamard k (j ^^^ n) = hadamard k j * hadamard k n := by
    rw [hadamard_comm, hadamard_xor, hadamard_comm j, hadamard_comm n]
  rw [hix, hjx, right, right, hadamard_xor, hadamard_xor, hadamard_comm n j, hi1, hj1, hnn]
  refine ⟨?_, ?_, ?_⟩ <;> ring

theorem mixLine_eq (a : List ℤ) (j : ℕ) : mixLine a j =
    sat32 (Config.mixerScale a.length * ((List.range a.length).map fun i => hadamard j i * a.getD i 0).sum / 32768) := by
  have h : (a.mapIdx fun i x => hadamard j i * x) = (List.range a.length).map fun i => hadamard j i * a.getD i 0 := by
    refine List.ext_getElem (by simp) fun i hi _ => ?_
    have hi : i < a.length := by simpa using hi
    simp [List.getElem?_eq_getElem hi]
  rw [mixLine, h]

/-! ### The sweep (03 R62) -/

section
variable {e : Engine}

theorem sweepStep_up (hu : e.up = true) (h : e.sweep + e.rate ≤ 65536 * e.depth) :
    e.sweepStep = { e with sweep := e.sweep + e.rate } := by
  simp only [Engine.sweepStep, hu, if_true, if_neg (not_lt.2 h)]

theorem sweepStep_top (hu : e.up = true) (h : 65536 * (e.depth : ℤ) < e.sweep + e.rate) :
    e.sweepStep = { e with sweep := 65536 * e.depth, up := false } := by
  simp only [Engine.sweepStep, hu, if_true, if_pos h]

theorem sweepStep_down (hu : e.up = false) (h : -(65536 * (e.depth : ℤ)) ≤ e.sweep - e.rate) :
    e.sweepStep = { e with sweep := e.sweep - e.rate } := by
  simp only [Engine.sweepStep, hu, Bool.false_eq_true, if_false, if_neg (not_lt.2 h)]

theorem sweepStep_bottom (hu : e.up = false) (h : e.sweep - e.rate < -(65536 * (e.depth : ℤ))) :
    e.sweepStep = { e with sweep := -(65536 * e.depth), up := true } := by
  simp only [Engine.sweepStep, hu, Bool.false_eq_true, if_false, if_pos h]

/-- A sweep within its bounds stays within them. -/
theorem sweepStep_mem (hl : -(65536 * (e.depth : ℤ)) ≤ e.sweep) (hu : e.sweep ≤ 65536 * e.depth) :
    -(65536 * (e.depth : ℤ)) ≤ e.sweepStep.sweep ∧ e.sweepStep.sweep ≤ 65536 * e.depth := by
  cases hd : e.up with
  | true =>
    by_cases h : e.sweep + e.rate ≤ 65536 * e.depth
    · rw [sweepStep_up hd h]
      exact ⟨by dsimp only; omega, h⟩
    · rw [sweepStep_top hd (not_le.1 h)]
      exact ⟨by dsimp only; omega, le_rfl⟩
  | false =>
    by_cases h : -(65536 * (e.depth : ℤ)) ≤ e.sweep - e.rate
    · rw [sweepStep_down hd h]
      exact ⟨h, by dsimp only; omega⟩
    · rw [sweepStep_bottom hd (not_le.1 h)]
      exact ⟨le_rfl, by dsimp only; omega⟩

end

/-! ### Sends, taps and totals (03 R63, R65, R66) -/

/-- A sum over two lists of the terms that a condition lets through. -/
theorem sum_zipWith_ite {α β : Type} (p : α → Bool) (f : α → β → ℤ) (l : List α) (m : List β) :
    (List.zipWith (fun x y => if p x then f x y else 0) l m).sum =
      (((l.zip m).filter fun q => p q.1).map fun q => f q.1 q.2).sum := by
  rw [← List.map_uncurry_zip_eq_zipWith]
  induction l.zip m with
  | nil => rfl
  | cons q l ih =>
    rw [List.map_cons, List.sum_cons, ih, List.filter_cons]
    cases h : p q.1 <;> simp [Function.uncurry, h]

theorem sendInput_eq (r : SceneRecord) (words : List ℕ) (xs : List ℤ) (fade e j : ℕ) :
    let sum := (((r.sends.zip words).filter fun p => p.1.line == j).map fun p => xs.getD p.1.mic 0 * p.2 / 8192).sum
    sendInput r words xs fade e j = sat32 (sum * fade / 32768 * e / 8192) := by
  have h := sum_zipWith_ite (fun x : SendRecord => x.line == j) (fun x (g : ℕ) => xs.getD x.mic 0 * g / 8192) r.sends words
  simp only [beq_iff_eq] at h
  exact congrArg (fun t => sat32 (t * fade / 32768 * e / 8192)) h

/-- Additions at places of a list, place by place. -/
theorem foldl_modify_add {x : ℕ} (l : List (ℕ × ℤ)) : ∀ {totals : List ℤ}, x < totals.length →
    (l.foldl (fun t y => t.modify y.1 (· + y.2)) totals).getD x 0 =
      totals.getD x 0 + ((l.filter fun y => y.1 == x).map (·.2)).sum := by
  induction l with
  | nil => simp
  | cons y l ih =>
    intro totals hx
    rw [List.foldl_cons, ih (by simpa using hx), List.filter_cons]
    by_cases h : y.1 = x <;> simp [List.getD_eq_getElem?_getD, hx, h, add_assoc]

theorem tapSum_eq (lines : List Engine) (taps : List TapRecord) (words : List ℕ) : tapSum lines taps words =
    ((taps.zip words).map fun q => (lines.getD q.1.line .free).behind q.1.offset * q.2 / 8192).sum := by
  rw [tapSum, ← List.map_uncurry_zip_eq_zipWith]
  rfl

theorem addSpeakers_getD (r : SceneRecord) (c : Computed) (play : Play) (lines : List Engine) {totals : List ℤ} {x : ℕ}
    (hx : x < totals.length) :
    (addSpeakers r c play lines totals).getD x 0 = totals.getD x 0
      + (((r.speakers.zip c.tapWords).filter fun p => p.1.speaker == x).map fun p =>
          ((p.1.taps.zip p.2).map fun q => (lines.getD q.1.line .free).behind q.1.offset * q.2 / 8192).sum
            * (play.output : ℤ) / 32768).sum := by
  rw [addSpeakers, foldl_modify_add _ hx, ← List.map_uncurry_zip_eq_zipWith, List.filter_map, List.map_map]
  simp only [← tapSum_eq]
  rfl

/-! ### The filters on a microphone (06 R120) -/

section
variable {m : ℕ} {n : Notch}

theorem notchChain_on (h : n.filter.engaged = true ∧ n.filter.mic = m) (rest : List Notch) (x : ℤ) :
    notchChain m (n :: rest) x = ((notchChain m rest (n.filter.step x).1).1,
      { n with filter := (n.filter.step x).2 } :: (notchChain m rest (n.filter.step x).1).2) := by
  rw [notchChain, if_pos (by simpa using h)]

theorem notchChain_off (h : ¬ (n.filter.engaged = true ∧ n.filter.mic = m)) (rest : List Notch) (x : ℤ) :
    notchChain m (n :: rest) x = ((notchChain m rest x).1, n :: (notchChain m rest x).2) := by
  rw [notchChain, if_neg (by simpa using h)]

end

end Sys2Proof.Machine
end

section
/-! PROOFS. The network's sample period: the playing scenes one after the other, each on engines of its own (03 R57, R61). -/

namespace Sys2Proof.Machine

/-! ### Engines put back into the table -/

theorem putEngines_cons (es : List Engine) (i : ℕ) (map : List ℕ) (y : Engine) (lines : List Engine) :
    putEngines es (i :: map) (y :: lines) = putEngines (es.set i y) map lines := rfl

theorem putEngines_length : ∀ (map : List ℕ) (lines es : List Engine), (putEngines es map lines).length = es.length
  | [], _, _ => rfl
  | _ :: _, [], _ => rfl
  | i :: map, y :: lines, es => by rw [putEngines_cons, putEngines_length, List.length_set]

/-- An engine that no line has stays. -/
theorem putEngines_other {i : ℕ} : ∀ {map : List ℕ}, i ∉ map → ∀ (lines es : List Engine),
    (putEngines es map lines)[i]? = es[i]?
  | [], _, _, _ => rfl
  | _ :: _, _, [], _ => rfl
  | k :: map, h, y :: lines, es => by
    obtain ⟨hk, hm⟩ : i ≠ k ∧ i ∉ map := by simpa using h
    rw [putEngines_cons, putEngines_other hm, List.getElem?_set_ne hk.symm]

/-- The engine of a line becomes that line's. -/
theorem putEngines_line {i j : ℕ} {y : Engine} : ∀ {map : List ℕ} {lines es : List Engine}, map.Nodup → i < es.length →
    map[j]? = some i → lines[j]? = some y → (putEngines es map lines)[i]? = some y
  | [], _, _, _, _, hj, _ => by simp at hj
  | _ :: _, [], _, _, _, _, hy => by simp at hy
  | k :: map, z :: lines, es, hn, hi, hj, hy => by
    obtain ⟨hk, hn⟩ := List.nodup_cons.1 hn
    rw [putEngines_cons]
    cases j with
    | zero =>
      obtain rfl : k = i := by simpa using hj
      obtain rfl : z = y := by simpa using hy
      rw [putEngines_other hk, List.getElem?_set_self hi]
    | succ j => exact putEngines_line hn (by simpa using hi) hj hy

/-! ### One scene -/

/-- A scene that plays: its record, its computed part, its play record and its engine map. -/
abbrev Scene := SceneRecord × Computed × Play × List ℕ

/-- The scene that plays from slot `k`. -/
def State.playing (s : State) (k : ℕ) : Option Scene := match (s.slot k).record, s.playOf k with
  | some r, some p => match r.engineMap, r.computed with
    | some es, some c => some (r, c, p, es)
    | _, _ => none
  | _, _ => none

/-- The engine of line `j` of a scene, at index `i`, with what it writes in the sample period that begins in `s` (03 R57 steps 1
to 4). -/
def State.writtenLine (s : State) (xs : List ℤ) (x : Scene) (j i : ℕ) : Engine :=
  let e := s.engines.getD i .free
  let heard (i : ℕ) := (s.engines.getD i .free).absorb (s.engines.getD i .free).lineRead
  e.writeLine (mixLine (x.2.2.2.map fun i => (heard i).1) j)
    (if e.state = .assigned then sendInput x.1 x.2.1.sendWords xs x.2.2.1.send s.coef.epsilonWord j else 0)
    (heard i).2.1 (heard i).2.2

/-- The engine table and the speaker totals after a scene's part of the sample period. -/
def scenePart (e : ℕ) (xs : List ℤ) (acc : List Engine × List ℤ) (x : Scene) : List Engine × List ℤ :=
  let lines := writeScene x.1 x.2.1 x.2.2.1 e xs (x.2.2.2.map fun i => acc.1.getD i .free)
  (putEngines acc.1 x.2.2.2 (lines.map Engine.advance), addSpeakers x.1 x.2.1 x.2.2.1 lines acc.2)

theorem scenePeriod_eq (s : State) (e : ℕ) (xs : List ℤ) (acc : List Engine × List ℤ) (k : ℕ) :
    scenePeriod e xs acc (s.slot k, s.playOf k) = match s.playing k with
      | some x => scenePart e xs acc x
      | none => acc := by
  unfold scenePeriod State.playing
  cases (s.slot k).record with
  | none => rfl
  | some r =>
    cases s.playOf k with
    | none => rfl
    | some p =>
      dsimp only
      cases r.engineMap <;> cases r.computed <;> rfl

/-- A scene whose engines no other scene has touched writes what stood at the beginning of the sample period. -/
theorem writeScene_eq (s : State) (xs : List ℤ) (x : Scene) {es : List Engine} (h : ∀ i ∈ x.2.2.2, es[i]? = s.engines[i]?) :
    writeScene x.1 x.2.1 x.2.2.1 s.coef.epsilonWord xs (x.2.2.2.map fun i => es.getD i .free) =
      x.2.2.2.mapIdx (s.writtenLine xs x) := by
  have hes : x.2.2.2.map (fun i => es.getD i .free) = x.2.2.2.map fun i => s.engines.getD i .free :=
    List.map_congr_left fun i hi => by rw [List.getD_eq_getElem?_getD, h i hi, ← List.getD_eq_getElem?_getD]
  rw [hes]
  refine List.ext_getElem (by simp [writeScene]) fun j _ _ => ?_
  simp [writeScene, State.writtenLine, Function.comp_def]

/-! ### The scenes one after the other -/

/-- The part of the sample period that the slots `l` make, in their order. -/
def State.partOf (s : State) (xs : List ℤ) (l : List ℕ) : List Engine × List ℤ :=
  l.foldl (fun acc k => match s.playing k with
    | some x => scenePart s.coef.epsilonWord xs acc x
    | none => acc) (s.engines, List.replicate 128 0)

theorem networkPeriod_eq {s : State} (hs : s.slots.length = 8) (hp : s.net.play.length = 8) (xs : List ℤ) :
    networkPeriod s xs = s.partOf xs (List.range 8) := by
  have h : List.zipWith Prod.mk s.slots s.net.play = (List.range 8).map fun k => (s.slot k, s.playOf k) := by
    refine List.ext_getElem (by simp [hs, hp]) fun k hk _ => ?_
    simp only [List.length_zipWith, hs, hp, Nat.min_self] at hk
    simp [State.slot, State.playOf, hs, hp, hk]
  rw [networkPeriod, h, List.foldl_map]
  simp only [scenePeriod_eq]
  rfl

theorem playing_lt {s : State} (hs : s.slots.length = 8) {k : ℕ} {x : Scene} (h : s.playing k = some x) : k < 8 := by
  by_contra hk
  have hr : (s.slot k).record = none := by
    rw [State.slot, List.getD_eq_getElem?_getD, List.getElem?_eq_none (by omega)]
    rfl
  rw [State.playing, hr] at h
  cases h

/-- The engine maps of the playing scenes name engines of the table, each once, and no engine for two scenes. -/
structure State.MapsApart (s : State) : Prop where
  named : ∀ k x, s.playing k = some x → x.2.2.2.Nodup ∧ ∀ i ∈ x.2.2.2, i < s.engines.length
  apart : ∀ k l x y, s.playing k = some x → s.playing l = some y → k ≠ l → ∀ i ∈ x.2.2.2, i ∉ y.2.2.2

theorem partOf_append (s : State) (xs : List ℤ) (l : List ℕ) (k : ℕ) : s.partOf xs (l ++ [k]) = match s.playing k with
    | some x => scenePart s.coef.epsilonWord xs (s.partOf xs l) x
    | none => s.partOf xs l := List.foldl_append

theorem partOf_length (s : State) (xs : List ℤ) (l : List ℕ) : (s.partOf xs l).1.length = s.engines.length := by
  induction l using List.reverseRecOn with
  | nil => rfl
  | append_singleton l k ih =>
    rw [partOf_append]
    cases s.playing k with
    | none => exact ih
    | some x => exact (putEngines_length ..).trans ih

/-- An engine in no map stays. -/
theorem partOf_other (s : State) (xs : List ℤ) {l : List ℕ} {i : ℕ}
    (h : ∀ k ∈ l, ∀ x, s.playing k = some x → i ∉ x.2.2.2) : (s.partOf xs l).1[i]? = s.engines[i]? := by
  induction l using List.reverseRecOn with
  | nil => rfl
  | append_singleton l k ih =>
    have ih := ih fun k hk => h k (List.mem_append_left _ hk)
    rw [partOf_append]
    cases hx : s.playing k with
    | none => exact ih
    | some x => exact (putEngines_other (h k (by simp) x hx) ..).trans ih

section
variable {s : State} (hm : s.MapsApart)
include hm

/-- When a slot's turn comes, its scene writes what stood at the beginning. -/
theorem writeScene_partOf (xs : List ℤ) {l : List ℕ} {k : ℕ} {x : Scene} (hk : k ∉ l) (hx : s.playing k = some x) :
    writeScene x.1 x.2.1 x.2.2.1 s.coef.epsilonWord xs (x.2.2.2.map fun i => (s.partOf xs l).1.getD i .free) =
      x.2.2.2.mapIdx (s.writtenLine xs x) :=
  writeScene_eq s xs x fun i hi => partOf_other s xs fun k' hk' y hy =>
    hm.apart k k' x y hx hy (fun h => hk (h ▸ hk')) i hi

/-- An engine of a playing scene has written, advanced and swept. -/
theorem partOf_engine (xs : List ℤ) {l : List ℕ} (hl : l.Nodup) {k j i : ℕ} {x : Scene} (hk : k ∈ l)
    (hx : s.playing k = some x) (hj : x.2.2.2[j]? = some i) :
    (s.partOf xs l).1[i]? = some (s.writtenLine xs x j i).advance := by
  induction l using List.reverseRecOn with
  | nil => cases hk
  | append_singleton l k' ih =>
    have hi : i ∈ x.2.2.2 := List.mem_of_getElem? hj
    obtain ⟨hk', hl⟩ : k' ∉ l ∧ l.Nodup := by simpa using List.nodup_middle.1 hl
    rw [partOf_append]
    by_cases hkk : k = k'
    · subst hkk
      simp only [hx, scenePart]
      obtain ⟨hn, hlt⟩ := hm.named k x hx
      refine putEngines_line hn ((hlt i hi).trans_eq (partOf_length ..).symm) hj ?_
      rw [writeScene_partOf hm xs hk' hx, List.getElem?_map, List.getElem?_mapIdx, hj]
      rfl
    · have ih := ih hl (by simpa [hkk] using hk)
      cases hy : s.playing k' with
      | none => exact ih
      | some y => exact (putEngines_other (hm.apart k k' x y hx hy hkk i hi) ..).trans ih

/-- The speaker totals take each playing scene's taps between its write and its advance. -/
theorem partOf_totals (xs : List ℤ) {l : List ℕ} (hl : l.Nodup) : (s.partOf xs l).2 =
    l.foldl (fun totals k => match s.playing k with
      | some x => addSpeakers x.1 x.2.1 x.2.2.1 (x.2.2.2.mapIdx (s.writtenLine xs x)) totals
      | none => totals) (List.replicate 128 0) := by
  induction l using List.reverseRecOn with
  | nil => rfl
  | append_singleton l k ih =>
    obtain ⟨hk, hl⟩ : k ∉ l ∧ l.Nodup := by simpa using List.nodup_middle.1 hl
    have ih := ih hl
    rw [partOf_append, List.foldl_append, ← ih]
    cases hx : s.playing k with
    | none => simp only [List.foldl_cons, hx, List.foldl_nil]
    | some x => simp only [List.foldl_cons, hx, List.foldl_nil, scenePart, writeScene_partOf hm xs hk hx]

end

/-- Settles O40: one line, one mixer, one scene, one microphone's filters; then the scenes one after the other. -/
theorem lineArithmetic : Obligations.LineArithmetic := by
  refine ⟨lineRead_mem, fun _ => rfl, sat32_eq, fun _ _ => rfl, fun e y d h => absorb_equal_words h y, hadamard_orthogonal,
    by decide, fun e => sweepStep_mem, fun e => ⟨sweepStep_up, sweepStep_top, sweepStep_down, sweepStep_bottom⟩,
    ⟨by decide, hadamard_sylvester⟩, mixLine_eq, sendInput_eq, fun r c play lines totals x => addSpeakers_getD r c play lines,
    fun _ _ => rfl, fun _ _ => rfl, fun region a b v h => sparseRead_sparseWrite h a v b, ?network,
    fun m n rest x => ⟨rfl, fun h => notchChain_on h rest x, fun h => notchChain_off h rest x⟩⟩
  intro s xs plays heard written hs hp hnamed hapart
  have hm : s.MapsApart := ⟨hnamed, hapart⟩
  rw [networkPeriod_eq hs hp]
  refine ⟨fun k x j i hk hj => ?_, fun i hi => ?_, ?_⟩
  · exact partOf_engine hm xs List.nodup_range (List.mem_range.2 (playing_lt hs hk)) hk hj
  · exact partOf_other s xs fun k _ => hi k
  · exact partOf_totals hm xs List.nodup_range

end Sys2Proof.Machine
end

section
/-! PROOFS. Conditioning: each microphone through its own filters, whatever those of the others do (06 R120, R121). -/

namespace Sys2Proof.Machine

/-! ### The filters of one microphone among those of all -/

/-- The entry's filter is on microphone `m`. -/
def Notch.on (m : ℕ) (n : Notch) : Prop := n.filter.engaged = true ∧ n.filter.mic = m

/-- Two pools have the same filters on microphone `m`, entry by entry. -/
def sameOn (m : ℕ) : List Notch → List Notch → Prop := List.Forall₂ fun a b => (a.on m ↔ b.on m) ∧ (a.on m → a = b)

theorem sameOn_refl (m : ℕ) (p : List Notch) : sameOn m p p := List.forall₂_same.2 fun _ _ => ⟨Iff.rfl, fun _ => rfl⟩

theorem sameOn_trans {m : ℕ} {p q r : List Notch} (h : sameOn m p q) (g : sameOn m q r) : sameOn m p r := by
  induction h generalizing r with
  | nil => exact g
  | cons hab _ ih =>
    cases g with
    | cons hbc g =>
      obtain ⟨hon, heq⟩ := hab
      obtain ⟨hon', heq'⟩ := hbc
      exact .cons ⟨hon.trans hon', fun ha => (heq ha).trans (heq' (hon.1 ha))⟩ (ih g)

/-- A chain changes the filters on its own microphone and no others, and moves no filter. -/
theorem notchChain_pool (m : ℕ) : ∀ (p : List Notch) (x : ℤ),
    List.Forall₂ (fun a b => (∀ k, a.on k ↔ b.on k) ∧ (¬ a.on m → a = b)) p (notchChain m p x).2
  | [], _ => .nil
  | n :: p, x => by
    by_cases h : n.on m
    · rw [notchChain_on h]
      exact .cons ⟨fun _ => Iff.rfl, fun hn => absurd h hn⟩ (notchChain_pool m p _)
    · rw [notchChain_off h]
      exact .cons ⟨fun _ => Iff.rfl, fun _ => rfl⟩ (notchChain_pool m p x)

theorem notchChain_length (m : ℕ) (p : List Notch) (x : ℤ) : (notchChain m p x).2.length = p.length :=
  (notchChain_pool m p x).length_eq.symm

/-- The chain of another microphone leaves those on `m` alone. -/
theorem notchChain_sameOn {m k : ℕ} (h : k ≠ m) (p : List Notch) (x : ℤ) : sameOn m p (notchChain k p x).2 :=
  (notchChain_pool k p x).imp fun _ _ ⟨hon, heq⟩ => ⟨hon m, fun ha => heq fun hk => h (hk.2.symm.trans ha.2)⟩

/-- A chain depends on the filters of its own microphone alone. -/
theorem notchChain_congr {m : ℕ} {p q : List Notch} (h : sameOn m p q) : ∀ x : ℤ,
    (notchChain m p x).1 = (notchChain m q x).1 ∧ sameOn m (notchChain m p x).2 (notchChain m q x).2 := by
  induction h with
  | nil => exact fun x => ⟨rfl, .nil⟩
  | @cons a b p q hab _ ih =>
    obtain ⟨hon, heq⟩ := hab
    intro x
    by_cases ha : a.on m
    · obtain rfl := heq ha
      rw [notchChain_on ha, notchChain_on ha]
      exact (ih _).imp_right (.cons ⟨Iff.rfl, fun _ => rfl⟩)
    · rw [notchChain_off ha, notchChain_off fun hb => ha (hon.2 hb)]
      exact (ih x).imp_right (.cons ⟨hon, heq⟩)

/-- A filter on `m` is found at its place in every pool with the same filters on `m`. -/
theorem sameOn_getElem? {m i : ℕ} {p q : List Notch} {y : Notch} (h : sameOn m p q) (hy : p[i]? = some y) (hon : y.on m) :
    q[i]? = some y := by
  obtain ⟨hi, rfl⟩ := List.getElem?_eq_some_iff.1 hy
  have hj : i < q.length := h.length_eq ▸ hi
  rw [List.getElem?_eq_getElem hj]
  exact congrArg some ((h.get hi hj).2 hon).symm

theorem notchChain_on_getElem? {m i : ℕ} {p : List Notch} {y z : Notch} {x : ℤ} (hy : p[i]? = some y) (hon : y.on m)
    (hz : (notchChain m p x).2[i]? = some z) : z.on m := by
  obtain ⟨hi, rfl⟩ := List.getElem?_eq_some_iff.1 hy
  obtain ⟨hj, rfl⟩ := List.getElem?_eq_some_iff.1 hz
  exact (((notchChain_pool m p x).get hi hj).1 m).1 hon

/-! ### One microphone -/

section
variable (m : ℕ) (x : Mic) (locked : Bool) (sample : ℤ)

theorem conditionMic_eq (p : List Notch) : conditionMic m x locked sample p =
    let heard := x.present = true ∧ locked = true
    let r := notchChain m p (sat32 ((if heard then sample else 0) * x.trimWord / 8192))
    (if heard then sat32 (r.1 * x.fallbackWord / 8192) else 0, r.2) := by
  simp only [conditionMic, Bool.and_eq_true]

theorem conditionMic_sameOn {k : ℕ} (h : m ≠ k) (p : List Notch) : sameOn k p (conditionMic m x locked sample p).2 := by
  rw [conditionMic_eq]
  exact notchChain_sameOn h ..

theorem conditionMic_congr {p q : List Notch} (h : sameOn m p q) :
    (conditionMic m x locked sample p).1 = (conditionMic m x locked sample q).1
      ∧ sameOn m (conditionMic m x locked sample p).2 (conditionMic m x locked sample q).2 := by
  simp only [conditionMic_eq]
  obtain ⟨hout, hpool⟩ := notchChain_congr h
    (sat32 ((if x.present = true ∧ locked = true then sample else 0) * x.trimWord / 8192))
  exact ⟨by rw [hout], hpool⟩

end

/-! ### All microphones -/

section
variable (locked : ℕ → Bool) (samples : List ℤ)

/-- The microphones from `m` on leave the filters on the earlier ones alone. -/
theorem conditionMics_sameOn {k : ℕ} : ∀ {m : ℕ}, k < m → ∀ (l : List Mic) (p : List Notch),
    sameOn k p (conditionMics locked samples m l p).2
  | _, _, [], p => sameOn_refl k p
  | _, h, _ :: l, p => sameOn_trans (conditionMic_sameOn _ _ _ _ h.ne' p) (conditionMics_sameOn (h.trans (Nat.lt_succ_self _)) l _)

/-- Each microphone's conditioned sample, and the filters on it afterwards, as if it were the only one. -/
theorem conditionMics_mic {x : Mic} : ∀ {i m : ℕ} {l : List Mic} (p : List Notch), l[i]? = some x →
    let r := conditionMic (m + i) x (locked (m + i)) (samples.getD (m + i) 0) p
    (conditionMics locked samples m l p).1[i]? = some r.1 ∧ sameOn (m + i) r.2 (conditionMics locked samples m l p).2
  | _, _, [], _, h => by simp at h
  | 0, m, y :: l, p, h => by
    obtain rfl : y = x := by simpa using h
    exact ⟨rfl, conditionMics_sameOn locked samples (Nat.lt_succ_self m) l _⟩
  | i + 1, m, y :: l, p, h => by
    have hm : m ≠ m + (i + 1) := by omega
    have hc := conditionMic_congr (m + (i + 1)) x (locked (m + (i + 1))) (samples.getD (m + (i + 1)) 0)
      (conditionMic_sameOn m y (locked m) (samples.getD m 0) hm p)
    have ih := conditionMics_mic (i := i) (m := m + 1) (l := l) (conditionMic m y (locked m) (samples.getD m 0) p).2 h
    rw [show m + 1 + i = m + (i + 1) by omega] at ih
    exact ⟨ih.1.trans (congrArg some hc.1.symm), sameOn_trans hc.2 ih.2⟩

end

/-- The conditioning of one sample period, for one microphone (06 R120). -/
theorem condition_mic {s : State} {m : ℕ} {x : Mic} (h : s.mics[m]? = some x) (samples : List ℤ) :
    let c := s.condition samples
    let r := conditionMic m x (s.lane (m / 8)).locked (samples.getD m 0) s.guard.pool
    c.1[m]? = some r.1 ∧ c.2.mics[m]? = some { x with buffer := r.1 :: x.buffer } ∧ sameOn m r.2 c.2.guard.pool := by
  have hmic := conditionMics_mic (fun m => (s.lanes.getD (m / 8) .reset).locked) samples (m := 0) s.guard.pool h
  rw [Nat.zero_add] at hmic
  obtain ⟨hout, hpool⟩ := hmic
  refine ⟨hout, ?_, hpool⟩
  show (List.zipWith (fun (x : Mic) v => { x with buffer := v :: x.buffer }) s.mics (s.condition samples).1)[m]? = _
  rw [List.getElem?_zipWith, h]
  simp only [State.condition, hout]
  rfl

end Sys2Proof.Machine
end

section
/-! PROOFS. A sample period: the order of the speakers, clips and OUTPUT CLIP, and the network while halted and while running
(03 R56, R57, R66 to R68, 07 R149, R161, 09 R171). -/

namespace Sys2Proof.Machine

/-! ### The order of the speakers (log 13) -/

/-- A speaker's place in the order that begins at `first`. -/
def speakerPlace (first x : ℕ) : ℕ := (x + 128 - first) % 128

section
variable {first : ℕ} (hf : first < 128)
include hf

theorem speakerOrder_places : (speakerOrder first).map (speakerPlace first) = List.range 128 := by
  refine (List.map_map ..).trans (List.map_congr_left (g := id) fun i hi => ?_) |>.trans (List.map_id _)
  have hi : i < 128 := List.mem_range.1 hi
  show ((first + i) % 128 + 128 - first) % 128 = i
  omega

theorem speakerOrder_nodup : (speakerOrder first).Nodup :=
  List.Nodup.of_map (speakerPlace first) (speakerOrder_places hf ▸ List.nodup_range)

theorem speakerOrder_pairwise : (speakerOrder first).Pairwise fun x y => speakerPlace first x < speakerPlace first y :=
  List.pairwise_map.1 (speakerOrder_places hf ▸ List.pairwise_lt_range)

theorem mem_speakerOrder {x : ℕ} : x ∈ speakerOrder first ↔ x < 128 := by
  simp only [speakerOrder, List.mem_map, List.mem_range]
  constructor
  · rintro ⟨i, -, rfl⟩
    exact Nat.mod_lt _ (by decide)
  · intro hx
    exact ⟨speakerPlace first x, Nat.mod_lt _ (by decide), show (first + (x + 128 - first) % 128) % 128 = x by omega⟩

theorem speakerOrder_perm : (speakerOrder first).Perm (List.range 128) :=
  (List.perm_ext_iff_of_nodup (speakerOrder_nodup hf) List.nodup_range).2 fun x => by
    rw [mem_speakerOrder hf, List.mem_range]

/-- Of the speakers with a property, that with the first place is the first in the order. -/
theorem speakerOrder_head {p : ℕ → Bool} {x : ℕ} (hx : x < 128) (hp : p x = true)
    (hmin : ∀ y < 128, p y = true → speakerPlace first x ≤ speakerPlace first y) :
    ∃ rest, (speakerOrder first).filter p = x :: rest := by
  have hmem : x ∈ (speakerOrder first).filter p := List.mem_filter.2 ⟨(mem_speakerOrder hf).2 hx, hp⟩
  have hpair := (speakerOrder_pairwise hf).filter p
  cases hl : (speakerOrder first).filter p with
  | nil => rw [hl] at hmem; cases hmem
  | cons y rest =>
    rw [hl] at hmem hpair
    rcases List.mem_cons.1 hmem with rfl | hrest
    · exact ⟨rest, rfl⟩
    · obtain ⟨hy, hpy⟩ := List.mem_filter.1 (hl ▸ List.mem_cons_self : y ∈ (speakerOrder first).filter p)
      have hlt := (List.pairwise_cons.1 hpair).1 x hrest
      exact absurd (hmin y ((mem_speakerOrder hf).1 hy) hpy) (Nat.not_le.2 hlt)

end

/-! ### One notice record through several changes (09 R171) -/

theorem change_notice_ne (a : Attention) {i j : ℕ} (h : j ≠ i) (f : Notice → Notice) :
    (a.change i f).notice j = a.notice j := by
  rw [Attention.change, follow_notice]
  simp only [Attention.notice, List.getD_eq_getElem?_getD, List.getElem?_modify, if_neg h.symm, id_map']

theorem change_notices_length (a : Attention) (i : ℕ) (f : Notice → Notice) :
    (a.change i f).notices.length = a.notices.length := by
  unfold Attention.change Attention.follow
  split <;> simp

theorem change_notice_same {a : Attention} {i : ℕ} (h : i < a.notices.length) (f : Notice → Notice) :
    (a.change i f).notice i = f (a.notice i) := by
  rw [Attention.change, follow_notice, notice_modify _ _ _ _ h, if_pos rfl]

theorem foldl_change_ne {i j : ℕ} (h : j ≠ i) (f : ℕ → Notice → Notice) (l : List ℕ) : ∀ a : Attention,
    (l.foldl (fun a x => a.change i (f x)) a).notice j = a.notice j := by
  induction l with
  | nil => exact fun _ => rfl
  | cons x l ih => exact fun a => (ih _).trans (change_notice_ne a h _)

theorem foldl_change_same {i : ℕ} (f : ℕ → Notice → Notice) (l : List ℕ) : ∀ {a : Attention}, i < a.notices.length →
    (l.foldl (fun a x => a.change i (f x)) a).notice i = l.foldl (fun n x => f x n) (a.notice i) := by
  induction l with
  | nil => exact fun _ => rfl
  | cons x l ih =>
    intro a h
    rw [List.foldl_cons, ih ((change_notices_length ..).symm ▸ h), change_notice_same h]
    rfl

/-- The OUTPUT CLIP notice after the clips of the speakers `l`, in their order. -/
def Notice.clippedBy (frame : Word32) (l : List ℕ) (n : Notice) : Notice :=
  l.foldl (fun n x => n.occurKeeping (BitVec.ofNat 32 x) frame) n

section
variable (frame : Word32)

theorem occurKeeping_count (d : Word32) (n : Notice) : (n.occurKeeping d frame).count = min 255 (n.count + 1) := by
  unfold Notice.occurKeeping
  split <;> rfl

theorem occurKeeping_pending (d : Word32) (n : Notice) : (n.occurKeeping d frame).pending = true := by
  unfold Notice.occurKeeping
  split
  · assumption
  · rfl

theorem clippedBy_count (l : List ℕ) : ∀ {n : Notice}, n.count ≤ 255 →
    (n.clippedBy frame l).count = min 255 (n.count + l.length) := by
  induction l with
  | nil => exact fun h => (Nat.min_eq_right h).symm
  | cons x l ih =>
    intro n _
    have hc := occurKeeping_count frame (BitVec.ofNat 32 x) n
    refine (ih (hc ▸ Nat.min_le_left ..)).trans ?_
    rw [hc, List.length_cons]
    omega

/-- A pending notice keeps its detail and its frame counter. -/
theorem clippedBy_pending (l : List ℕ) : ∀ {n : Notice}, n.pending = true →
    (n.clippedBy frame l).pending = true ∧ (n.clippedBy frame l).detail = n.detail
      ∧ (n.clippedBy frame l).stamp = n.stamp := by
  induction l with
  | nil => exact fun h => ⟨h, rfl, rfl⟩
  | cons x l ih =>
    intro n h
    have hn : n.occurKeeping (BitVec.ofNat 32 x) frame = { n with count := min 255 (n.count + 1) } := if_pos h
    obtain ⟨hp, hd, hs⟩ := ih (occurKeeping_pending frame (BitVec.ofNat 32 x) n)
    exact ⟨hp, hd.trans (by rw [hn]), hs.trans (by rw [hn])⟩

theorem clippedBy_cons_pending (x : ℕ) (l : List ℕ) (n : Notice) : (n.clippedBy frame (x :: l)).pending = true :=
  (clippedBy_pending frame l (occurKeeping_pending ..)).1

/-- A notice that is not pending takes the first speaker and the frame counter. -/
theorem clippedBy_cons_quiet (x : ℕ) (l : List ℕ) {n : Notice} (h : n.pending = false) :
    (n.clippedBy frame (x :: l)).detail = BitVec.ofNat 32 x ∧ (n.clippedBy frame (x :: l)).stamp = frame := by
  have hn : n.occurKeeping (BitVec.ofNat 32 x) frame = n.occur (BitVec.ofNat 32 x) frame := if_neg (by rw [h]; decide)
  obtain ⟨-, hd, hs⟩ := clippedBy_pending frame l (occurKeeping_pending frame (BitVec.ofNat 32 x) n)
  exact ⟨hd.trans (congrArg Notice.detail hn), hs.trans (congrArg Notice.stamp hn)⟩

end

/-! ### Clips (03 R68) -/

theorem clip_net (s : State) (x : ℕ) : (s.clip x).net =
    { s.net with clips := s.net.clips.modify x fun c => min 65535 (c + 1) } := by
  unfold State.clip
  dsimp only
  split <;> rfl

theorem clip_att (s : State) (x : ℕ) : (s.clip x).att =
    if s.net.clips.getD x 0 = 0 then s.att.change 9 (Notice.occurKeeping (BitVec.ofNat 32 x) s.frame) else s.att := by
  unfold State.clip
  dsimp only
  split <;> rfl

/-- What no clip touches. -/
def State.besideClips (s : State) : Word32 × ℕ × List Host.Cell × List InputLane × CueUnit × List Slot × Meters × List Mic
    × Guard × List Engine × OutputLanes :=
  (s.frame, s.framePos, s.ram, s.lanes, s.cues, s.slots, s.meters, s.mics, s.guard, s.engines, s.outputs)

theorem clip_beside (s : State) (x : ℕ) : (s.clip x).besideClips = s.besideClips := by
  unfold State.clip
  dsimp only
  split <;> rfl

theorem foldl_clip_beside (s : State) (l : List ℕ) : (l.foldl State.clip s).besideClips = s.besideClips :=
  foldl_keeps (P := fun t => t.besideClips = s.besideClips) (fun t x h => (clip_beside t x).trans h) l s rfl

theorem foldl_clip_net (l : List ℕ) : ∀ s : State, (l.foldl State.clip s).net =
    { s.net with clips := l.foldl (fun c x => c.modify x fun c => min 65535 (c + 1)) s.net.clips } := by
  induction l with
  | nil => exact fun _ => rfl
  | cons x l ih => exact fun s => (ih _).trans (by rw [clip_net]; rfl)

/-- The clips of distinct speakers: the count of each rises by one. -/
theorem foldl_modify_clips {x : ℕ} {l : List ℕ} (hn : l.Nodup) : ∀ {clips : List ℕ}, x < clips.length →
    (l.foldl (fun c x => c.modify x fun c => min 65535 (c + 1)) clips).getD x 0 =
      if x ∈ l then min 65535 (clips.getD x 0 + 1) else clips.getD x 0 := by
  induction l with
  | nil => exact fun _ => rfl
  | cons y l ih =>
    intro clips hx
    obtain ⟨hy, hn⟩ := List.nodup_cons.1 hn
    rw [List.foldl_cons, ih hn (by simpa using hx)]
    by_cases h : y = x
    · subst h
      simp [hy, hx]
    · simp [List.getD_eq_getElem?_getD, h, Ne.symm h]

/-- The clips of distinct speakers: those whose counts stood at 0 raise OUTPUT CLIP, in their order. -/
theorem foldl_clip_att {l : List ℕ} (hn : l.Nodup) : ∀ s : State, (l.foldl State.clip s).att =
    (l.filter fun x => s.net.clips.getD x 0 == 0).foldl
      (fun a x => a.change 9 (Notice.occurKeeping (BitVec.ofNat 32 x) s.frame)) s.att := by
  induction l with
  | nil => exact fun _ => rfl
  | cons y l ih =>
    intro s
    obtain ⟨hy, hn⟩ := List.nodup_cons.1 hn
    have hframe : (s.clip y).frame = s.frame := congrArg Prod.fst (clip_beside s y)
    have hcounts : l.filter (fun x => (s.clip y).net.clips.getD x 0 == 0) = l.filter fun x => s.net.clips.getD x 0 == 0 :=
      List.filter_congr fun x hx => by
        have hne : y ≠ x := fun h => hy (h ▸ hx)
        rw [clip_net]
        simp [List.getD_eq_getElem?_getD, hne]
    rw [List.foldl_cons, ih hn, hframe, hcounts, clip_att, List.filter_cons]
    by_cases h : s.net.clips.getD y 0 = 0
    · rw [if_pos h, if_pos (by simpa using h), List.foldl_cons]
    · rw [if_neg h, if_neg (by simpa using h)]

/-! ### The network's work of a sample period (03 R56, R57, R66 to R68) -/

/-- The lane's range does not hold a value: its saturation changes it. -/
def saturates (v : ℤ) : Bool := decide (v < -8388607) || decide (8388607 < v)

theorem saturates_iff {v : ℤ} : saturates v = true ↔ v < -8388607 ∨ 8388607 < v := by simp [saturates]

theorem bne_saturated (v : ℤ) : (v != max (-8388607) (min 8388607 v)) = saturates v := by
  rw [Bool.eq_iff_iff, saturates_iff, bne_iff_ne]
  omega

/-- A speaker total under the mute factor (07 R161). -/
def State.muted (s : State) (xs : List ℤ) (x : ℕ) : ℤ := (networkPeriod s xs).2.getD x 0 * (s.muteFactor : ℤ) / 32768

theorem networkStep_halted {s : State} (h : s.mode.halted = true) (first : ℕ) (xs : List ℤ) :
    s.networkStep first xs = s.setOutputs { s.outputs with formed := List.replicate 128 0 } := if_pos h

theorem networkStep_running {s : State} (h : s.mode.halted = false) (first : ℕ) (xs : List ℤ) : s.networkStep first xs =
    ((speakerOrder first).filter fun x => saturates (s.muted xs x)).foldl State.clip
      ((s.setEngines (networkPeriod s xs).1).setOutputs { s.outputs with
        formed := (networkPeriod s xs).2.map fun t => max (-8388607) (min 8388607 (t * (s.muteFactor : ℤ) / 32768)) }) := by
  have hmuted (x : ℕ) : ((networkPeriod s xs).2.map fun t => t * (s.muteFactor : ℤ) / 32768).getD x 0 = s.muted xs x := by
    simpa [State.muted] using List.getD_map (networkPeriod s xs).2 0 (n := x) fun t => t * (s.muteFactor : ℤ) / 32768
  simp only [State.networkStep, h, Bool.false_eq_true, if_false, hmuted, satSpeaker_eq, bne_saturated,
    List.map_map, Function.comp_def]

/-- What the network's work does not touch, halted or running. -/
def State.besideNetwork (s : State) : Word32 × ℕ × List Host.Cell × List InputLane × CueUnit × List Slot × Meters × List Mic
    × Guard × List ℤ :=
  (s.frame, s.framePos, s.ram, s.lanes, s.cues, s.slots, s.meters, s.mics, s.guard, s.outputs.sent)

theorem networkStep_beside (s : State) (first : ℕ) (xs : List ℤ) :
    (s.networkStep first xs).besideNetwork = s.besideNetwork := by
  cases h : s.mode.halted with
  | true => rw [networkStep_halted h]; rfl
  | false =>
    rw [networkStep_running h]
    exact congrArg (fun (frame, framePos, ram, lanes, cues, slots, meters, mics, guard, _, outputs) =>
      (frame, framePos, ram, lanes, cues, slots, meters, mics, guard, OutputLanes.sent outputs)) (foldl_clip_beside ..)

section
variable {s : State} {first : ℕ} (hf : first < 128) (h : s.mode.halted = false) (xs : List ℤ)

/-- A speaker clips while its count stands at 0. -/
def State.newClip (s : State) (xs : List ℤ) (x : ℕ) : Bool := saturates (s.muted xs x) && s.net.clips.getD x 0 == 0

include h

theorem networkStep_outputs : (s.networkStep first xs).outputs.formed =
    (networkPeriod s xs).2.map fun t => max (-8388607) (min 8388607 (t * (s.muteFactor : ℤ) / 32768)) := by
  rw [networkStep_running h]
  exact congrArg (fun (_, _, _, _, _, _, _, _, _, _, outputs) => OutputLanes.formed outputs) (foldl_clip_beside ..)

theorem networkStep_engines : (s.networkStep first xs).engines = (networkPeriod s xs).1 := by
  rw [networkStep_running h]
  exact congrArg (fun (_, _, _, _, _, _, _, _, _, engines, _) => engines) (foldl_clip_beside ..)

theorem networkStep_net : (s.networkStep first xs).net = { s.net with
    clips := ((speakerOrder first).filter fun x => saturates (s.muted xs x)).foldl
      (fun c x => c.modify x fun c => min 65535 (c + 1)) s.net.clips } := by
  rw [networkStep_running h, foldl_clip_net]
  rfl

include hf

/-- The clip counts of the speakers that clip rise by one, up to 65535 (03 R68). -/
theorem networkStep_clips {x : ℕ} (hx : x < 128) (hl : s.net.clips.length = 128) :
    (s.networkStep first xs).net.clips.getD x 0 =
      if saturates (s.muted xs x) then min 65535 (s.net.clips.getD x 0 + 1) else s.net.clips.getD x 0 := by
  rw [networkStep_net h]
  refine (foldl_modify_clips ((speakerOrder_nodup hf).filter _) (hx.trans_eq hl.symm)).trans (if_congr ?_ rfl rfl)
  rw [List.mem_filter, mem_speakerOrder hf]
  exact and_iff_right hx

theorem networkStep_att : (s.networkStep first xs).att = ((speakerOrder first).filter (s.newClip xs)).foldl
    (fun a x => a.change 9 (Notice.occurKeeping (BitVec.ofNat 32 x) s.frame)) s.att := by
  rw [networkStep_running h, foldl_clip_att ((speakerOrder_nodup hf).filter _), List.filter_filter]
  simp only [Bool.and_comm]
  rfl

theorem networkStep_att_quiet (hq : ∀ x < 128, s.newClip xs x = false) : (s.networkStep first xs).att = s.att := by
  rw [networkStep_att hf h, List.filter_eq_nil_iff.2 fun x hx => by rw [hq x ((mem_speakerOrder hf).1 hx)]; decide]
  rfl

theorem networkStep_notice_ne {i : ℕ} (hi : i ≠ 9) : (s.networkStep first xs).att.notice i = s.att.notice i := by
  rw [networkStep_att hf h]
  exact foldl_change_ne hi ..

theorem networkStep_notice (hl : s.att.notices.length = 14) : (s.networkStep first xs).att.notice 9 =
    (s.att.notice 9).clippedBy s.frame ((speakerOrder first).filter (s.newClip xs)) := by
  rw [networkStep_att hf h]
  exact foldl_change_same (fun x => Notice.occurKeeping (BitVec.ofNat 32 x) s.frame) _ (hl ▸ by decide)

/-- OUTPUT CLIP's count rises by one for every speaker that clips anew, up to 255 (09 R171). -/
theorem networkStep_notice_count (hl : s.att.notices.length = 14) (hc : (s.att.notice 9).count ≤ 255) :
    ((s.networkStep first xs).att.notice 9).count =
      min 255 ((s.att.notice 9).count + (List.range 128).countP (s.newClip xs)) := by
  rw [networkStep_notice hf h xs hl, clippedBy_count _ _ hc, ← List.countP_eq_length_filter,
    (speakerOrder_perm hf).countP_eq]

/-- OUTPUT CLIP is pending after a new clip; it tells of the first in the order, unless it was pending before. -/
theorem networkStep_notice_new (hl : s.att.notices.length = 14) {x : ℕ} (hx : x < 128) (hn : s.newClip xs x = true) :
    let n := (s.networkStep first xs).att.notice 9
    n.pending = true ∧ ((s.att.notice 9).pending = true → n.detail = (s.att.notice 9).detail)
      ∧ ((s.att.notice 9).pending = false →
        (∀ y < 128, s.newClip xs y = true → speakerPlace first x ≤ speakerPlace first y) →
          n.detail = BitVec.ofNat 32 x ∧ n.stamp = s.frame) := by
  rw [networkStep_notice hf h xs hl]
  refine ⟨?_, fun hp => (clippedBy_pending _ _ hp).2.1, fun hp hmin => ?_⟩
  · obtain ⟨y, rest, hlist⟩ := List.exists_cons_of_ne_nil
      (List.ne_nil_of_mem (List.mem_filter.2 ⟨(mem_speakerOrder hf).2 hx, hn⟩))
    rw [hlist]
    exact clippedBy_cons_pending ..
  · obtain ⟨rest, hlist⟩ := speakerOrder_head hf hx hn hmin
    rw [hlist]
    exact clippedBy_cons_quiet _ _ _ hp

end

end Sys2Proof.Machine
end

section
/-! PROOFS. The sample period: what comes before it, its lanes, its microphones, its network and its meters (03 R57, 06 R120, 07
R146, R149, R150, 09 R177). -/

namespace Sys2Proof.Machine

/-! ### What comes before (07 R150) -/

theorem beforeSample_early {s : State} (h : s.framePos < 64) : s.beforeSample = s.settle := by
  have hf : s.frameOver = false := decide_eq_false (Nat.not_le.2 h)
  rw [State.beforeSample, hf]
  rfl

theorem exec_frameBoundary_beforeSample {s : State} (hr : s.resetHeld = false) (h : 64 ≤ s.framePos) :
    exec (.frameBoundary [] false) s = .next s.beforeSample := by
  have hf : s.frameOver = true := decide_eq_true h
  rw [exec_frameBoundary hr h, State.beforeSample, if_pos hf]
  rfl

/-! ### The sample period -/

/-- The conditioned samples of the sample period that begins in `u`, and the state after conditioning. -/
def State.conditioned (u : State) : List ℤ × State := u.takeLanes.2.condition u.takeLanes.1

/-- The state in which the network works: the output lanes send what the sample period before formed. -/
def State.sending (u : State) : State := u.conditioned.2.setOutputs { u.outputs with sent := u.outputs.formed }

section
variable (u : State)

/-- Takes and conditioning write the lanes, the microphones and the filters, and the output lanes take their samples. -/
theorem sending_eq : u.sending = (((u.setLanes u.takeLanes.2.lanes).setMics u.conditioned.2.mics).setGuard
    u.conditioned.2.guard).setOutputs { u.outputs with sent := u.outputs.formed } := rfl

@[simp] theorem sending_engines : u.sending.engines = u.engines := by rw [sending_eq]; simp
@[simp] theorem sending_net : u.sending.net = u.net := by rw [sending_eq]; simp
@[simp] theorem sending_att : u.sending.att = u.att := by rw [sending_eq]; simp
@[simp] theorem sending_frame : u.sending.frame = u.frame := by rw [sending_eq]; simp
@[simp] theorem sending_mode : u.sending.mode = u.mode := by rw [sending_eq]; simp
@[simp] theorem sending_clock : u.sending.clock = u.clock := by rw [sending_eq]; simp

theorem sending_besideNetwork : u.sending.besideNetwork = (u.frame, u.framePos, u.ram, u.lanes.map fun l => l.take.2, u.cues,
    u.slots, u.meters, u.conditioned.2.mics, u.conditioned.2.guard, u.outputs.formed) := by
  simp [State.besideNetwork, State.sending, State.conditioned, State.condition, State.takeLanes]

/-- The samples on the output lanes do not bear on the network. -/
@[simp] theorem networkPeriod_sending (xs : List ℤ) : networkPeriod u.sending xs = networkPeriod u.conditioned.2 xs := rfl

theorem muteFactor_sending : u.sending.muteFactor = u.mode.factor * u.clock.factor / 32768 := by
  rw [State.muteFactor, sending_mode, sending_clock]
  rfl

theorem muted_sending (xs : List ℤ) (x : ℕ) : u.sending.muted xs x =
    (networkPeriod u.conditioned.2 xs).2.getD x 0 * (u.mode.factor * u.clock.factor / 32768 : ℕ) / 32768 := by
  rw [State.muted, muteFactor_sending, networkPeriod_sending]

theorem newClip_sending (xs : List ℤ) (x : ℕ) :
    u.sending.newClip xs x = (saturates (u.sending.muted xs x) && u.net.clips.getD x 0 == 0) := by
  rw [State.newClip, sending_net]

end

/-- The sample period, once what comes before it is done. -/
def State.periodOf (u : State) (first : ℕ) : State :=
  let w := u.sending.networkStep first u.conditioned.1
  (w.setMeters (w.meters.collect u.conditioned.1 w.outputs.formed)).setFramePos (w.framePos + 1)

section
variable (u : State) (first : ℕ)

@[simp] theorem periodOf_engines :
    (u.periodOf first).engines = (u.sending.networkStep first u.conditioned.1).engines := by simp [State.periodOf]
@[simp] theorem periodOf_net :
    (u.periodOf first).net = (u.sending.networkStep first u.conditioned.1).net := by simp [State.periodOf]
@[simp] theorem periodOf_att :
    (u.periodOf first).att = (u.sending.networkStep first u.conditioned.1).att := by simp [State.periodOf]
@[simp] theorem periodOf_outputs :
    (u.periodOf first).outputs = (u.sending.networkStep first u.conditioned.1).outputs := by simp [State.periodOf]

end

theorem exec_samplePeriod {s : State} {first : ℕ} (hf : first < 128) (hr : s.resetHeld = false) :
    exec (.samplePeriod first) s = .next (s.beforeSample.periodOf first) := forUnit_of hr (decide_eq_true hf) _

/-- What a sample period does, halted or running. -/
theorem periodOf_always (u : State) (first : ℕ) :
    let t := u.periodOf first
    t.framePos = u.framePos + 1 ∧ t.frame = u.frame ∧ t.ram = u.ram ∧ t.outputs.sent = u.outputs.formed
      ∧ t.lanes = u.lanes.map (fun l => l.take.2) ∧ t.cues = u.cues ∧ t.slots = u.slots
      ∧ t.meters.periods = u.meters.periods + 1 ∧ t.mics = u.conditioned.2.mics ∧ t.guard = u.conditioned.2.guard
      ∧ t.meters = u.meters.collect u.conditioned.1 t.outputs.formed := by
  have h := networkStep_beside u.sending first u.conditioned.1
  rw [sending_besideNetwork] at h
  simp only [State.besideNetwork, Prod.mk.injEq] at h
  obtain ⟨hframe, hpos, hram, hlanes, hcues, hslots, hmeters, hmics, hguard, hsent⟩ := h
  simp [State.periodOf, hframe, hpos, hram, hlanes, hcues, hslots, hmeters, hmics, hguard, hsent, Meters.collect]

/-- Halted, the network holds and every output sample is 0 (03 R56). -/
theorem periodOf_halted {u : State} (h : u.mode.halted = true) (first : ℕ) :
    let t := u.periodOf first
    t.engines = u.engines ∧ t.outputs.formed = List.replicate 128 0 ∧ t.net = u.net ∧ t.att = u.att := by
  have hs : u.sending.mode.halted = true := by rwa [sending_mode]
  simp [networkStep_halted hs]

/-- Settles O57: what comes before, the fields of the sample period halted and running, then one microphone's conditioning. -/
theorem samplePeriodRuns : Obligations.SamplePeriodRuns := by
  refine ⟨?period, ?conditioning⟩
  case period =>
    intro s first hf hr u
    refine ⟨fun h => ⟨beforeSample_early h, fun ht => (beforeSample_early h).trans (settle_nil ht)⟩,
      exec_frameBoundary_beforeSample hr, u.periodOf first, exec_samplePeriod hf hr, ?_⟩
    clear_value u
    obtain ⟨hpos, hframe, hram, hsent, hlanes, hcues, hslots, hperiods, hmics, hguard, hmeters⟩ := periodOf_always u first
    refine ⟨hpos, hframe, hram, hsent, hlanes, hcues, hslots, hperiods, ⟨hmics, hguard, hmeters⟩,
      fun h => periodOf_halted h first, fun h => ?_⟩
    intro c r q v clips new
    have hs : u.sending.mode.halted = false := by rwa [sending_mode]
    have hnet := networkStep_net (first := first) hs c.1
    have hclips (x : ℕ) : saturates (u.sending.muted c.1 x) = true ↔ clips x := by
      rw [muted_sending]
      exact saturates_iff
    have hnew (x : ℕ) : u.sending.newClip c.1 x = true ↔ new x := by
      rw [newClip_sending, Bool.and_eq_true, beq_iff_eq]
      exact and_congr_left' (hclips x)
    have hnews : u.sending.newClip c.1 = fun x =>
        (decide (v x < -8388607) || decide (8388607 < v x)) && u.net.clips.getD x 0 == 0 := funext fun x => by
      rw [newClip_sending, muted_sending]
      rfl
    rw [sending_net] at hnet
    simp only [periodOf_engines, periodOf_net, periodOf_att, periodOf_outputs]
    refine ⟨networkStep_engines hs c.1, ?formed, (congrArg Network.play hnet).trans rfl,
      (congrArg Network.draining hnet).trans rfl, fun hl x hx => ?counts, fun hq => ?quiet, fun i hi => ?others,
      fun _ hl hc => ?count, fun _ hl x hx hn => ?raised⟩
    case formed =>
      refine (networkStep_outputs hs c.1).trans ?_
      rw [muteFactor_sending]
      rfl
    case counts =>
      have hcount := networkStep_clips hf hs c.1 hx (by rwa [sending_net])
      rw [sending_net] at hcount
      exact ⟨fun h => hcount.trans (if_pos ((hclips x).2 h)), fun h => hcount.trans (if_neg ((hclips x).not.2 h))⟩
    case quiet =>
      exact (networkStep_att_quiet hf hs c.1 fun x hx => Bool.eq_false_iff.2 ((hnew x).not.2 (hq x hx))).trans (sending_att u)
    case others => exact (networkStep_notice_ne hf hs c.1 hi).trans (by rw [sending_att])
    case count =>
      have hcount := networkStep_notice_count hf hs c.1 (by rwa [sending_att]) (by rwa [sending_att])
      rwa [sending_att, hnews] at hcount
    case raised =>
      obtain ⟨hpending, hkept, hfirst⟩ := networkStep_notice_new hf hs c.1 (by rwa [sending_att]) hx ((hnew x).2 hn)
      rw [sending_att] at hkept hfirst
      rw [sending_frame] at hfirst
      exact ⟨hpending, hkept, fun hp hmin => hfirst hp fun y hy hny => hmin y hy ((hnew y).1 hny)⟩
  case conditioning =>
    intro s samples m x hx c heard x0 x2 out
    obtain ⟨hout, hmic, hpool⟩ := condition_mic hx samples
    rw [conditionMic_eq] at hout hmic hpool
    refine ⟨hout, hmic, rfl, hpool.length_eq.symm.trans (notchChain_length ..), fun n y hy he hm => ?_⟩
    have hn : n < (notchChain m s.guard.pool (sat32 (x0 * x.trimWord / 8192))).2.length :=
      (List.getElem?_eq_some_iff.1 hy).1.trans_eq (notchChain_length ..).symm
    have hz := List.getElem?_eq_getElem hn
    exact (sameOn_getElem? hpool hz (notchChain_on_getElem? hy ⟨he, hm⟩ hz)).trans hz.symm

end Sys2Proof.Machine
end

section
/-! PROOFS. Gain words and decay words are roundings of exact powers of ten (04 R73, R74, 06 R117). -/

namespace Sys2Proof.Machine

/-! ### The search for a word -/

/-- The search finds the greatest number that passes. -/
theorem bitSearch_eq {ok : Nat → Bool} {m : Nat} (h : ∀ g, ok g = true ↔ g ≤ m) :
    ∀ {bits acc : Nat}, acc ≤ m → m < acc + 2 ^ bits → bitSearch ok bits acc = m
  | 0, acc, hlo, hhi => by rw [bitSearch]; omega
  | bits + 1, acc, hlo, hhi => by
    rw [pow_succ] at hhi
    rw [bitSearch]
    split
    · next hok => exact bitSearch_eq h ((h _).1 hok) (by omega)
    · next hok => exact bitSearch_eq h hlo (by have := mt (h _).2 hok; omega)

/-! ### The power of ten of a gain -/

/-- The amplitude of `c` cdB: 10^(c/2000) (00 Conventions). -/
noncomputable def amplitude (c : ℤ) : ℝ := 10 ^ ((c : ℝ) / 2000)

theorem amplitude_pos (c : ℤ) : 0 < amplitude c := Real.rpow_pos_of_pos (by norm_num) _

theorem amplitude_mono {c d : ℤ} (h : c ≤ d) : amplitude c ≤ amplitude d :=
  Real.rpow_le_rpow_of_exponent_le (by norm_num) (by gcongr)

theorem amplitude_pow (c : ℤ) (n : ℕ) : amplitude c ^ n = 10 ^ ((c : ℝ) / 2000 * n) :=
  (Real.rpow_mul_natCast (by norm_num) _ n).symm

/-- The two whole powers of ten that the searches compare by. -/
theorem amplitude_pow_rootOrder (c : ℤ) : amplitude c ^ rootOrder * 10 ^ (-c).toNat = 10 ^ c.toNat := by
  have hexp : (c : ℝ) / 2000 * (rootOrder : ℕ) = c := by
    rw [rootOrder, Nat.cast_ofNat, div_mul_cancel₀ _ (by norm_num)]
  rw [amplitude_pow, hexp, Real.rpow_intCast, ← zpow_natCast, ← zpow_natCast, ← zpow_add₀ (by norm_num)]
  congr 1
  omega

section
variable (c : ℤ) (g n : ℕ)

/-- Both sides of a search's comparison, as reals: the powers of `g` and of `n` times the amplitude, in one unit. -/
theorem cast_root_side : ((n ^ rootOrder * 10 ^ c.toNat : ℕ) : ℝ) = (n * amplitude c) ^ rootOrder * 10 ^ (-c).toNat := by
  rw [mul_pow, mul_assoc, amplitude_pow_rootOrder]
  push_cast
  rfl

theorem root_le_iff : g ^ rootOrder * 10 ^ (-c).toNat ≤ n ^ rootOrder * 10 ^ c.toNat ↔ (g : ℝ) ≤ n * amplitude c := by
  have hr : 0 ≤ n * amplitude c := mul_nonneg n.cast_nonneg (amplitude_pos c).le
  rw [← Nat.cast_le (α := ℝ), cast_root_side c n, Nat.cast_mul, Nat.cast_pow, Nat.cast_pow, Nat.cast_ofNat,
    mul_le_mul_iff_of_pos_right (by positivity), pow_le_pow_iff_left₀ g.cast_nonneg hr (by decide)]

theorem root_eq_iff : g ^ rootOrder * 10 ^ (-c).toNat = n ^ rootOrder * 10 ^ c.toNat ↔ (g : ℝ) = n * amplitude c := by
  have hr : 0 ≤ n * amplitude c := mul_nonneg n.cast_nonneg (amplitude_pos c).le
  rw [← Nat.cast_inj (R := ℝ), cast_root_side c n, Nat.cast_mul, Nat.cast_pow, Nat.cast_pow, Nat.cast_ofNat,
    mul_left_inj' (by positivity), pow_left_inj₀ g.cast_nonneg hr (by decide)]

theorem root_lt_iff : g ^ rootOrder * 10 ^ (-c).toNat < n ^ rootOrder * 10 ^ c.toNat ↔ (g : ℝ) < n * amplitude c := by
  rw [lt_iff_le_and_ne, lt_iff_le_and_ne, root_le_iff, Ne, root_eq_iff]

end

/-! ### Gain words (04 R74, 06 R117) -/

/-- The greatest trim is an amplitude below 16. -/
theorem amplitude_lt_sixteen {c : ℤ} (h : c ≤ 2400) : amplitude c < 16 := by
  refine (amplitude_mono h).trans_lt (lt_of_pow_lt_pow_left₀ 5 (by norm_num) ?_)
  have hexp : ((2400 : ℤ) : ℝ) / 2000 * (5 : ℕ) = (6 : ℕ) := by norm_num
  rw [amplitude_pow, hexp, Real.rpow_natCast]
  norm_num

/-- What passes the search for a gain word is at most the rounding. -/
theorem gainWord_ok_iff (c : ℤ) (g : ℕ) : (2 * g - 1) ^ rootOrder * 10 ^ (-c).toNat ≤ 16384 ^ rootOrder * 10 ^ c.toNat ↔
    g ≤ ⌊8192 * amplitude c + 1 / 2⌋₊ := by
  have hr := amplitude_pos c
  rw [root_le_iff, Nat.le_floor_iff (by positivity)]
  push_cast
  cases g with
  | zero =>
    simp only [Nat.cast_zero, mul_zero, Nat.zero_sub]
    exact iff_of_true (by positivity) (by positivity)
  | succ g =>
    have hsub : 2 * (g + 1) - 1 = 2 * g + 1 := by omega
    rw [hsub]
    push_cast
    constructor <;> intro h <;> linarith

theorem gainWord_eq_floor {c : ℤ} (h : c ≤ 2400) : gainWord c = ⌊8192 * amplitude c + 1 / 2⌋₊ := by
  have hr := amplitude_pos c
  refine bitSearch_eq (fun g => decide_eq_true_iff.trans (gainWord_ok_iff c g)) (Nat.zero_le _) ?_
  rw [Nat.floor_lt (by positivity)]
  push_cast
  linarith [amplitude_lt_sixteen h]

/-! ### Decay words (04 R73) -/

/-- 65536 × 10^(-a/2000), which a decay word quantizes. -/
noncomputable def decayValue (a : ℕ) : ℝ := 65536 * amplitude (-a)

theorem decayValue_pos (a : ℕ) : 0 < decayValue a := mul_pos (by norm_num) (amplitude_pos _)

/-- From 5 cdB on the value lies below the greatest decay word: no limit acts. -/
theorem decayValue_lt {a : ℕ} (h : 5 ≤ a) : decayValue a < 65535 := by
  have hr : amplitude (-a) < 999 / 1000 := by
    refine (amplitude_mono (d := -5) (by omega)).trans_lt (lt_of_pow_lt_pow_left₀ 400 (by norm_num) ?_)
    have hexp : ((-5 : ℤ) : ℝ) / 2000 * (400 : ℕ) = (-1 : ℤ) := by norm_num
    have hb : (1 : ℝ) + (400 : ℕ) * (-1 / 1000) ≤ (1 + -1 / 1000) ^ 400 := one_add_mul_le_pow (by norm_num) 400
    rw [amplitude_pow, hexp, Real.rpow_intCast]
    calc (10 : ℝ) ^ (-1 : ℤ) < 1 + (400 : ℕ) * (-1 / 1000) := by norm_num
      _ ≤ (1 + -1 / 1000) ^ 400 := hb
      _ = (999 / 1000) ^ 400 := by rw [show (1 + -1 / 1000 : ℝ) = 999 / 1000 by norm_num]
  rw [decayValue]
  linarith

section
variable (a g n : ℕ)

theorem decayRoot_le_iff : g ^ rootOrder * 10 ^ a ≤ n ^ rootOrder ↔ (g : ℝ) ≤ n * amplitude (-a) := by
  simpa using root_le_iff (-a) g n

theorem decayRoot_eq_iff : g ^ rootOrder * 10 ^ a = n ^ rootOrder ↔ (g : ℝ) = n * amplitude (-a) := by
  simpa using root_eq_iff (-a) g n

theorem decayRoot_lt_iff : g ^ rootOrder * 10 ^ a < n ^ rootOrder ↔ (g : ℝ) < n * amplitude (-a) := by
  simpa using root_lt_iff (-a) g n

end

theorem decayFloor_eq_floor {a : ℕ} (h : 5 ≤ a) : decayFloor a = ⌊decayValue a⌋₊ := by
  refine bitSearch_eq (fun g => decide_eq_true_iff.trans ?_) (Nat.zero_le _) ?_
  · rw [decayRoot_le_iff, Nat.le_floor_iff (decayValue_pos a).le]
    rfl
  · rw [Nat.floor_lt (decayValue_pos a).le]
    exact (decayValue_lt h).trans (by norm_num)

/-- DOWN (04 R73). -/
theorem decayWord_down {a : ℕ} (h : 5 ≤ a) : decayWord .down a = ⌊decayValue a⌋₊ := by
  have hlt := (Nat.floor_lt (decayValue_pos a).le).2 ((decayValue_lt h).trans_eq (by norm_num : (65535 : ℝ) = (65535 : ℕ)))
  rw [decayWord, decayFloor_eq_floor h, min_eq_right hlt.le]

/-- The comparison of `decayNearest`: the half above `g` against the value. -/
theorem half_lt_decayValue_iff (a g : ℕ) : (2 * g + 1) ^ rootOrder * 10 ^ a < 131072 ^ rootOrder ↔
    (g : ℝ) + 1 / 2 < decayValue a := by
  rw [decayRoot_lt_iff, decayValue]
  push_cast
  constructor <;> intro h <;> linarith

theorem half_eq_decayValue_iff (a g : ℕ) : (2 * g + 1) ^ rootOrder * 10 ^ a = 131072 ^ rootOrder ↔
    (g : ℝ) + 1 / 2 = decayValue a := by
  rw [decayRoot_eq_iff, decayValue]
  push_cast
  constructor <;> intro h <;> linarith

/-- NEAREST, by where the value lies against the half above its floor (04 R73). -/
theorem decayNearest_cases (a : ℕ) : let g := decayFloor a
    (g : ℝ) + 1 / 2 < decayValue a ∧ decayNearest a = g + 1
    ∨ (g : ℝ) + 1 / 2 = decayValue a ∧ decayNearest a = g + g % 2
    ∨ decayValue a < (g : ℝ) + 1 / 2 ∧ decayNearest a = g := by
  intro g
  rw [decayNearest]
  simp only [half_lt_decayValue_iff, half_eq_decayValue_iff, Bool.and_eq_true, decide_eq_true_eq]
  obtain h | h | h := lt_trichotomy ((decayFloor a : ℝ) + 1 / 2) (decayValue a)
  · exact .inl ⟨h, if_pos h⟩
  · refine .inr (.inl ⟨h, (if_neg h.not_lt).trans ?_⟩)
    simp only [h, true_and]
    split <;> omega
  · exact .inr (.inr ⟨h, (if_neg h.not_gt).trans (if_neg fun hc => h.ne' hc.1)⟩)

/-- NEAREST is within half a unit of the value; a value halfway goes to the even neighbour (04 R73). -/
theorem decayNearest_near {a : ℕ} (h : 5 ≤ a) : |(decayNearest a : ℝ) - decayValue a| ≤ 1 / 2
    ∧ (|(decayNearest a : ℝ) - decayValue a| = 1 / 2 → decayNearest a % 2 = 0) := by
  have hlo : (decayFloor a : ℝ) ≤ decayValue a := by
    rw [decayFloor_eq_floor h]
    exact Nat.floor_le (decayValue_pos a).le
  have hhi : decayValue a < decayFloor a + 1 := by
    rw [decayFloor_eq_floor h]
    exact Nat.lt_floor_add_one _
  obtain ⟨hv, hg⟩ | ⟨hv, hg⟩ | ⟨hv, hg⟩ := decayNearest_cases a <;> rw [hg]
  · push_cast
    rw [abs_of_pos (by linarith)]
    exact ⟨by linarith, fun hc => absurd hc (by linarith)⟩
  · refine ⟨?_, fun _ => by omega⟩
    obtain hm | hm := Nat.mod_two_eq_zero_or_one (decayFloor a) <;> rw [hm, ← hv, abs_le] <;> push_cast <;>
      constructor <;> linarith
  · rw [abs_of_nonpos (by linarith)]
    exact ⟨by linarith, fun hc => absurd hc (by linarith)⟩

/-- NEAREST (04 R73). -/
theorem decayWord_nearest {a : ℕ} (h : 5 ≤ a) : decayWord .nearest a = decayNearest a := by
  have hnear := (abs_le.1 (decayNearest_near h).1).2
  have hlt : (decayNearest a : ℝ) < (65536 : ℕ) := by
    push_cast
    linarith [decayValue_lt h]
  exact min_eq_right (Nat.le_of_lt_succ (Nat.cast_lt.1 hlt))

end Sys2Proof.Machine
end

section
/-! PROOFS. The stages of a computation and the normalization of taps (02 R38, R41; 04 R70 to R77). -/

namespace Sys2Proof.Machine

/-! ### Stages 1 to 3 (04 R71 to R73) -/

theorem effectiveTime_eq (t k : Nat) : effectiveTime t k =
    (max 100 (min 12000 (t * k / 1000)), decide (t * k / 1000 < 100 ∨ 12000 < t * k / 1000)) := by
  simp only [effectiveTime]
  split_ifs with hlo hhi <;> refine Prod.ext ?_ ?_ <;> simp <;> omega

theorem attenuation_eq {amin : Nat} (h : amin ≤ 9600) (loopLength time : Nat) :
    let a := (250 * loopLength + time) / (2 * time)
    attenuation amin loopLength time = (max amin (min 9600 a), decide (a < amin), decide (9600 < a)) := by
  simp only [attenuation]
  split_ifs with hlo hhi <;> refine Prod.ext ?_ (Prod.ext ?_ ?_) <;> simp <;> omega

/-- Stages 1 to 3 for one line and band, in closed form. -/
theorem bandResult_eq (r : SceneRecord) (l : LineRecord) (k : Nat) (b : Band) (h : r.amin ≤ 9600) :
    let v := targetTime r l b * k / 1000
    let time := max 100 (min 12000 v)
    let a := (250 * l.loopLength + time) / (2 * time)
    bandResult r l k b = (decayWord r.quantization (max r.amin (min 9600 a)), time,
      ⟨decide (a < r.amin), decide (9600 < a), decide (v < 100 ∨ 12000 < v), false⟩) := by
  simp only [bandResult, effectiveTime_eq, attenuation_eq h]

/-! ### Flags over lines and taps (04 R77) -/

/-- A flag of a sum of flags, for a flag that adds up. -/
theorem foldl_add_flag {α : Type} {π : StatusFlags → Bool} (hadd : ∀ f g, π (f.add g) = (π f || π g)) (flags : α → StatusFlags)
    (l : List α) (f : StatusFlags) : π (l.foldl (fun f x => f.add (flags x)) f) = (π f || l.any fun x => π (flags x)) := by
  induction l generalizing f with
  | nil => simp
  | cons x l ih => rw [List.foldl_cons, ih, hadd, List.any_cons, Bool.or_assoc]

theorem exists_band {p : Band → Prop} : (∃ b, p b) ↔ p .lf ∨ p .mf ∨ p .hf := by
  constructor
  · rintro ⟨b, h⟩
    cases b <;> simp only [h, true_or, or_true]
  · rintro (h | h | h) <;> exact ⟨_, h⟩

/-- A flag of a line is that of one of its bands. -/
theorem lineFlags_flag {π : StatusFlags → Bool} (hadd : ∀ f g, π (f.add g) = (π f || π g)) (r : SceneRecord) (k : Nat)
    (l : LineRecord) : π (lineFlags (lineResult r k l)) = true ↔ ∃ b, π (bandResult r l k b).2.2 = true := by
  rw [lineFlags, hadd, hadd, exists_band, Bool.or_eq_true, Bool.or_eq_true, or_assoc]
  rfl

/-- The flags that the lines of a record set. -/
def SceneRecord.flagsOfLines (r : SceneRecord) (k : Nat) : StatusFlags :=
  (r.lines.map (lineResult r k)).foldl (fun f x => f.add (Machine.lineFlags x)) .clear

theorem flagsOfLines_flag {π : StatusFlags → Bool} (hadd : ∀ f g, π (f.add g) = (π f || π g)) (hclear : π .clear = false)
    (r : SceneRecord) (k : Nat) :
    π (r.flagsOfLines k) = true ↔ ∃ l ∈ r.lines, ∃ b, π (bandResult r l k b).2.2 = true := by
  rw [SceneRecord.flagsOfLines, foldl_add_flag hadd, hclear, Bool.false_or, List.any_map, List.any_eq_true]
  simp only [Function.comp_apply, lineFlags_flag hadd]

/-- No line and no band sets GCLAMP. -/
theorem flagsOfLines_gclamp (r : SceneRecord) (k : Nat) : (r.flagsOfLines k).gclamp = false := by
  rw [← Bool.not_eq_true, flagsOfLines_flag (π := (·.gclamp)) (fun _ _ => rfl) rfl]
  rintro ⟨l, _, b, h⟩
  exact Bool.false_ne_true h

/-! ### Tap words (04 R74, R75) -/

theorem clamp_eq {lo hi : Int} (h : lo ≤ hi) (v : Int) :
    clamp lo hi v = (max lo (min hi v), decide (v < lo ∨ hi < v)) := by
  rw [clamp]
  split_ifs with hlo hhi <;> refine Prod.ext ?_ ?_ <;> simp <;> omega

section
variable (sp : SpeakerRecord)

theorem speakerWords_words : let n := normalization (sp.taps.filterMap (·.gain))
    (speakerWords sp).1 = sp.taps.map fun t => match t.gain with
      | none => 0
      | some c => gainWord (max (-9600) (min 1200 (c - n + sp.level))) := by
  simp only [speakerWords, clamp_eq (show (-9600 : Int) ≤ 1200 by decide), List.map_map]
  refine List.map_congr_left fun t _ => ?_
  cases h : t.gain <;> simp [h]

theorem speakerWords_clamped : let n := normalization (sp.taps.filterMap (·.gain))
    (speakerWords sp).2 = true ↔ ∃ t ∈ sp.taps, ∃ c, t.gain = some c
      ∧ (c - n + sp.level < -9600 ∨ 1200 < c - n + sp.level) := by
  simp only [speakerWords, clamp_eq (show (-9600 : Int) ≤ 1200 by decide), List.any_map, List.any_eq_true]
  refine exists_congr fun t => and_congr_right fun _ => ?_
  cases h : t.gain <;> simp [h]

end

/-! ### A computation (04 R76) -/

section
variable (r : SceneRecord) (full : Bool) (tau : Int) (beta : Nat)

/-- The computed part and the flags that the lines alone give. -/
def SceneRecord.ofLines (k : Nat) (sends : List Nat) (taps : List (List Nat)) : Computed where
  decay := r.lines.map fun l => .ofFn fun b => (bandResult r l k b).1
  times := r.lines.map fun l => .ofFn fun b => (bandResult r l k b).2.1
  sendWords := sends
  tapWords := taps

/-- A load computation forms the send and tap words. -/
theorem computeRecord_load : computeRecord r true tau beta =
    (r.ofLines (timeFactor tau beta) (r.sends.map fun e => gainWordOf e.gain) (r.speakers.map fun sp => (speakerWords sp).1),
      (r.flagsOfLines (timeFactor tau beta)).add ⟨false, false, false, r.speakers.any fun sp => (speakerWords sp).2⟩) := by
  simp only [computeRecord, if_true, List.map_map, List.any_map]
  rfl

/-- Another computation leaves the words that the record holds. -/
theorem computeRecord_reload : computeRecord r false tau beta =
    (r.ofLines (timeFactor tau beta) (r.computed.elim [] (·.sendWords)) (r.computed.elim [] (·.tapWords)),
      r.flagsOfLines (timeFactor tau beta)) := by
  simp only [computeRecord, Bool.false_eq_true, if_false, List.map_map]
  cases r.computed <;> rfl

theorem computeRecord_lines : ∃ sends taps,
    (computeRecord r full tau beta).1 = r.ofLines (timeFactor tau beta) sends taps := by
  cases full with
  | true => exact ⟨_, _, congrArg Prod.fst (computeRecord_load r tau beta)⟩
  | false => exact ⟨_, _, congrArg Prod.fst (computeRecord_reload r tau beta)⟩

/-- A flag that the taps do not set is that of the lines. -/
theorem computeRecord_flag {π : StatusFlags → Bool} (hadd : ∀ f g, π (f.add g) = (π f || π g)) (hclear : π .clear = false)
    (htaps : ∀ b, π ⟨false, false, false, b⟩ = false) : π (computeRecord r full tau beta).2 = true ↔
      ∃ l ∈ r.lines, ∃ b, π (bandResult r l (timeFactor tau beta) b).2.2 = true := by
  rw [← flagsOfLines_flag hadd hclear]
  cases full with
  | true => rw [computeRecord_load, hadd, htaps, Bool.or_false]
  | false => rw [computeRecord_reload]

/-- The taps of a load computation set GCLAMP, and nothing else does. -/
theorem computeRecord_gclamp : (computeRecord r full tau beta).2.gclamp = true ↔
    full = true ∧ ∃ sp ∈ r.speakers, (speakerWords sp).2 = true := by
  cases full with
  | true =>
    rw [computeRecord_load, ← List.any_eq_true]
    simp [StatusFlags.add, flagsOfLines_gclamp]
  | false => simp [computeRecord_reload, flagsOfLines_gclamp]

end

/-! ### The normalization of taps (04 R75) -/

theorem foldl_max_add (k : ℤ) (cs : List ℤ) (c : ℤ) : (cs.map (· + k)).foldl max (c + k) = cs.foldl max c + k := by
  rw [List.foldl_map]
  exact List.foldl_hom (· + k) fun x y => max_add_add_right x y k

/-- The greatest gain is taken out of the sum: gains raised alike leave the rest of it as it is. -/
theorem normalization_shift {cs : List ℤ} (h : cs ≠ []) (k : ℤ) : normalization (cs.map (· + k)) = normalization cs + k := by
  obtain ⟨c, cs, rfl⟩ := List.exists_cons_of_ne_nil h
  have hmax : ((c :: cs).map (· + k)).foldl max (((c :: cs).map (· + k)).headD 0) = (c :: cs).foldl max c + k :=
    foldl_max_add k (c :: cs) c
  have hsub : ((c :: cs).map (· + k)).map (· - ((c :: cs).foldl max c + k)) = (c :: cs).map (· - (c :: cs).foldl max c) := by
    rw [List.map_map]
    exact List.map_congr_left fun x _ => add_sub_add_right_eq_sub x _ k
  simp only [normalization]
  rw [hmax, hsub]
  simp only [List.map_cons, List.isEmpty_cons, Bool.false_eq_true, if_false, List.headD_cons]
  ring

theorem normalization_values : [[0, -602], [1200, -9600], [-301, -301, -477, -9600], [1200, 900, 600, 300, 0, -300, -600, -900],
    List.replicate 8 1200].map normalization = [97, 1200, 125, 1500, 2103] := by decide +kernel

/-- One tap, two and four equal taps, at gain 0. -/
theorem normalization_zeros : [[0], [0, 0], [0, 0, 0, 0]].map normalization = [0, 301, 602] := by decide +kernel

theorem normalization_one (c : ℤ) : normalization [c] = c := by
  have hzeros := normalization_zeros
  have hone := normalization_shift (cs := [0]) (by simp) c
  simp only [List.map_cons, List.map_nil, List.cons.injEq, zero_add] at hzeros hone
  omega

theorem normalization_equal (c : ℤ) : normalization [c, c] = c + 301 ∧ normalization [c, c, c, c] = c + 602 := by
  have hzeros := normalization_zeros
  have htwo := normalization_shift (cs := [0, 0]) (by simp) c
  have hfour := normalization_shift (cs := [0, 0, 0, 0]) (by simp) c
  simp only [List.map_cons, List.map_nil, List.cons.injEq, zero_add] at hzeros htwo hfour
  omega

/-! ### The statements -/

/-- Settles O28: the stages in closed form, a load computation and another one apart, the normalization by its shift. -/
theorem stagesOfABand : Obligations.StagesOfABand := by
  refine ⟨fun r l k b h => bandResult_eq r l k b h, fun sp => ⟨speakerWords_words sp, speakerWords_clamped sp⟩,
    fun _ _ => ⟨rfl, rfl, rfl⟩, ?computation, rfl, normalization_one, normalization_equal, fun cs k h => normalization_shift h k,
    normalization_values⟩
  case computation =>
  intro r full tau beta k hk x flag
  obtain rfl : timeFactor tau beta = k := by rw [timeFactor, ← hk, Int.toNat_natCast]
  obtain ⟨sends, taps, hlines⟩ := computeRecord_lines r full tau beta
  refine ⟨congrArg Computed.decay hlines, congrArg Computed.times hlines,
    computeRecord_flag r full tau beta (fun _ _ => rfl) rfl fun _ => rfl,
    computeRecord_flag r full tau beta (fun _ _ => rfl) rfl fun _ => rfl,
    computeRecord_flag r full tau beta (fun _ _ => rfl) rfl fun _ => rfl, computeRecord_gclamp r full tau beta, ?load, ?reload⟩
  case load =>
    rintro rfl
    have hcomputed := computeRecord_load r tau beta
    exact ⟨congrArg (·.1.tapWords) hcomputed, (congrArg (·.1.sendWords) hcomputed).trans
      (List.map_congr_left fun e _ => by cases e.gain <;> rfl)⟩
  case reload =>
    rintro rfl c hc
    have hcomputed := computeRecord_reload r tau beta
    rw [hc] at hcomputed
    exact ⟨congrArg (·.1.sendWords) hcomputed, congrArg (·.1.tapWords) hcomputed⟩

/-- Settles O29: a word of the search is the floor that its comparison of powers stands for. -/
theorem gainWordsAreRounded : Obligations.GainWordsAreRounded := by
  refine ⟨fun c _ h => ?_, rfl, fun _ => rfl, fun r tau beta => congrArg (·.1.sendWords) (computeRecord_load r tau beta)⟩
  have hpos : 0 ≤ 8192 * amplitude c + 1 / 2 := by linarith [amplitude_pos c]
  rw [gainWord_eq_floor h, Int.natCast_floor_eq_floor hpos]
  rfl

/-- Settles O30: DOWN is the floor, NEAREST lies on the side of the half that the comparison finds. -/
theorem decayWordsAreQuantized : Obligations.DecayWordsAreQuantized := by
  intro a h _ x
  have hx : x = decayValue a := by simp [x, decayValue, amplitude]
  rw [hx]
  obtain ⟨hnear, heven⟩ := decayNearest_near h
  rw [← decayWord_nearest h] at hnear heven
  refine ⟨?_, hnear, heven, min_le_left .., min_le_left ..⟩
  rw [decayWord_down h, Int.natCast_floor_eq_floor (decayValue_pos a).le]

end Sys2Proof.Machine
end

section
/-! PROOFS. The steps of glides (04 R84, R87; 06 R119, R121, R122). -/

namespace Sys2Proof.Machine

/-! ### The value and what remains -/

/-- The last step reaches the end value and leaves no glide. -/
theorem Glide.next_last {g : Glide} (h0 : 0 < g.length) (h : g.step + 1 = g.length) : g.next = (g.stop, none) := by
  have hne : (g.length : ℤ) ≠ 0 := by omega
  rw [Glide.next, Glide.value, h, Int.mul_tdiv_cancel _ hne, if_pos le_rfl, add_sub_cancel]

theorem Glide.next_early {g : Glide} (h : g.step + 1 < g.length) :
    g.next = (g.start + ((g.stop - g.start) * (g.step + 1 : ℕ)).tdiv g.length, some { g with step := g.step + 1 }) := by
  rw [Glide.next, if_neg (Nat.not_le.2 h)]
  rfl

theorem lastStep_some {g : Glide} (h : g.step + 1 = g.length) : lastStep (some g) = true := decide_eq_true h.ge

/-! ### One unit -/

theorem stepGlide_some {x : Engine} {b : Band} {g : Glide} (h : x.glides.get b = some g) : x.stepGlide b =
    { x with words := x.words.put b g.next.1.toNat, glides := x.glides.put b g.next.2 } := by
  rw [Engine.stepGlide, h]

theorem stepEpsilon_some {c : Coefficients} {g : Glide} (h : c.epsilonGlide = some g) :
    c.stepEpsilon = { c with epsilonWord := g.next.1.toNat, epsilonGlide := g.next.2 } := by
  rw [Coefficients.stepEpsilon, h]

theorem stepTrim_some {x : Mic} {g : Glide} (h : x.trimGlide = some g) :
    x.stepTrim = { x with trimWord := g.next.1.toNat, trimGlide := g.next.2 } := by
  rw [Mic.stepTrim, h]

theorem stepFallback_some {x : Mic} {g : Glide} (h : x.fallbackGlide = some g) :
    x.stepFallback = { x with fallbackWord := g.next.1.toNat, fallbackGlide := g.next.2 } := by
  rw [Mic.stepFallback, h]

/-- The filter of a FREE entry leaves its microphone at depth 0 (06 R121). -/
theorem stepDepth_some {x : Notch} {g : Glide} (h : x.filter.glide = some g) : x.stepDepth = { x with filter :=
    if x.kind = .free ∧ g.next.1 = 0 then { x.filter with depth := 0, glide := none, engaged := false }
    else { x.filter with depth := g.next.1.toNat, glide := g.next.2 } } := by
  rw [Notch.stepDepth, h]
  simp only [Bool.and_eq_true, decide_eq_true_eq]
  split <;> rfl

/-- The last step of a depth glide. -/
theorem stepDepth_last {x : Notch} {g : Glide} (h : x.filter.glide = some g) (h0 : 0 < g.length) (hl : g.step + 1 = g.length) :
    x.stepDepth = { x with filter := { x.filter with
      depth := g.stop.toNat, glide := none
      engaged := if x.kind = .free ∧ g.stop = 0 then false else x.filter.engaged } } := by
  rw [stepDepth_some h, Glide.next_last h0 hl]
  by_cases hz : x.kind = .free ∧ g.stop = 0
  · rw [if_pos hz, if_pos hz, hz.2]
    rfl
  · rw [if_neg hz, if_neg hz]

/-! ### The works -/

theorem onMic_eq {s : State} {m : Nat} {x : Mic} (h : s.mics[m]? = some x) (f : Mic → Mic) :
    s.onMic m f = s.setMics (s.mics.set m (f x)) := by
  rw [State.onMic, List.modify_eq_set_getElem?, h]
  rfl

theorem perform_decayGlide {s : State} {e : Nat} {x : Engine} (hx : s.engines[e]? = some x) (b : Band) :
    s.perform (.decayGlide e b) = s.setEngines (s.engines.set e (x.stepGlide b)) := onEngine_eq hx _

theorem perform_trimGlide {s : State} {m : Nat} {x : Mic} (hx : s.mics[m]? = some x) :
    s.perform (.trimGlide m) = s.setMics (s.mics.set m x.stepTrim) := onMic_eq hx _

theorem perform_fallbackGlide {s : State} {m : Nat} {x : Mic} (hx : s.mics[m]? = some x) :
    s.perform (.fallbackGlide m) = s.setMics (s.mics.set m x.stepFallback) := onMic_eq hx _

theorem perform_depthGlide {s : State} {n : Nat} {x : Notch} (hx : s.guard.pool[n]? = some x) :
    s.perform (.depthGlide n) = s.setGuard { s.guard with pool := s.guard.pool.set n x.stepDepth } := by
  rw [State.perform, List.modify_eq_set_getElem?, hx]
  rfl

/-! ### The events of last steps -/

/-- A unit's number names the unit that stands there. -/
theorem getD_of_some {α : Type} {l : List α} {i : Nat} {x : α} (h : l[i]? = some x) (d : α) : l.getD i d = x := by
  rw [List.getD_eq_getElem?_getD, h, Option.getD_some]

section
variable {s : State} {g : Glide} (hl : g.step + 1 = g.length)
include hl

theorem exec_decayGlideEnd {e : Nat} {b : Band} {x : Engine} (he : e < 32) (h : s.due (.decayGlide e b))
    (hx : s.engines[e]? = some x) (hg : x.glides.get b = some g) :
    exec (.decayGlideEnd e b) s = .next ((s.doing (.decayGlide e b)).perform (.decayGlide e b)) := by
  refine (forUnit_of h.1 (decide_eq_true he) _).trans (congrArg _ (eventWork_of_due ?_ h (by simp) (by simp) (by simp)))
  rw [getD_of_some hx, hg, lastStep_some hl]

theorem exec_epsilonGlideEnd (h : s.due .epsGlide) (hg : s.coef.epsilonGlide = some g) :
    exec .epsilonGlideEnd s = .next ((s.doing .epsGlide).perform .epsGlide) := by
  refine (released_of h.1 _).trans (congrArg _ (eventWork_of_due ?_ h (by simp) (by simp) (by simp)))
  rw [hg, lastStep_some hl]

theorem exec_trimGlideEnd {m : Nat} {x : Mic} (hm : m < 48) (h : s.due (.trimGlide m)) (hx : s.mics[m]? = some x)
    (hg : x.trimGlide = some g) : exec (.trimGlideEnd m) s = .next ((s.doing (.trimGlide m)).perform (.trimGlide m)) := by
  refine (forUnit_of h.1 (decide_eq_true hm) _).trans (congrArg _ (eventWork_of_due ?_ h (by simp) (by simp) (by simp)))
  rw [State.mic, getD_of_some hx, hg, lastStep_some hl]

theorem exec_fallbackGlideEnd {m : Nat} {x : Mic} (hm : m < 48) (h : s.due (.fallbackGlide m)) (hx : s.mics[m]? = some x)
    (hg : x.fallbackGlide = some g) :
    exec (.fallbackGlideEnd m) s = .next ((s.doing (.fallbackGlide m)).perform (.fallbackGlide m)) := by
  refine (forUnit_of h.1 (decide_eq_true hm) _).trans (congrArg _ (eventWork_of_due ?_ h (by simp) (by simp) (by simp)))
  rw [State.mic, getD_of_some hx, hg, lastStep_some hl]

theorem exec_notchDepthGlideEnd {n : Nat} {x : Notch} (hn : n < 16) (h : s.due (.depthGlide n))
    (hx : s.guard.pool[n]? = some x) (hg : x.filter.glide = some g) :
    exec (.notchDepthGlideEnd n) s = .next ((s.doing (.depthGlide n)).perform (.depthGlide n)) := by
  refine (forUnit_of h.1 (decide_eq_true hn) _).trans (congrArg _ (eventWork_of_due ?_ h (by simp) (by simp) (by simp)))
  rw [State.entry, getD_of_some hx, hg, lastStep_some hl]

end

/-! ### The statement -/

/-- Settles O33: the last step by what the event does, a step before it by what the work does. -/
theorem glidesEnd : Obligations.GlidesEnd := by
  refine ⟨fun s g h0 hl => ?last, fun s g hl => ?early⟩
  case last =>
    have hnext := Glide.next_last h0 hl
    refine ⟨fun e b x he h hx hg => ?_, fun h hg => ?_, fun m x hm h hx hg => ?_, fun m x hm h hx hg => ?_,
      fun n x hn h hx hg => ?_⟩
    · rw [exec_decayGlideEnd hl he h hx hg, perform_decayGlide (s := s.doing _) hx, stepGlide_some hg, hnext, doing_engines]
    · rw [exec_epsilonGlideEnd hl h hg, State.perform, stepEpsilon_some (c := (s.doing _).coef) hg, hnext, doing_coef]
    · rw [exec_trimGlideEnd hl hm h hx hg, perform_trimGlide (s := s.doing _) hx, stepTrim_some hg, hnext, doing_mics]
    · rw [exec_fallbackGlideEnd hl hm h hx hg, perform_fallbackGlide (s := s.doing _) hx, stepFallback_some hg, hnext,
        doing_mics]
    · rw [exec_notchDepthGlideEnd hl hn h hx hg, perform_depthGlide (s := s.doing _) hx, stepDepth_last hg h0 hl, doing_guard]
  case early =>
    intro j v rest
    have hnext : g.next = (v, rest) := Glide.next_early hl
    refine ⟨fun e b x hx hg => ?_, fun hg => ?_, fun m x hx hg => ?_, fun m x hx hg => ?_, fun n x hx hg => ?_⟩
    · rw [perform_decayGlide hx, stepGlide_some hg, hnext]
    · rw [State.perform, stepEpsilon_some hg, hnext]
    · rw [perform_trimGlide hx, stepTrim_some hg, hnext]
    · rw [perform_fallbackGlide hx, stepFallback_some hg, hnext]
    · rw [perform_depthGlide hx, stepDepth_some hg, hnext]

end Sys2Proof.Machine
end

section
/-! PROOFS. TRIM, CLEAR STATUS and CLEAR NOTCH (04 R78, R87 to R89; 06 R121, R130, R140). -/

namespace Sys2Proof.Machine

/-! ### TRIM (04 R87 to R89) -/

/-- A clamp acts exactly when it changes the parameter. -/
theorem clamp_eq_changed {lo hi : Int} (h : lo ≤ hi) (v : Int) :
    clamp lo hi v = (max lo (min hi v), decide (max lo (min hi v) ≠ v)) := by
  have hacts : (v < lo ∨ hi < v) ↔ max lo (min hi v) ≠ v := by omega
  simp only [clamp_eq h, hacts]

theorem clamp_natCast {lo hi : Nat} (h : lo ≤ hi) (v : Nat) :
    clamp lo hi v = (((max lo (min hi v) : Nat) : Int), decide (max lo (min hi v) ≠ v)) := by
  rw [clamp_eq_changed (Int.ofNat_le.2 h)]
  norm_cast

/-- Epsilon's glide starts from the word that a step still due leaves. -/
theorem trimEpsilon_eq (s : State) (epsilon : Int) (glide : Nat) : s.trimEpsilon epsilon glide =
    let u := if .epsGlide ∈ s.todo then State.perform .epsGlide (s.doing .epsGlide) else s
    u.setCoef { u.coef with epsilon := epsilon, epsilonGlide := some ⟨u.coef.epsilonWord, gainWord epsilon, glide, 0⟩ } := rfl

/-- The take leaves the epsilon glide's step as due as it was. -/
theorem epsGlide_mem_took (s : State) (k : Nat) : .epsGlide ∈ (s.took k).todo ↔ .epsGlide ∈ s.todo :=
  List.mem_erase_of_ne (by decide)

/-- Settles O32: each clamp in closed form, then tau's part and epsilon's part one after the other. -/
theorem trimSetsTauAndEpsilon : Obligations.TrimSetsTauAndEpsilon := by
  intro s k h b first second tau epsilon glide t1 u t2 clamped
  have htau : clamp (-500) 500 (s16 b 13) = (tau, decide (tau ≠ s16 b 13)) := clamp_eq_changed (by decide) _
  have hepsilon : clamp (-9600) 0 (s16 b 15) = (epsilon, decide (epsilon ≠ s16 b 15)) := clamp_eq_changed (by decide) _
  have hglide : clamp 1 3000 (u16 b 17) = ((glide : Int), decide (glide ≠ u16 b 17)) :=
    clamp_natCast (lo := 1) (hi := 3000) (by decide) _
  have htodo : .epsGlide ∈ t1.todo ↔ .epsGlide ∈ s.todo := by
    rw [← epsGlide_mem_took s k]
    cases hfirst : first
    · simp only [t1, hfirst, Bool.false_eq_true, if_false]
    · simp only [t1, hfirst, if_true, requestLive_todo, State.setCoef_todo]
  have htrim : (if second then t1.trimEpsilon epsilon glide else t1) = t2 := by
    rw [trimEpsilon_eq]
    simp only [htodo]
    rfl
  let acts : Bool := (first && decide (tau ≠ s16 b 13)) || (second && decide (epsilon ≠ s16 b 15))
    || ((first || second) && decide (glide ≠ u16 b 17))
  have hacts : acts = true ↔ clamped := by
    simp only [acts, clamped, Bool.or_eq_true, Bool.and_eq_true, decide_eq_true_eq, or_assoc]
  have hrun : exec (.trim k) s = .next (t2.answer k b .done (clampedBit acts)) := by
    refine (exec_of_takeable h).trans (congrArg _ ?_)
    show cueTrim k b (s.took k) = _
    rw [← htrim]
    simp only [cueTrim, htau, hepsilon, hglide, Int.toNat_natCast]
    rfl
  refine ⟨fun hc => ?_, fun hc => ?_⟩
  · rw [hrun, hacts.2 hc]
    rfl
  · rw [hrun, Bool.eq_false_iff.2 (mt hacts.1 hc)]
    rfl

/-! ### CLEAR STATUS (04 R78) -/

theorem cueClearStatus_slot {k : Nat} {bs : List Byte} {s : State} (h : u8 bs 12 ≤ 7) : cueClearStatus k bs s =
    (s.onSlot (u8 bs 12) fun x => { x with flags := ⟨false, false, false, false⟩ }).answer k bs .done 0 :=
  if_neg (Nat.not_lt.2 h)

/-! ### A change of a pool entry (06 R121, R130) -/

/-- A pool that shows the same entries, written before another, leaves no mark of its own. -/
theorem setGuard_setGuard {s : State} {g : Guard} (hpool : g.pool.map Notch.mirrored = s.guard.pool.map Notch.mirrored)
    (hbeta : g.beta = s.guard.beta) (g' : Guard) : (s.setGuard g).setGuard g' = s.setGuard g' := by
  have hnone : s.guard.changes g = 0 := by simp only [Guard.changes, hpool, hbeta, changedFrom_self, Nat.or_zero]
  have hsame : g.changes g' = s.guard.changes g' := by simp only [Guard.changes, hpool, hbeta]
  simp only [State.setGuard, hnone, hsame, Nat.or_zero]

theorem doing_of_not_mem {s : State} {w : Work} (h : w ∉ s.todo) : s.doing w = s := by
  rw [State.doing, List.erase_of_not_mem h]
  rfl

/-- No filter shows in its entry's mirror. -/
theorem stepDepth_mirrored (x : Notch) : x.stepDepth.mirrored = x.mirrored := by
  cases h : x.filter.glide with
  | none => rw [Notch.stepDepth, h]
  | some g => rw [stepDepth_some h]; rfl

theorem map_modify_of_same {α β : Type} {f : α → α} {g : α → β} (h : ∀ x, g (f x) = g x) (l : List α) (n : Nat) :
    (l.modify n f).map g = l.map g := by
  refine List.ext_getElem? fun i => ?_
  rw [List.getElem?_map, List.getElem?_map, List.getElem?_modify]
  cases l[i]? with
  | none => rfl
  | some x =>
    simp only [Option.map_some]
    split <;> simp [h]

/-- The entry, with its glide's step made if it is still due. -/
def State.steppedEntry (s : State) (n : Nat) : Notch := if .depthGlide n ∈ s.todo then (s.entry n).stepDepth else s.entry n

/-- An entry that exists is changed past its glide's step; the change alone is marked. -/
theorem changeEntry_eq {s : State} {n : Nat} {x : Notch} (hx : s.guard.pool[n]? = some x) (f : Notch → Notch) :
    let pool := s.guard.pool.set n (f (s.steppedEntry n))
    s.changeEntry n f = ((s.doing (.depthGlide n)).setGuard { s.guard with pool := pool }).judge .poolFull
      (pool.all Notch.inUse) (pool.countP fun n => n.kind == .fixed) := by
  intro pool
  have hentry : s.entry n = x := getD_of_some hx _
  by_cases hw : Work.depthGlide n ∈ s.todo
  · have hstep : s.stepDepthGlide n =
        (s.doing (.depthGlide n)).setGuard { s.guard with pool := s.guard.pool.modify n Notch.stepDepth } := if_pos hw
    have hpool : (s.guard.pool.modify n Notch.stepDepth).modify n f = pool := by
      rw [List.modify_modify_eq, List.modify_eq_set_getElem?, hx]
      simp only [pool, State.steppedEntry, if_pos hw, hentry]
      rfl
    have hset := setGuard_setGuard (s := s.doing (.depthGlide n))
      (g := { s.guard with pool := s.guard.pool.modify n Notch.stepDepth })
      (map_modify_of_same stepDepth_mirrored _ n) rfl { s.guard with pool := pool }
    rw [State.changeEntry, hstep, ← hset, ← hpool]
    rfl
  · have hstep : s.stepDepthGlide n = s := if_neg hw
    have hpool : s.guard.pool.modify n f = pool := by
      rw [List.modify_eq_set_getElem?, hx]
      simp only [pool, State.steppedEntry, if_neg hw, hentry]
      rfl
    rw [State.changeEntry, hstep, doing_of_not_mem hw, ← hpool]
    rfl

/-! ### CLEAR NOTCH (06 R140) -/

theorem cueClearNotch_range {k : Nat} {bs : List Byte} {s : State} (h : 15 < u8 bs 12) :
    cueClearNotch k bs s = s.answer k bs .range 0 := if_pos h

theorem inUse_iff {x : Notch} : x.inUse = true ↔ x.kind ≠ .free := bne_iff_ne

theorem cueClearNotch_free {k : Nat} {bs : List Byte} {s : State} (h : u8 bs 12 ≤ 15) (hk : (s.entry (u8 bs 12)).kind = .free) :
    cueClearNotch k bs s = s.answer k bs .done 0 :=
  (if_neg (Nat.not_lt.2 h)).trans (if_neg fun hu => inUse_iff.1 hu hk)

theorem cueClearNotch_inUse {k : Nat} {bs : List Byte} {s : State} (h : u8 bs 12 ≤ 15)
    (hk : (s.entry (u8 bs 12)).kind ≠ .free) :
    cueClearNotch k bs s = (s.changeEntry (u8 bs 12) Notch.release).answer k bs .done 0 :=
  (if_neg (Nat.not_lt.2 h)).trans (if_pos (inUse_iff.2 hk))

/-- An entry in use is one of the pool's. -/
theorem getElem?_entry_of_inUse {s : State} {n : Nat} (h : (s.entry n).kind ≠ .free) : s.guard.pool[n]? = some (s.entry n) := by
  cases hx : s.guard.pool[n]? with
  | none => exact absurd (by rw [State.entry, List.getD_eq_getElem?_getD, hx]; rfl) h
  | some x => rw [State.entry, getD_of_some hx]

/-- The glide's step of an entry leaves the entry stepped. -/
theorem perform_depthGlide_entry {s : State} {n : Nat} {x : Notch} (hx : s.guard.pool[n]? = some x) :
    (s.perform (.depthGlide n)).entry n = x.stepDepth := by
  refine getD_of_some ?_ _
  rw [perform_depthGlide hx]
  exact List.getElem?_set_self (List.getElem?_eq_some_iff.1 hx).1

/-- Settles O44: CLEAR NOTCH is the change of an entry whose glide's step is made first. -/
theorem statusAndNotchesAreCleared : Obligations.StatusAndNotchesAreCleared := by
  intro s k b t n
  refine ⟨fun h => ?status, fun h => ?notch⟩
  case status =>
    have hx : exec (.clearStatus k) s = .next (cueClearStatus k b t) := exec_of_takeable h
    exact ⟨fun hn => hx.trans (congrArg _ (if_pos hn)), fun hn => hx.trans (congrArg _ (cueClearStatus_slot hn))⟩
  case notch =>
    have hx : exec (.clearNotch k) s = .next (cueClearNotch k b t) := exec_of_takeable h
    refine ⟨fun hn => hx.trans (congrArg _ (cueClearNotch_range hn)),
      fun hn hk => hx.trans (congrArg _ (cueClearNotch_free hn hk)), fun hn hk => ?inUse⟩
    intro f pool
    have hentry := getElem?_entry_of_inUse hk
    have hdue : .depthGlide n ∈ t.todo ↔ .depthGlide n ∈ s.todo := List.mem_erase_of_ne (by simp)
    have hf : (t.steppedEntry n).filter = f := by
      simp only [State.steppedEntry, hdue, f, perform_depthGlide_entry hentry]
      rfl
    have hpool : t.guard.pool.set n (t.steppedEntry n).release = pool := by
      rw [Notch.release, hf]
      rfl
    rw [hx, cueClearNotch_inUse (s := t) hn hk, changeEntry_eq (s := t) hentry, hpool]
    rfl

end Sys2Proof.Machine
end

section
/-! PROOFS. The values of fades and glides: their bounds and their ends (04 R84, R87; 05 R103, R111; 06 R119, R121, R122; 07
R160). -/

namespace Sys2Proof.Machine

/-! ### The rising and the falling fade (05 R103) -/

theorem rise_zero {g : Nat} (h : 0 < g) : rise 0 g = 0 := Nat.div_eq_of_lt (by omega)

theorem rise_mono {p q : Nat} (h : p ≤ q) (g : Nat) : rise p g ≤ rise q g := Nat.div_le_div_right (by omega)

theorem rise_le {p g : Nat} (h0 : 0 < g) (h : p ≤ g) : rise p g ≤ 32768 := (rise_mono h g).trans_eq (rise_self h0)

theorem fall_zero {g : Nat} (h : 0 < g) : fall 0 g = 32768 := by rw [fall, rise_zero h]

theorem rise_add_fall {p g : Nat} (h0 : 0 < g) (h : p ≤ g) : rise p g + fall p g = 32768 :=
  Nat.add_sub_of_le (rise_le h0 h)

/-! ### The output fade of a closing (05 R111) -/

/-- What a closing has taken away at step `j` is at most what it began with. -/
theorem closed_le {j : Nat} (o0 : Nat) (h : j ≤ 8) : (2 * o0 * j + 8) / 16 ≤ o0 := by
  have hj : 2 * o0 * j ≤ 2 * o0 * 8 := Nat.mul_le_mul_left _ h
  omega

theorem closingFade_cast {j : Nat} (o0 : Nat) (h : j ≤ 8) : (closingFade o0 j : ℤ) = o0 - (2 * o0 * j + 8) / 16 := by
  rw [closingFade, Nat.cast_sub (closed_le o0 h)]
  norm_cast

theorem closingFade_zero (o0 : Nat) : closingFade o0 0 = o0 := by simp [closingFade]

theorem closingFade_eight (o0 : Nat) : closingFade o0 8 = 0 := by
  unfold closingFade
  omega

theorem closingFade_anti {i j : Nat} (o0 : Nat) (h : i ≤ j) : closingFade o0 j ≤ closingFade o0 i :=
  Nat.sub_le_sub_left (Nat.div_le_div_right (Nat.add_le_add_right (Nat.mul_le_mul_left _ h) 8)) o0

/-! ### Glides (04 R84, R87) -/

/-- The part of a rise `d` that `j` of `n` steps make. -/
theorem part_of_rise {d : ℤ} (hd : 0 ≤ d) {j n : Nat} (hn : 0 < n) (hj : j ≤ n) :
    0 ≤ (d * j).tdiv n ∧ (d * j).tdiv n ≤ d := by
  have hdj : 0 ≤ d * j := Int.mul_nonneg hd (Int.natCast_nonneg j)
  rw [Int.tdiv_eq_ediv_of_nonneg hdj]
  refine ⟨Int.ediv_nonneg hdj (Int.natCast_nonneg n), Int.ediv_le_of_le_mul (by omega) ?_⟩
  exact Int.mul_le_mul_of_nonneg_left (Int.ofNat_le.2 hj) hd

/-- A glide's value lies between its start and its stop, be it rising or falling. -/
theorem Glide.value_mem {g : Glide} {j : Nat} (hn : 0 < g.length) (hj : j ≤ g.length) :
    min g.start g.stop ≤ g.value j ∧ g.value j ≤ max g.start g.stop := by
  unfold Glide.value
  rcases le_total g.start g.stop with h | h
  · obtain ⟨hlo, hhi⟩ := part_of_rise (Int.sub_nonneg_of_le h) hn hj
    omega
  · obtain ⟨hlo, hhi⟩ := part_of_rise (Int.sub_nonneg_of_le h) hn hj
    have hneg : (g.stop - g.start) * j = -((g.start - g.stop) * j) := by ring
    rw [hneg, Int.neg_tdiv]
    omega

theorem Glide.value_zero (g : Glide) : g.value 0 = g.start := by simp [Glide.value]

theorem Glide.value_length {g : Glide} (hn : 0 < g.length) : g.value g.length = g.stop := by
  rw [Glide.value, Int.mul_tdiv_cancel _ (by omega), add_sub_cancel]

/-- Settles O37: the formulas as the model has them, then the bounds and the ends of each. -/
theorem fadesAndGlidesReachTheirEnds : Obligations.FadesAndGlidesReachTheirEnds :=
  ⟨fun _ _ => rfl, fun _ _ h0 h => Nat.cast_sub (rise_le h0 h), fun o0 _ => closingFade_cast o0, fun _ _ => rfl,
    fun _ h => ⟨rise_zero h, rise_self h, fall_zero h, fall_self h⟩, fun _ _ => rise_add_fall,
    fun _ _ g _ h _ => rise_mono h g, fun o0 => ⟨closingFade_zero o0, closingFade_eight o0⟩,
    fun o0 _ _ => closingFade_anti o0, fun g _ hn hj =>
      ⟨(Glide.value_mem hn hj).1, (Glide.value_mem hn hj).2, g.value_zero, Glide.value_length hn⟩⟩

end Sys2Proof.Machine
end

section
/-! PROOFS. GO: its answers, its acceptance, and the supersession of an earlier GO (05 R94 to R96, R109). -/

namespace Sys2Proof.Machine

/-! ### A cue held that is answered -/

/-- The blocks of a changeover that no answer touches. -/
def State.besideAnswers (s : State) : List Slot × List Engine × Coefficients :=
  (s.slots, s.engines, s.coef)

theorem answerHeld_besideAnswers (s : State) (k : Nat) (o : Answer) (d : Nat) :
    (s.answerHeld k o d).besideAnswers = s.besideAnswers := by
  unfold State.answerHeld
  split <;> rfl

@[simp] theorem answerHeld_slots (s : State) (k : Nat) (o : Answer) (d : Nat) : (s.answerHeld k o d).slots = s.slots :=
  congrArg (·.1) (answerHeld_besideAnswers s k o d)

@[simp] theorem answerHeld_engines (s : State) (k : Nat) (o : Answer) (d : Nat) : (s.answerHeld k o d).engines = s.engines :=
  congrArg (·.2.1) (answerHeld_besideAnswers s k o d)

@[simp] theorem answerHeld_coef (s : State) (k : Nat) (o : Answer) (d : Nat) : (s.answerHeld k o d).coef = s.coef :=
  congrArg (·.2.2) (answerHeld_besideAnswers s k o d)

/-! ### Supersession and acceptance (05 R95, R96, R109) -/

theorem clampedBit_decide (p : Prop) [Decidable p] : clampedBit (decide p) = if p then 2 ^ 31 else 0 := by
  simp only [clampedBit_eq, decide_eq_true_eq]

/-- The records that a GO supersedes (05 R94 step 6). -/
theorem mayBeSuperseded_iff (r : Transition) :
    r.mayBeSuperseded = true ↔ r.phase = .prepare ∨ (r.phase = .claim ∧ r.style = some .overlap) := by
  unfold Transition.mayBeSuperseded
  split
  next h => simp [h]
  next h hs => simp [h, hs]
  next hp hc =>
    simp only [Bool.false_eq_true, false_iff, not_or, not_and]
    exact ⟨hp, hc⟩

theorem supersede_eq (s : State) (r : Transition) : s.supersede r =
    ((s.answerHeld r.cueSlot .superseded (if r.clamped then 2 ^ 31 else 0)).setTrans none).forgetChangeover := by
  rw [State.supersede, clampedBit_eq]

/-- A supersession leaves the LIVE slot as it is. -/
theorem supersede_live (s : State) (r : Transition) : (s.supersede r).live = s.live :=
  congrArg (List.findIdx? fun k : Slot => k.state == .live) (answerHeld_slots s ..)

/-- A GO to silence fades at once, any other waits for its computation. -/
theorem acceptGo_eq (s : State) (k n fade : Nat) (clamped : Bool) :
    s.acceptGo k (if n = 255 then none else some n) fade clamped =
      if n = 255 then (s.setTrans (some ⟨none, s.live, fade, clamped, some .overlap, .fade, 0, [], k⟩)).retire s.live
      else (s.setTrans (some ⟨some n, s.live, fade, clamped, none, .prepare, 0, [], k⟩)).request ⟨n, none, false, true⟩ := by
  split_ifs <;> rfl

/-- Settles O34: the chain of answers is the model's own; past it the record decides. -/
theorem goIsCheckedAndAccepted : Obligations.GoIsCheckedAndAccepted := by
  refine ⟨fun s k h => ?_, fun _ => rfl, fun _ _ => ⟨rfl, rfl⟩⟩
  intro b t n fade noted clamped record accept
  have hfade : clamp 1 30000 (u16 b 13) = ((fade : Int), noted) := clamp_natCast (lo := 1) (hi := 30000) (by decide) _
  have hclamped : clampedBit noted = clamped := clampedBit_decide _
  have haccept {u : State} (hu : u.live = s.live) :
      u.acceptGo k (if n = 255 then none else some n) fade noted = accept u := by
    rw [acceptGo_eq, hu]
  refine (exec_of_takeable h).trans (congrArg _ ?_)
  show cueGo k b t = _
  simp only [cueGo, hfade, hclamped, Int.toNat_natCast]
  refine ite_congr rfl (fun _ => rfl) fun _ => ite_congr rfl (fun _ => rfl) fun _ => ite_congr rfl (fun _ => rfl) fun _ =>
    ite_congr rfl (fun _ => rfl) fun _ => ?_
  show (match s.trans with | none => _ | some r => _) = _
  cases s.trans with
  | none => exact haccept rfl
  | some r =>
    refine ite_congr (propext (mayBeSuperseded_iff r)) (fun _ => ?_) fun _ => rfl
    rw [← supersede_eq]
    exact haccept (supersede_live t r)

end Sys2Proof.Machine
end

section
/-! PROOFS. The abort of changeovers at the end of a STOPPED ramp (05 R114). -/

namespace Sys2Proof.Machine

/-! ### One slot stopped -/

theorem stopSlot_owner {s : State} {k : Nat} (h : s.ownsEngines k = true) :
    s.stopSlot k = (s.releaseSlot k).setSlotState k .ready := if_pos h

theorem stopSlot_idle {s : State} {k : Nat} (h : s.ownsEngines k = false) : s.stopSlot k = s :=
  if_neg (Bool.not_eq_true _ ▸ h)

/-- A released engine has no owner; those of other slots keep theirs. -/
theorem release_owner (k i : Nat) (e : Engine) :
    ((e.release k).owner == some i) = (decide (i ≠ k) && (e.owner == some i)) := by
  by_cases ho : e.owner = some k <;> rcases eq_or_ne i k with rfl | hi
  · simp [Engine.release, ho]
  · simp [Engine.release, ho, hi.symm]
  · simp [Engine.release, ho]
  · simp [Engine.release, ho, hi]

/-- A slot that is stopped owns no engine, the others own theirs. -/
theorem stopSlot_ownsEngines (s : State) (k i : Nat) :
    (s.stopSlot k).ownsEngines i = (decide (i ≠ k) && s.ownsEngines i) := by
  cases h : s.ownsEngines k with
  | false =>
    rw [stopSlot_idle h]
    by_cases hi : i = k
    · simp [hi, h]
    · simp [hi]
  | true =>
    have hengines : (s.stopSlot k).engines = s.engines.map (Engine.release k) := by
      rw [stopSlot_owner h, State.releaseSlot, if_pos h]
      rfl
    rw [State.ownsEngines, hengines, List.any_map, State.ownsEngines]
    simp only [Function.comp_def, release_owner]
    by_cases hi : i = k <;> simp [hi]

theorem stopSlot_slots_length (s : State) (k : Nat) : (s.stopSlot k).slots.length = s.slots.length := by
  cases h : s.ownsEngines k with
  | false => rw [stopSlot_idle h]
  | true =>
    rw [stopSlot_owner h, releaseSlot_owner h]
    simp [State.setSlotState, State.onSlot]

theorem stopSlot_slot_ne (s : State) {k i : Nat} (hi : i ≠ k) : (s.stopSlot k).slot i = s.slot i := by
  cases h : s.ownsEngines k with
  | false => rw [stopSlot_idle h]
  | true =>
    rw [stopSlot_owner h, releaseSlot_owner h]
    exact (slot_onSlot_ne _ hi _).trans (slot_onSlot_ne _ hi _)

theorem stopSlot_ready {s : State} {k : Nat} (h : s.ownsEngines k = true) (hk : k < s.slots.length) :
    ((s.stopSlot k).slot k).state = .ready := by
  rw [stopSlot_owner h, releaseSlot_owner h]
  exact congrArg Slot.state (slot_onSlot_same _ (by simpa [State.onSlot] using hk) _)

/-- What stopping a slot does not touch. -/
def State.besideStops (s : State) : Attention × List Host.Cell × CueUnit × Coefficients × Option Transition :=
  (s.att, s.ram, s.cues, s.coef, s.trans)

theorem besideStops_iff {s u : State} : s.besideStops = u.besideStops ↔
    s.att = u.att ∧ s.ram = u.ram ∧ s.cues = u.cues ∧ s.coef = u.coef ∧ s.trans = u.trans := by
  simp only [State.besideStops, Prod.mk.injEq]

theorem setTails_besideStops (s : State) (l : List Tail) : (s.setTails l).besideStops = s.besideStops := rfl

theorem setTails_slot (s : State) (l : List Tail) (k : Nat) : (s.setTails l).slot k = s.slot k := rfl

theorem setTails_ownsEngines (s : State) (l : List Tail) (k : Nat) : (s.setTails l).ownsEngines k = s.ownsEngines k := rfl

theorem stopSlot_besideStops (s : State) (k : Nat) : (s.stopSlot k).besideStops = s.besideStops := by
  cases h : s.ownsEngines k with
  | false => rw [stopSlot_idle h]
  | true =>
    rw [stopSlot_owner h, releaseSlot_owner h]
    rfl

/-! ### All slots stopped -/

theorem foldl_stopSlot_ownsEngines (l : List Nat) (k : Nat) : ∀ s : State,
    (l.foldl State.stopSlot s).ownsEngines k = (decide (k ∉ l) && s.ownsEngines k) := by
  induction l with
  | nil => simp
  | cons i l ih =>
    intro s
    rw [List.foldl_cons, ih, stopSlot_ownsEngines]
    simp only [List.mem_cons, not_or, Bool.decide_and, Bool.and_assoc, Bool.and_left_comm]

/-- A slot that owns no engine is left alone. -/
theorem foldl_stopSlot_slot (l : List Nat) {k : Nat} : ∀ {s : State}, s.ownsEngines k = false →
    (l.foldl State.stopSlot s).slot k = s.slot k := by
  induction l with
  | nil => exact fun _ => rfl
  | cons i l ih =>
    intro s h
    have howns : (s.stopSlot i).ownsEngines k = false := by rw [stopSlot_ownsEngines, h, Bool.and_false]
    rw [List.foldl_cons, ih howns]
    rcases eq_or_ne k i with rfl | hi
    · rw [stopSlot_idle h]
    · exact stopSlot_slot_ne s hi

/-- A slot that owns engines is READY once it has been stopped. -/
theorem foldl_stopSlot_ready {l : List Nat} {k : Nat} (hl : k ∈ l) : ∀ {s : State}, s.ownsEngines k = true →
    k < s.slots.length → ((l.foldl State.stopSlot s).slot k).state = .ready := by
  induction l with
  | nil => cases hl
  | cons i l ih =>
    intro s h hk
    rw [List.foldl_cons]
    rcases eq_or_ne k i with rfl | hi
    · have howns : (s.stopSlot k).ownsEngines k = false := by simp [stopSlot_ownsEngines]
      rw [foldl_stopSlot_slot l howns, stopSlot_ready h hk]
    · refine ih (List.mem_of_ne_of_mem hi hl) ?_ ((stopSlot_slots_length s i).symm ▸ hk)
      rw [stopSlot_ownsEngines, h, decide_eq_true hi, Bool.true_and]

/-! ### The abort -/

theorem abortTransition_eq (s : State) : s.abortTransition = match s.trans with
    | some t => ((s.answerHeld t.cueSlot .aborted (if t.clamped then 2 ^ 31 else 0)).setTrans none).setCoef { s.coef with
        requests := s.coef.requests.map fun e => { e with changeover := false }
        underWay := s.coef.underWay.map fun c => { c with changeover := false } }
    | none => s := by
  unfold State.abortTransition
  cases s.trans with
  | none => rfl
  | some t =>
    simp only [clampedBit_eq]
    rw [State.forgetChangeover, State.setTrans_coef, answerHeld_coef]

theorem abortTransition_trans (s : State) : s.abortTransition.trans = none := by
  rw [abortTransition_eq]
  cases h : s.trans with
  | none => exact h
  | some t => rfl

theorem abortTransition_engines (s : State) : s.abortTransition.engines = s.engines := by
  rw [abortTransition_eq]
  cases s.trans with
  | none => rfl
  | some t => exact answerHeld_engines ..

theorem abortTransition_slots (s : State) : s.abortTransition.slots = s.slots := by
  rw [abortTransition_eq]
  cases s.trans with
  | none => rfl
  | some t => exact answerHeld_slots ..

theorem abortTransition_ownsEngines (s : State) (k : Nat) : s.abortTransition.ownsEngines k = s.ownsEngines k :=
  congrArg (List.any · fun e : Engine => e.owner == some k) (abortTransition_engines s)

theorem abortTransition_slot (s : State) (k : Nat) : s.abortTransition.slot k = s.slot k :=
  congrArg (List.getD · k Slot.reset) (abortTransition_slots s)

/-- An answer raises CUE ANSWERED and no other source (01 R14). -/
theorem answerHeld_notice_ne (s : State) (k : Nat) (o : Answer) (d : Nat) {i : Nat} (hi : i ≠ 0) :
    (s.answerHeld k o d).att.notice i = s.att.notice i := by
  unfold State.answerHeld
  split
  · exact change_notice_ne _ hi _
  · rfl

theorem answer_notice {s : State} (h : s.att.notices.length = 14) (k : Nat) (bs : List Byte) (o : Answer) (d : Nat) :
    (s.answer k bs o d).att.notice 0 =
      (s.att.notice 0).occur (BitVec.ofNat 32 (k + 256 * o.code + 65536 * u16 bs 4)) s.frame :=
  change_notice_same (h ▸ by decide) _

theorem abortTransition_notice_ne (s : State) {i : Nat} (hi : i ≠ 0) :
    s.abortTransition.att.notice i = s.att.notice i := by
  rw [abortTransition_eq]
  cases s.trans with
  | none => rfl
  | some t => exact answerHeld_notice_ne s _ _ _ hi

theorem abortTransition_notice {s : State} {t : Transition} {bs : List Byte} (ht : s.trans = some t)
    (hb : s.cues.held.getD t.cueSlot none = some bs) (h : s.att.notices.length = 14) :
    s.abortTransition.att.notice 0 =
      (s.att.notice 0).occur (BitVec.ofNat 32 (t.cueSlot + 256 * 0x0D + 65536 * u16 bs 4)) s.frame := by
  rw [abortTransition_eq, ht]
  dsimp only
  rw [State.setCoef_att, State.setTrans_att, answerHeld_some hb, answer_notice h]
  rfl

theorem stopChangeovers_eq (s : State) :
    s.stopChangeovers = ((List.range 8).foldl State.stopSlot s.abortTransition).setTails [] := rfl

/-- Past the answer the abort touches slots, engines, the network and the tails alone. -/
theorem stopChangeovers_besideStops (s : State) : s.stopChangeovers.besideStops = s.abortTransition.besideStops := by
  rw [stopChangeovers_eq, setTails_besideStops]
  exact foldl_keeps (P := fun u => u.besideStops = s.abortTransition.besideStops)
    (fun u k h => (stopSlot_besideStops u k).trans h) (List.range 8) _ rfl

theorem stopChangeovers_ownsEngines (s : State) {k : Nat} (hk : k < 8) : s.stopChangeovers.ownsEngines k = false := by
  rw [stopChangeovers_eq, setTails_ownsEngines, foldl_stopSlot_ownsEngines]
  simp [hk]

theorem stopChangeovers_ready {s : State} (hs : s.slots.length = 8) {k : Nat} (hk : k < 8)
    (h : s.ownsEngines k = true) : (s.stopChangeovers.slot k).state = .ready := by
  rw [stopChangeovers_eq, setTails_slot]
  exact foldl_stopSlot_ready (List.mem_range.2 hk) ((abortTransition_ownsEngines s k).trans h)
    (by rwa [abortTransition_slots, hs])

theorem stopChangeovers_slot {s : State} {k : Nat} (h : s.ownsEngines k = false) :
    s.stopChangeovers.slot k = s.slot k := by
  rw [stopChangeovers_eq, setTails_slot, foldl_stopSlot_slot _ ((abortTransition_ownsEngines s k).trans h),
    abortTransition_slot]

end Sys2Proof.Machine
end

section
/-! PROOFS. Mode requests and mode ramps (07 R159, R160, R162). -/

namespace Sys2Proof.Machine

/-! ### The steps of a ramp (07 R160, R162) -/

/-- The network halts and every changeover is aborted (07 R162, 05 R114). -/
def State.haltAll (s : State) : State := (s.setMode { s.mode with halted := true }).stopChangeovers

theorem endModeRamp_eq (s : State) : s.endModeRamp =
    if s.mode.rampStops = true ∧ s.mode.mode = .stopped then s.haltAll else s :=
  if_congr (by simp) rfl rfl

/-- A step of a ramp, and what follows its last. -/
theorem modeStep_some {s : State} {g : Glide} (h : s.mode.ramp = some g) : s.modeStep =
    let u := s.setMode { s.mode with factor := g.next.1.toNat, ramp := g.next.2 }
    if g.next.2.isNone then u.endModeRamp else u := by
  rw [State.modeStep, h]

theorem modeStep_early {s : State} {g : Glide} (h : s.mode.ramp = some g) (hl : g.step + 1 < g.length) :
    s.modeStep = s.setMode { s.mode with factor := g.next.1.toNat, ramp := g.next.2 } := by
  rw [modeStep_some h, Glide.next_early hl]
  rfl

/-- The end of a ramp that is not of STOPPED, or under another mode, halts nothing. -/
theorem modeStep_running {s : State} {g : Glide} (h : s.mode.ramp = some g)
    (hm : s.mode.rampStops = false ∨ s.mode.mode ≠ .stopped) :
    s.modeStep = s.setMode { s.mode with factor := g.next.1.toNat, ramp := g.next.2 } := by
  have hends : ¬ (s.mode.rampStops = true ∧ s.mode.mode = .stopped) := by
    rintro ⟨hr, hs⟩
    rcases hm with hm | hm
    · simp [hm] at hr
    · exact hm hs
  have hstay : (s.setMode { s.mode with factor := g.next.1.toNat, ramp := g.next.2 }).endModeRamp =
      s.setMode { s.mode with factor := g.next.1.toNat, ramp := g.next.2 } := (endModeRamp_eq _).trans (if_neg hends)
  rw [modeStep_some h]
  simp only [hstay, ite_self]

theorem modeStep_last {s : State} {g : Glide} (h : s.mode.ramp = some g) (h0 : 0 < g.length)
    (hl : g.step + 1 = g.length) : s.modeStep =
      let u := s.setMode { s.mode with factor := g.stop.toNat, ramp := none }
      if s.mode.rampStops = true ∧ s.mode.mode = .stopped then u.haltAll else u := by
  rw [modeStep_some h, Glide.next_last h0 hl]
  exact endModeRamp_eq _

theorem exec_modeRampEnd {s : State} {g : Glide} (h : s.due .modeRamp) (hg : s.mode.ramp = some g)
    (hl : g.step + 1 = g.length) : exec .modeRampEnd s = .next (s.doing .modeRamp).modeStep :=
  (released_of h.1 _).trans (congrArg _
    (eventWork_of_due (hg ▸ lastStep_some hl) h (by decide) (by decide) (by decide)))

/-! ### The take of a mode (07 R159) -/

theorem level_eq (m : EngineMode) : m.level = if m = .active then 32768 else 0 := by cases m <;> rfl

/-- The mode `m` as it stands once taken, its ramp starting from the factor `f`. -/
def ModeControl.taken (m : EngineMode) (f : Nat) (halted : Bool) : ModeControl :=
  ⟨m, f, rampToward f m.level, decide (m = .stopped), halted && decide (m = .stopped), none⟩

/-- The mode `m` taken with the factor at `f`: the page's field marked, a STOPPED ramp that is over at once ended. -/
def State.takenAt (s : State) (m : EngineMode) (f : Nat) : State :=
  let w := (s.setMode (.taken m f s.mode.halted)).markField 0x002
  if rampToward f m.level = none ∧ m = .stopped then w.haltAll else w

/-- A mode that leaves ACTIVE clears the persistence counts (06 R125). -/
def State.leaving (s : State) (m : EngineMode) : State :=
  if s.mode.mode = .active ∧ m ≠ .active then s.clearPersistence else s

theorem leaving_mode (s : State) (m : EngineMode) : (s.leaving m).mode = s.mode := by
  unfold State.leaving; split <;> rfl

theorem leaving_todo (s : State) (m : EngineMode) : (s.leaving m).todo = s.todo := by
  unfold State.leaving; split <;> rfl

theorem leaving_doing (s : State) (m : EngineMode) (w : Work) : (s.leaving m).doing w = (s.doing w).leaving m := by
  unfold State.leaving
  rw [doing_mode]
  split <;> rfl

/-- The mode is `m` and the page's field is marked: the state in which a ramp's step still due is made (07 R159, R162). -/
def State.entering (s : State) (m : EngineMode) : State :=
  ((s.leaving m).setMode { s.mode with mode := m }).markField 0x002

theorem entering_todo (s : State) (m : EngineMode) : (s.entering m).todo = s.todo := by
  rw [State.entering, State.markField_eq, State.setChanged_todo, State.setMode_todo, leaving_todo]

theorem entering_doing (s : State) (m : EngineMode) (w : Work) : (s.entering m).doing w = (s.doing w).entering m := by
  have hmark (v : State) (c : ModeControl) :
      ((v.setMode c).markField 0x002).doing w = ((v.doing w).setMode c).markField 0x002 := rfl
  rw [State.entering, hmark, leaving_doing, State.entering, doing_mode]

/-- The request accepted, and the end of a STOPPED ramp that is over at once. -/
theorem accept_eq (v : State) (m : EngineMode) :
    (if (v.mode.accept m).ramp.isNone then (v.setMode (v.mode.accept m)).endModeRamp else v.setMode (v.mode.accept m)) =
      if rampToward v.mode.factor m.level = none ∧ m = .stopped then
        (v.setMode (.taken m v.mode.factor v.mode.halted)).haltAll
      else v.setMode (.taken m v.mode.factor v.mode.halted) := by
  have haccept : v.mode.accept m = .taken m v.mode.factor v.mode.halted := rfl
  have hramp : (ModeControl.taken m v.mode.factor v.mode.halted).ramp = rampToward v.mode.factor m.level := rfl
  have hends : ((v.setMode (.taken m v.mode.factor v.mode.halted)).mode.rampStops = true
      ∧ (v.setMode (.taken m v.mode.factor v.mode.halted)).mode.mode = .stopped) ↔ m = .stopped := by
    simp [ModeControl.taken]
  rw [haccept, endModeRamp_eq, if_congr hends rfl rfl, hramp]
  cases rampToward v.mode.factor m.level <;> simp

@[simp] theorem doing_changed (s : State) (w : Work) : (s.doing w).changed = s.changed := rfl

/-- The mode field marked between two writes of the mode is marked past both. -/
theorem setMode_markField_setMode (s : State) (a : Nat) (c d : ModeControl) :
    ((s.setMode c).markField a).setMode d = (s.setMode d).markField a := rfl

/-- The take, once it is known what a ramp's step still due leaves. -/
theorem takeMode_eq {s v : State} {m : EngineMode} {c : ModeControl} (h : s.mode.request = some m)
    (hv : (s.entering m).onDue .modeRamp State.modeStep = (v.setMode c).markField 0x002) (hc : c.halted = v.mode.halted) :
    s.takeMode = v.takenAt m c.factor := by
  have hleaving : (if s.mode.mode = .active && m != .active then s.clearPersistence else s) = s.leaving m :=
    if_congr (by simp) rfl rfl
  have hmode : ((v.setMode c).markField 0x002).mode = c := rfl
  rw [State.entering] at hv
  rw [State.takeMode, h]
  simp only [hleaving, leaving_mode, hv]
  refine (accept_eq _ m).trans ?_
  rw [hmode, setMode_markField_setMode, hc, State.takenAt]

/-- No step of a ramp is due: the new ramp starts from the factor as it stands. -/
theorem takeMode_steady {s : State} {m : EngineMode} (h : s.mode.request = some m) (hr : .modeRamp ∉ s.todo) :
    s.takeMode = (s.leaving m).takenAt m s.mode.factor := by
  have hdue : .modeRamp ∉ (s.entering m).todo := (entering_todo s m).symm ▸ hr
  exact takeMode_eq (c := { s.mode with mode := m }) h (if_neg hdue) (by rw [leaving_mode])

/-- A step of a ramp still due is made first; one that ends no STOPPED ramp leaves the rest to the take. -/
theorem takeMode_ramping {s : State} {m : EngineMode} {g : Glide} (h : s.mode.request = some m) (hr : .modeRamp ∈ s.todo)
    (hg : s.mode.ramp = some g) (hl : g.step + 1 < g.length ∨ s.mode.rampStops = false ∨ m ≠ .stopped) :
    s.takeMode = ((s.doing .modeRamp).leaving m).takenAt m g.next.1.toNat := by
  let c : ModeControl := { s.mode with mode := m, factor := g.next.1.toNat, ramp := g.next.2 }
  let y : State := (s.doing .modeRamp).entering m
  have hdue : .modeRamp ∈ (s.entering m).todo := (entering_todo s m).symm ▸ hr
  have hstep : y.modeStep = y.setMode c := hl.elim (modeStep_early (s := y) hg) (modeStep_running (s := y) hg)
  refine takeMode_eq (c := c) h ?_ (by rw [leaving_mode, doing_mode])
  calc (s.entering m).onDue .modeRamp State.modeStep
      = ((s.entering m).doing .modeRamp).modeStep := if_pos hdue
    _ = y.setMode c := by rw [entering_doing, hstep]
    _ = (((s.doing .modeRamp).leaving m).setMode c).markField 0x002 := setMode_markField_setMode ..

/-- The ramp toward a mode's level (07 R160). -/
theorem rampToward_level (f : Nat) (m : EngineMode) : rampToward f m.level =
    let level : Nat := if m = .active then 32768 else 0
    if f = level then none else some ⟨f, level, 64, 0⟩ := by
  rw [level_eq]
  rfl

theorem leaving_takenAt (v : State) (m : EngineMode) (f : Nat) : (v.leaving m).takenAt m f =
    let ramp := rampToward f m.level
    let u := (if v.mode.mode = .active ∧ m ≠ .active then v.setMics (v.mics.map fun x => { x with persistence := 0 })
      else v).setMode ⟨m, f, ramp, decide (m = .stopped), v.mode.halted && decide (m = .stopped), none⟩
    let w := u.setChanged (u.changed ||| 2 ^ 0x002)
    if ramp = none ∧ m = .stopped then w.haltAll else w := by
  rw [State.takenAt, leaving_mode]
  rfl

theorem exec_modeTaken {s : State} {m : EngineMode} (h : s.due .modeTake) (hm : s.mode.request = some m) :
    exec (.modeRequest .taken) s = .next (s.doing .modeTake).takeMode := by
  have hsome : s.mode.request.isSome = true := by rw [hm]; rfl
  exact (released_of h.1 _).trans (congrArg _ ((if_pos hsome).trans (doWork_of_due h (by decide) (by decide) (by decide))))

/-! ### The publication of the mode field (07 R159) -/

/-- A field of the view that is marked reads as the view shows it. -/
theorem readBytes_publish_marked {s : State} (hm : Memory.wf s.ram = true) (hu : s.Units)
    (hs : spans s.shown = spans s.view) {i a : Nat} {y : List Byte} (hv : s.view[i]? = some (a, y))
    (hc : s.changed.testBit a = true) : readBytes s.publish.ram a y.length = y := by
  have hlen : s.shown.length = s.view.length := by simpa [spans] using congrArg List.length hs
  have hspan : (spans s.shown)[i]? = some (a, y.length) := by rw [hs, spans, List.getElem?_map, hv]; rfl
  rw [spans, List.getElem?_map, Option.map_eq_some_iff] at hspan
  obtain ⟨⟨a', x⟩, hx, he⟩ := hspan
  obtain rfl : a' = a := congrArg Prod.fst he
  rw [publish_ram, readBytes_writeChanged hm _ hlen (view_apart hu) hx hv, if_pos (.inr hc)]

/-- Settles O51: the take by whether a ramp's step is still due, the ramp's steps, the abort slot by slot. -/
theorem modeRequestsAndRampsEnd : Obligations.ModeRequestsAndRampsEnd := by
  intro s stop
  refine ⟨fun m h hr hm => ?steady, fun hc hm hl hn hs he hp hmics hspans => ?published, fun g hg hl => ?early,
    fun g h hg h0 hl => ?last, fun hs => ?stopped, ?abort, fun m g h hr hm hg hl => ?ramping,
    fun m g h hr hm hne hmode hg h0 hl hz => ?resumed⟩
  case steady =>
    intro level ramp
    rw [exec_modeTaken h hm, takeMode_steady (s := s.doing .modeTake) hm (fun hmem => hr (List.mem_of_mem_erase hmem)),
      leaving_takenAt, rampToward_level]
    rfl
  case published =>
    have hpub := readBytes_publish_marked hm ⟨hl, hn, hs, he, hp, hmics⟩ hspans (i := 1) rfl hc
    refine hpub.trans ?_
    cases s.mode.mode <;> rfl
  case early =>
    refine (modeStep_early hg hl).trans ?_
    rw [Glide.next_early hl]
  case last =>
    rw [exec_modeRampEnd h hg hl, modeStep_last (s := s.doing .modeRamp) hg h0 hl]
    rfl
  case stopped =>
    obtain ⟨-, -, -, -, htrans⟩ := besideStops_iff.1 (stopChangeovers_besideStops s)
    exact ⟨htrans.trans (abortTransition_trans s), rfl, fun k hk => ⟨stopChangeovers_ownsEngines s hk,
      stopChangeovers_ready hs hk, stopChangeovers_slot⟩⟩
  case abort =>
    obtain ⟨hatt, hram, hcues, hcoef, -⟩ := besideStops_iff.1 (stopChangeovers_besideStops s)
    intro u
    have hu : s.abortTransition = u := abortTransition_eq s
    rw [← hu]
    refine ⟨stopChangeovers_eq s, hatt, hram, hcues, hcoef, ?_, fun t bs ht hb hn => ?_⟩
    · rw [hatt, abortTransition_notice_ne s (by decide)]
    · rw [hatt, abortTransition_notice ht hb hn]
      exact ⟨rfl, rfl⟩
  case ramping =>
    intro f level ramp
    have hdue : .modeRamp ∈ (s.doing .modeTake).todo := (List.mem_erase_of_ne (by decide)).2 hr
    rw [exec_modeTaken h hm, takeMode_ramping (s := s.doing .modeTake) hm hdue hg (hl.imp_right And.right),
      leaving_takenAt, rampToward_level]
    rfl
  case resumed =>
    have hdue : .modeRamp ∈ (s.doing .modeTake).todo := (List.mem_erase_of_ne (by decide)).2 hr
    have hactive : ¬ (((s.doing .modeTake).doing .modeRamp).mode.mode = .active ∧ m ≠ .active) := by
      rw [doing_mode, doing_mode, hmode]
      simp
    have hexec := exec_modeTaken h hm
    rw [takeMode_ramping (s := s.doing .modeTake) hm hdue hg (.inr (.inr hne)), leaving_takenAt, Glide.next_last h0 hl,
      hz, rampToward_level] at hexec
    simp only [if_neg hactive, hne, and_false, if_false] at hexec
    refine ⟨_, hexec, ?_⟩
    cases m with
    | stopped => exact absurd rfl hne
    | active => simp
    | dry => simp

end Sys2Proof.Machine
end

section
/-! PROOFS. Updates of the microphones and of the guard in a row, and what they leave (06 R117, R143; log 10). -/

namespace Sys2Proof.Machine

/-! ### What two updates in a row mark -/

/-- Two changes in a row are noted as one, unless the second takes back what the first changed. -/
theorem changedFrom_or {α : Type} [DecidableEq α] (stride base : Nat) {x y z : List α} (hy : y.length = x.length)
    (hz : z.length = x.length) (h : ∀ i : Nat, x[i]? = z[i]? → x[i]? = y[i]?) :
    changedFrom stride base x y ||| changedFrom stride base y z = changedFrom stride base x z := by
  refine Nat.eq_of_testBit_eq fun a => Bool.eq_iff_iff.2 ?_
  rw [Nat.testBit_or, Bool.or_eq_true, testBit_changedFrom, testBit_changedFrom, testBit_changedFrom]
  constructor
  · rintro (⟨k, u, v, ha, hu, hv, hne⟩ | ⟨k, v, w, ha, hv, hw, hne⟩)
    · obtain ⟨hk, -⟩ := List.getElem?_eq_some_iff.1 hu
      refine ⟨k, u, z[k], ha, hu, List.getElem?_eq_getElem (hz ▸ hk), fun he => hne ?_⟩
      have hback := h k (by rw [hu, he, List.getElem?_eq_getElem])
      rw [hu, hv] at hback
      exact Option.some.inj hback
    · obtain ⟨hk, -⟩ := List.getElem?_eq_some_iff.1 hv
      have hx : k < x.length := hy ▸ hk
      refine ⟨k, x[k], w, ha, List.getElem?_eq_getElem hx, hw, fun he => hne ?_⟩
      have hback := h k (by rw [hw, ← he, List.getElem?_eq_getElem])
      rw [hv, List.getElem?_eq_getElem hx, he] at hback
      exact (Option.some.inj hback).symm
  · rintro ⟨k, u, w, ha, hu, hw, hne⟩
    obtain ⟨hk, -⟩ := List.getElem?_eq_some_iff.1 hu
    have hv : y[k]? = some y[k] := List.getElem?_eq_getElem (hy ▸ hk)
    by_cases huv : u = y[k]
    · exact .inr ⟨k, _, w, ha, hv, hw, huv ▸ hne⟩
    · exact .inl ⟨k, u, _, ha, hu, hv, huv⟩

/-- Microphones written twice show the second writing alone, unless it takes back what the first changed. -/
theorem setMics_setMics {s : State} {v w : List Mic} (hv : v.length = s.mics.length) (hw : w.length = s.mics.length)
    (h : ∀ (i : Nat) (x y z : Mic), s.mics[i]? = some x → v[i]? = some y → w[i]? = some z →
      x.mirrored = z.mirrored → x.mirrored = y.mirrored) : (s.setMics v).setMics w = s.setMics w := by
  have hmarks : changedFrom 8 0x021A0 (s.mics.map Mic.mirrored) (v.map Mic.mirrored) |||
      changedFrom 8 0x021A0 (v.map Mic.mirrored) (w.map Mic.mirrored) =
      changedFrom 8 0x021A0 (s.mics.map Mic.mirrored) (w.map Mic.mirrored) := by
    refine changedFrom_or 8 _ (by simpa using hv) (by simpa using hw) fun i => ?_
    by_cases hi : i < s.mics.length
    · have hx := List.getElem?_eq_getElem hi
      have hy := List.getElem?_eq_getElem (hv ▸ hi : i < v.length)
      have hz := List.getElem?_eq_getElem (hw ▸ hi : i < w.length)
      simpa only [List.getElem?_map, hx, hy, hz, Option.map_some, Option.some.injEq] using h i _ _ _ hx hy hz
    · simp [hv, Nat.le_of_not_lt hi]
  simp only [State.setMics, Nat.or_assoc, hmarks]

/-- A change of the microphones that no entry shows is not marked past another. -/
theorem setMics_setMics_of_map {s : State} {v w : List Mic} (hv : v.map Mic.mirrored = s.mics.map Mic.mirrored) :
    (s.setMics v).setMics w = s.setMics w := by
  simp only [State.setMics, hv, changedFrom_self, Nat.or_zero]

theorem setMics_self (s : State) : s.setMics s.mics = s := by
  simp only [State.setMics, changedFrom_self, Nat.or_zero]

theorem setGuard_self (s : State) : s.setGuard s.guard = s := by
  simp only [State.setGuard, Guard.changes_self, Nat.or_zero]

theorem setMics_setGuard (s : State) (v : List Mic) (g : Guard) : (s.setMics v).setGuard g = (s.setGuard g).setMics v := by
  simp only [State.setMics, State.setGuard, Nat.or_assoc, Nat.or_comm (s.guard.changes g)]

/-! ### One microphone of the list -/

/-- A microphone's number names the one that stands there. -/
theorem mic_of_getElem? {s : State} {m : Nat} {x : Mic} (h : s.mics[m]? = some x) : s.mic m = x := getD_of_some h _

theorem getElem?_mic {s : State} {m : Nat} (h : m < s.mics.length) : s.mics[m]? = some (s.mic m) := by
  rw [State.mic, List.getD_eq_getElem?_getD, List.getElem?_eq_getElem h]
  rfl

/-- An entry's number names the one that stands there. -/
theorem entry_of_getElem? {s : State} {n : Nat} {x : Notch} (h : s.guard.pool[n]? = some x) : s.entry n = x := getD_of_some h _

theorem getElem?_entry {s : State} {n : Nat} (h : n < s.guard.pool.length) : s.guard.pool[n]? = some (s.entry n) := by
  rw [State.entry, List.getD_eq_getElem?_getD, List.getElem?_eq_getElem h]
  rfl

theorem onMic_mic_same {s : State} {m : Nat} (h : m < s.mics.length) (f : Mic → Mic) : (s.onMic m f).mic m = f (s.mic m) := by
  refine mic_of_getElem? ?_
  rw [State.onMic, State.setMics_mics, List.getElem?_modify_eq, getElem?_mic h]
  rfl

theorem onMic_mic_ne (s : State) {m j : Nat} (h : j ≠ m) (f : Mic → Mic) : (s.onMic m f).mic j = s.mic j := by
  simp only [State.mic, State.onMic, State.setMics_mics, List.getD_eq_getElem?_getD, List.getElem?_modify_ne f _ h.symm]

@[simp] theorem onMic_mics_length (s : State) (m : Nat) (f : Mic → Mic) : (s.onMic m f).mics.length = s.mics.length := by
  simp [State.onMic]

end Sys2Proof.Machine
end

section
/-! PROOFS. SET GUARD (06 R123, R124). -/

namespace Sys2Proof.Machine

/-- A word clamped between numbers, and whether that changed it. -/
theorem clamp_word (lo hi v : Nat) (h : lo ≤ hi) :
    (clamp lo hi v).1.toNat = max lo (min hi v) ∧ (clamp lo hi v).2 = decide (max lo (min hi v) ≠ v) := by
  rw [clamp_natCast h]
  exact ⟨Int.toNat_natCast _, rfl⟩

/-- The order codes 6 and above are taken as 0; those above 7 are clamped first (06 R123; log 29). -/
theorem order_code (v : Nat) : (if (clamp 0 7 v).1 < 6 then (clamp 0 7 v).1.toNat else 0) = (if v < 6 then v else 0)
    ∧ (clamp 0 7 v).2 = decide (¬ v ≤ 7) := by
  have h : clamp 0 7 v = (((max 0 (min 7 v) : Nat) : Int), decide (max 0 (min 7 v) ≠ v)) :=
    clamp_natCast (lo := 0) (hi := 7) (by decide) v
  rw [h]
  refine ⟨?_, decide_eq_decide.2 (by omega)⟩
  dsimp only
  split_ifs <;> omega

/-- Settles O42: each clamp in closed form; the answer says whether one of them acted. -/
theorem setGuardTakesItsSettings : Obligations.SetGuardTakesItsSettings := by
  intro s k h b threshold floor persistence hold recovery order same t
  have hthreshold : clamp 600 3000 (u16 b 13) = ((threshold : ℤ), decide (threshold ≠ u16 b 13)) :=
    clamp_natCast (lo := 600) (hi := 3000) (by decide) (u16 b 13)
  have hfloor : clamp (-7200) (-1200) (s16 b 15) = (floor, decide (floor ≠ s16 b 15)) :=
    clamp_eq_changed (lo := -7200) (hi := -1200) (by decide) (s16 b 15)
  have hpersistence : (clamp 2 16 (u8 b 17)).1.toNat = persistence ∧ (clamp 2 16 (u8 b 17)).2 = decide (persistence ≠ u8 b 17) :=
    clamp_word 2 16 (u8 b 17) (by decide)
  have hhold : (clamp 47 4700 (u16 b 18)).1.toNat = hold ∧ (clamp 47 4700 (u16 b 18)).2 = decide (hold ≠ u16 b 18) :=
    clamp_word 47 4700 (u16 b 18) (by decide)
  have hrecovery : (clamp 47 4700 (u16 b 20)).1.toNat = recovery
      ∧ (clamp 47 4700 (u16 b 20)).2 = decide (recovery ≠ u16 b 20) := clamp_word 47 4700 (u16 b 20) (by decide)
  have horder := order_code (u8 b 22)
  let acts : Bool := decide (threshold ≠ u16 b 13) || decide (floor ≠ s16 b 15) || decide (persistence ≠ u8 b 17)
    || decide (hold ≠ u16 b 18) || decide (recovery ≠ u16 b 20) || decide (¬ u8 b 22 ≤ 7)
  have hacts : acts = true ↔ ¬ same := by
    simp only [acts, same, Bool.or_eq_true, decide_eq_true_eq, not_and_or, or_assoc, ne_eq]
  have henable : (u8 b 12 != 0) = decide (u8 b 12 ≠ 0) := by simp [bne, Bool.beq_eq_decide_eq]
  have hrun : exec (.setGuard k) s = .next (t.answer k b .done (clampedBit acts)) := by
    refine (exec_of_takeable h).trans (congrArg _ ?_)
    show cueSetGuard k b (s.took k) = _
    simp only [cueSetGuard, hthreshold, hfloor, hpersistence, hhold, hrecovery, horder, henable]
    rfl
  refine ⟨fun hs => ?_, fun hs => ?_⟩
  · rw [hrun, Bool.eq_false_iff.2 fun ha => hacts.1 ha hs]
    rfl
  · rw [hrun, hacts.2 hs]
    rfl

end Sys2Proof.Machine
end

section
/-! PROOFS. LOAD MIC TABLE (06 R118, R119). -/

namespace Sys2Proof.Machine

/-! ### The checks of the records, in order (06 R118) -/

theorem forM_range_succ (f : Nat → Checked Unit) (n : Nat) :
    (List.range (n + 1)).forM f = ((List.range n).forM f >>= fun _ => f n) := by
  show forM (List.range (n + 1)) f = (forM (List.range n) f >>= fun _ => f n)
  rw [List.range_succ, List.forM_append]
  simp

theorem forM_range_ok {f : Nat → Checked Unit} : ∀ {n : Nat}, (∀ i < n, f i = .ok ()) → (List.range n).forM f = .ok ()
  | 0, _ => rfl
  | n + 1, h => by
    rw [forM_range_succ, forM_range_ok fun i hi => h i (by omega), h n (by omega)]
    rfl

/-- The first check that fails is the one reported. -/
theorem forM_range_error {f : Nat → Checked Unit} {m : Nat} {e : Nat × Nat} (hb : ∀ i < m, f i = .ok ()) (he : f m = .error e) :
    ∀ {n : Nat}, m < n → (List.range n).forM f = .error e
  | n + 1, h => by
    rw [forM_range_succ]
    by_cases hm : m = n
    · subst hm
      rw [forM_range_ok hb, he]
      rfl
    · rw [forM_range_error hb he (by omega : m < n)]
      rfl

/-- A microphone's record is good: its flags, its group and its trim are in range (06 R118 step 5). -/
def goodRecord (img : List Byte) (m : Nat) : Prop :=
  u8 img (4 + 4 * m) < 4 ∧ u8 img (5 + 4 * m) ≤ 2 ∧ -2400 ≤ s16 img (6 + 4 * m) ∧ s16 img (6 + 4 * m) ≤ 2400

theorem checkMic_good {img : List Byte} {m : Nat} (h : goodRecord img m) : checkMic img m = .ok () := by
  obtain ⟨hflags, hgroup, hlow, hhigh⟩ := h
  rw [checkMic, if_neg (by omega), if_neg (by omega), if_neg (by simp; omega)]

theorem checkMic_bad {img : List Byte} {m : Nat} (h : ¬ goodRecord img m) : checkMic img m =
    .error (if 4 ≤ u8 img (4 + 4 * m) then 0x13 else if 2 < u8 img (5 + 4 * m) then 0x14 else 0x15, m) := by
  unfold goodRecord at h
  unfold checkMic
  split_ifs with hflags hgroup htrim
  · rfl
  · rfl
  · rfl
  · simp only [Bool.or_eq_true, decide_eq_true_eq] at htrim
    exact absurd ⟨by omega, by omega, by omega, by omega⟩ h

/-- Past the check word and the tag the records are checked. -/
theorem checkMicTable_records {img : List Byte} (hsum : wordSum img = 0) (htag : img.take 4 = [0x4D, 0x49, 0x43, 0x54]) :
    checkMicTable img = (List.range 48).forM (checkMic img) := by
  rw [checkMicTable, if_neg (not_not.2 hsum), if_neg (not_not.2 htag)]
  rfl

/-! ### The steps of trim glides that are still due (06 R119) -/

/-- A trim word does not show in its microphone's mirror. -/
theorem stepTrim_mirrored (x : Mic) : x.stepTrim.mirrored = x.mirrored := by
  cases h : x.trimGlide with
  | none => rw [Mic.stepTrim, h]
  | some g => rw [stepTrim_some h]; rfl

/-- The microphone `m`, with its trim glide's step made if it is among the first `n` and the step is still due. -/
def Mic.trimmed (todo : List Work) (n m : Nat) (x : Mic) : Mic := if m < n ∧ .trimGlide m ∈ todo then x.stepTrim else x

theorem trimmed_mirrored (todo : List Work) (n m : Nat) (x : Mic) : (x.trimmed todo n m).mirrored = x.mirrored := by
  unfold Mic.trimmed
  split
  · exact stepTrim_mirrored x
  · rfl

theorem mapIdx_trimmed_mirrored (todo : List Work) (n : Nat) (l : List Mic) :
    (l.mapIdx (Mic.trimmed todo n)).map Mic.mirrored = l.map Mic.mirrored := by
  refine List.ext_getElem? fun i => ?_
  simp only [List.getElem?_map, List.getElem?_mapIdx, Option.map_map]
  exact congrArg (fun f => l[i]?.map f) (funext fun x => trimmed_mirrored todo n i x)

/-- The trim glides of the first `n` microphones are no longer due. -/
def withoutTrims (todo : List Work) (n : Nat) : List Work := (List.range n).foldl (fun l m => l.erase (.trimGlide m)) todo

theorem withoutTrims_succ (todo : List Work) (n : Nat) :
    withoutTrims todo (n + 1) = (withoutTrims todo n).erase (.trimGlide n) := by
  simp only [withoutTrims, List.range_succ, List.foldl_append, List.foldl_cons, List.foldl_nil]

theorem trimGlide_mem_withoutTrims (todo : List Work) {n m : Nat} (h : n ≤ m) :
    .trimGlide m ∈ withoutTrims todo n ↔ .trimGlide m ∈ todo := by
  induction n with
  | zero => rfl
  | succ n ih =>
    rw [withoutTrims_succ, List.mem_erase_of_ne (by simp; omega)]
    exact ih (by omega)

/-- The steps of the first `n` microphones' trim glides, in one update. -/
theorem foldl_stepTrimGlide (s : State) (n : Nat) : (List.range n).foldl State.stepTrimGlide s =
    (s.setTodo (withoutTrims s.todo n)).setMics (s.mics.mapIdx (Mic.trimmed s.todo n)) := by
  induction n with
  | zero =>
    have hmics : s.mics.mapIdx (Mic.trimmed s.todo 0) = s.mics := List.ext_getElem? fun i => by
      rw [List.getElem?_mapIdx]
      cases s.mics[i]? <;> simp [Mic.trimmed]
    rw [hmics]
    exact (setMics_self s).symm
  | succ n ih =>
    rw [List.range_succ, List.foldl_append, ih, List.foldl_cons, List.foldl_nil, withoutTrims_succ]
    by_cases hdue : Work.trimGlide n ∈ s.todo
    · have hmics : (s.mics.mapIdx (Mic.trimmed s.todo n)).modify n Mic.stepTrim = s.mics.mapIdx (Mic.trimmed s.todo (n + 1)) := by
        refine List.ext_getElem? fun i => ?_
        rw [List.getElem?_modify, List.getElem?_mapIdx, List.getElem?_mapIdx]
        cases s.mics[i]? with
        | none => split <;> rfl
        | some x =>
          by_cases hi : n = i
          · subst hi
            simp [Mic.trimmed, hdue]
          · have hlt : i < n + 1 ↔ i < n := by omega
            simp [Mic.trimmed, hi, hlt]
      have hmem : Work.trimGlide n ∈ withoutTrims s.todo n := (trimGlide_mem_withoutTrims _ le_rfl).2 hdue
      refine (if_pos hmem).trans ?_
      rw [← hmics]
      exact setMics_setMics_of_map (s := s.setTodo _) (mapIdx_trimmed_mirrored ..)
    · have hmics : s.mics.mapIdx (Mic.trimmed s.todo (n + 1)) = s.mics.mapIdx (Mic.trimmed s.todo n) := by
        refine List.ext_getElem? fun i => ?_
        rw [List.getElem?_mapIdx, List.getElem?_mapIdx]
        cases s.mics[i]? with
        | none => rfl
        | some x =>
          by_cases hi : n = i
          · subst hi
            simp [Mic.trimmed, hdue]
          · have hlt : i < n + 1 ↔ i < n := by omega
            simp [Mic.trimmed, hlt]
      have hmem : Work.trimGlide n ∉ withoutTrims s.todo n := mt (trimGlide_mem_withoutTrims _ le_rfl).1 hdue
      rw [hmics, List.erase_of_not_mem hmem]
      exact if_neg hmem

/-- The steps do not show past another update of the microphones. -/
theorem foldl_stepTrimGlide_setMics (s : State) (n : Nat) (f : List Mic → List Mic) :
    let u := (List.range n).foldl State.stepTrimGlide s
    u.setMics (f u.mics) = (s.setTodo (withoutTrims s.todo n)).setMics (f (s.mics.mapIdx (Mic.trimmed s.todo n))) := by
  intro u
  have hu : u = _ := foldl_stepTrimGlide s n
  rw [hu]
  exact setMics_setMics_of_map (s := s.setTodo _) (mapIdx_trimmed_mirrored ..)

/-! ### The cue (06 R118, R119) -/

section
variable {k : Nat} {bs : List Byte} {s : State}

theorem outside_images_iff {o : Nat} : (decide (o < Config.imageBase) || decide (Config.commonSize < o + 198)) = true ↔
    o < 0x06000 ∨ 0x80000 < o + 198 := by
  rw [Bool.or_eq_true, decide_eq_true_eq, decide_eq_true_eq]
  rfl

theorem cueLoadMicTable_range (h : u32 bs 12 < 0x06000 ∨ 0x80000 < u32 bs 12 + 198) :
    cueLoadMicTable k bs s = s.answer k bs .range 0 := if_pos (outside_images_iff.2 h)

variable (hr : ¬ (u32 bs 12 < 0x06000 ∨ 0x80000 < u32 bs 12 + 198))
include hr

theorem cueLoadMicTable_fault {e : Nat × Nat} (h : checkMicTable (readBytes s.ram (u32 bs 12) 198) = .error e) :
    cueLoadMicTable k bs s = s.answer k bs .image (256 * e.1 + 65536 * e.2) := by
  refine (if_neg (mt outside_images_iff.1 hr)).trans ?_
  dsimp only
  rw [h]

theorem cueLoadMicTable_good (h : checkMicTable (readBytes s.ram (u32 bs 12) 198) = .ok ()) :
    cueLoadMicTable k bs s = ((s.setTodo (withoutTrims s.todo 48)).setMics
      ((s.mics.mapIdx (Mic.trimmed s.todo 48)).mapIdx (Mic.takeEntry (readBytes s.ram (u32 bs 12) 198)))).answer k bs .done 0 := by
  refine (if_neg (mt outside_images_iff.1 hr)).trans ?_
  dsimp only
  rw [h]
  dsimp only
  have hmerge := foldl_stepTrimGlide_setMics s Config.microphones fun l =>
    l.mapIdx (Mic.takeEntry (readBytes s.ram (u32 bs 12) 198))
  exact congrArg (fun v : State => v.answer k bs .done 0) hmerge

end

/-- Past the glide's step the microphone is what it was but for its trim word and glide. -/
theorem takeEntry_trimmed (img : List Byte) (todo : List Work) (m : Nat) (x : Mic) :
    (x.trimmed todo 48 m).takeEntry img m = { x with
      present := (u8 img (4 + 4 * m)).testBit 0, guarded := (u8 img (4 + 4 * m)).testBit 1
      group := groupOf (u8 img (5 + 4 * m)), trim := s16 img (6 + 4 * m), trimWord := (x.trimmed todo 48 m).trimWord
      trimGlide := some ⟨(x.trimmed todo 48 m).trimWord, gainWord (s16 img (6 + 4 * m)), 16, 0⟩ } := by
  unfold Mic.trimmed
  split
  · cases h : x.trimGlide with
    | none => rw [Mic.stepTrim, h]; rfl
    | some g => rw [stepTrim_some h]; rfl
  · rfl

/-- Settles O41: the refusals are the checks in their order; the trim glides' steps still due are one update. -/
theorem loadMicTableTakesTheImage : Obligations.LoadMicTableTakesTheImage := by
  intro s k h b t img flags group trim good word u
  have hx : exec (.loadMicTable k) s = .next (cueLoadMicTable k b t) := exec_of_takeable h
  refine ⟨fun hr => hx.trans (congrArg _ (cueLoadMicTable_range hr)), fun hlow hhigh => ?_⟩
  have hr : ¬ (u32 b 12 < 0x06000 ∨ 0x80000 < u32 b 12 + 198) := by omega
  refine ⟨fun hsum => ?_, fun hsum => ⟨fun htag => ?_, fun htag => ⟨fun m hm hbefore hbad => ?_, fun hgood => ?_⟩⟩⟩
  · have hc : checkMicTable img = .error (0x01, 0) := if_pos hsum
    rw [hx, cueLoadMicTable_fault (s := t) hr hc, Nat.mul_zero, Nat.add_zero]
  · have hc : checkMicTable img = .error (0x02, 0) := (if_neg (not_not.2 hsum)).trans (if_pos htag)
    rw [hx, cueLoadMicTable_fault (s := t) hr hc, Nat.mul_zero, Nat.add_zero]
  · have hc := (checkMicTable_records hsum htag).trans
      (forM_range_error (fun i hi => checkMic_good (hbefore i hi)) (checkMic_bad hbad) hm)
    rw [hx, cueLoadMicTable_fault (s := t) hr hc]
  · have hc := (checkMicTable_records hsum htag).trans (forM_range_ok fun i hi => checkMic_good (hgood i hi))
    rw [hx, cueLoadMicTable_good hr hc]
    have hmics : (t.mics.mapIdx (Mic.trimmed t.todo 48)).mapIdx (Mic.takeEntry img) = s.mics.mapIdx fun m x =>
        { x with
          present := (flags m).testBit 0, guarded := (flags m).testBit 1
          group := if group m = 0 then .stage else if group m = 1 then .pit else .hall
          trim := trim m, trimWord := word m, trimGlide := some ⟨word m, gainWord (trim m), 16, 0⟩ } := by
      refine List.ext_getElem? fun m => ?_
      rw [List.getElem?_mapIdx, List.getElem?_mapIdx, List.getElem?_mapIdx, took_mics]
      cases hm : s.mics[m]? with
      | none => rfl
      | some x =>
        have hdue : .trimGlide m ∈ t.todo ↔ .trimGlide m ∈ s.todo := List.mem_erase_of_ne (by simp)
        have hword : (x.trimmed t.todo 48 m).trimWord = word m := by
          have hstep : (State.perform (.trimGlide m) s).mic m = x.stepTrim := by
            refine mic_of_getElem? ?_
            rw [perform_trimGlide hm]
            exact List.getElem?_set_self (List.getElem?_eq_some_iff.1 hm).1
          simp only [Mic.trimmed, hdue, word, hstep, mic_of_getElem? hm]
          split <;> rfl
        rw [Option.map_some, Option.map_some, Option.map_some, takeEntry_trimmed, hword]
        rfl
    rw [hmics]
    rfl

end Sys2Proof.Machine
end

section
/-! PROOFS. The shared operations of the ring guard: conditions judged, changes of a pool entry, of phi and of beta, and
fallback steps; what each gives and what it leaves (06 R121, R122, R130, R134, R137, 09 R171, R173). -/

namespace Sys2Proof.Machine

/-! ### Conditions (09 R173) -/

/-- The attention block once it has been told whether a condition holds. -/
def Attention.judged (a : Attention) (i : Nat) (holds : Bool) (detail frame : Word32) : Attention :=
  if holds && !(a.notice i).pending then a.change i (Notice.occur detail frame)
  else if !holds && (a.notice i).pending then a.change i Notice.finish
  else a

theorem judge_eq (s : State) (x : Source) (holds : Bool) (d : Nat) :
    s.judge x holds d = s.setAtt (s.att.judged x.index holds (BitVec.ofNat 32 d) s.frame) := by
  unfold State.judge Attention.judged
  split_ifs
  · rfl
  · rfl
  · exact (setAtt_self s).symm

theorem judged_notice_ne (a : Attention) {i j : Nat} (h : j ≠ i) (holds : Bool) (d f : Word32) :
    (a.judged i holds d f).notice j = a.notice j := by
  unfold Attention.judged
  split_ifs
  · exact change_notice_ne a h _
  · exact change_notice_ne a h _
  · rfl

/-- A condition that does not hold is not pending. -/
theorem judged_notice_false (a : Attention) (i : Nat) (d f : Word32) :
    (a.judged i false d f).notice i = { a.notice i with pending := false } := by
  unfold Attention.judged
  rw [Bool.false_and, if_neg Bool.false_ne_true, Bool.not_false, Bool.true_and]
  by_cases hp : (a.notice i).pending = true
  · have hi : i < a.notices.length := by
      by_contra hi
      rw [Attention.notice, List.getD_eq_default _ _ (Nat.le_of_not_lt hi)] at hp
      exact Bool.false_ne_true hp
    rw [if_pos hp, change_notice_same hi]
    rfl
  · rw [if_neg hp, ← Bool.eq_false_iff.2 hp]

/-- A condition that holds starts, unless it held. -/
theorem judged_notice_true {a : Attention} {i : Nat} (hi : i < a.notices.length) (d f : Word32) :
    (a.judged i true d f).notice i = if (a.notice i).pending = true then a.notice i else (a.notice i).occur d f := by
  unfold Attention.judged
  rw [Bool.true_and, Bool.not_true, Bool.false_and]
  cases hp : (a.notice i).pending
  · exact change_notice_same hi _
  · rfl

theorem judged_notices_length (a : Attention) (i : Nat) (holds : Bool) (d f : Word32) :
    (a.judged i holds d f).notices.length = a.notices.length := by
  unfold Attention.judged
  split_ifs
  · exact change_notices_length ..
  · exact change_notices_length ..
  · rfl

/-! ### Changes of a pool entry (06 R121, R130) -/

@[simp] theorem stepDepth_kind (x : Notch) : x.stepDepth.kind = x.kind := congrArg (·.1) (stepDepth_mirrored x)
@[simp] theorem stepDepth_mic (x : Notch) : x.stepDepth.mic = x.mic := congrArg (·.2.1) (stepDepth_mirrored x)
@[simp] theorem stepDepth_bin (x : Notch) : x.stepDepth.bin = x.bin := congrArg (·.2.2.1) (stepDepth_mirrored x)
@[simp] theorem stepDepth_depth (x : Notch) : x.stepDepth.depth = x.depth := congrArg (·.2.2.2.1) (stepDepth_mirrored x)
@[simp] theorem stepDepth_hold (x : Notch) : x.stepDepth.hold = x.hold := congrArg (·.2.2.2.2.1) (stepDepth_mirrored x)

section
variable (s : State) (n : Nat)

theorem steppedEntry_mirrored : (s.steppedEntry n).mirrored = (s.entry n).mirrored := by
  unfold State.steppedEntry
  split
  · exact stepDepth_mirrored _
  · rfl

@[simp] theorem steppedEntry_kind : (s.steppedEntry n).kind = (s.entry n).kind := congrArg (·.1) (steppedEntry_mirrored s n)
@[simp] theorem steppedEntry_mic : (s.steppedEntry n).mic = (s.entry n).mic := congrArg (·.2.1) (steppedEntry_mirrored s n)
@[simp] theorem steppedEntry_bin : (s.steppedEntry n).bin = (s.entry n).bin := congrArg (·.2.2.1) (steppedEntry_mirrored s n)
@[simp] theorem steppedEntry_depth : (s.steppedEntry n).depth = (s.entry n).depth :=
  congrArg (·.2.2.2.1) (steppedEntry_mirrored s n)
@[simp] theorem steppedEntry_hold : (s.steppedEntry n).hold = (s.entry n).hold :=
  congrArg (·.2.2.2.2.1) (steppedEntry_mirrored s n)

end

/-- The entry past its glide's step, as the work that makes the step leaves it. -/
theorem steppedEntry_eq {s : State} {n : Nat} (h : n < s.guard.pool.length) :
    (if .depthGlide n ∈ s.todo then (State.perform (.depthGlide n) s).entry n else s.entry n) = s.steppedEntry n := by
  rw [State.steppedEntry, perform_depthGlide_entry (getElem?_entry h)]

/-- The entry past its glide's step looks at the pool and at what is due alone. -/
theorem steppedEntry_congr {s t : State} {n : Nat} (he : t.entry n = s.entry n)
    (hd : .depthGlide n ∈ t.todo ↔ .depthGlide n ∈ s.todo) : t.steppedEntry n = s.steppedEntry n := by
  rw [State.steppedEntry, State.steppedEntry, he]
  exact ite_congr (propext hd) (fun _ => rfl) fun _ => rfl

/-- What a change of a pool entry leaves as it is, but for the pool and for POOL FULL. -/
def State.besidePool (s : State) : List Mic × List Host.Cell × CueUnit × List Slot × Coefficients × List InputLane × Word32 × Guard :=
  (s.mics, s.ram, s.cues, s.slots, s.coef, s.lanes, s.frame, { s.guard with pool := [] })

theorem setGuard_besidePool (s : State) (l : List Notch) :
    (s.setGuard { s.guard with pool := l }).besidePool = s.besidePool := rfl

theorem judge_besidePool (s : State) (x : Source) (b : Bool) (d : Nat) : (s.judge x b d).besidePool = s.besidePool := by
  rw [judge_eq]
  rfl

theorem stepDepthGlide_besidePool (s : State) (n : Nat) : (s.stepDepthGlide n).besidePool = s.besidePool := by
  unfold State.stepDepthGlide State.onDue
  split <;> rfl

theorem changeEntry_besidePool (s : State) (n : Nat) (f : Notch → Notch) : (s.changeEntry n f).besidePool = s.besidePool :=
  (judge_besidePool ..).trans (stepDepthGlide_besidePool s n)

section
variable (s : State) (n : Nat) (f : Notch → Notch)

@[simp] theorem changeEntry_mics : (s.changeEntry n f).mics = s.mics := congrArg (·.1) (changeEntry_besidePool s n f)
@[simp] theorem changeEntry_ram : (s.changeEntry n f).ram = s.ram := congrArg (·.2.1) (changeEntry_besidePool s n f)
@[simp] theorem changeEntry_slots : (s.changeEntry n f).slots = s.slots := congrArg (·.2.2.2.1) (changeEntry_besidePool s n f)
@[simp] theorem changeEntry_frame : (s.changeEntry n f).frame = s.frame :=
  congrArg (·.2.2.2.2.2.2.1) (changeEntry_besidePool s n f)

/-- Of the guard the pool alone changes. -/
theorem changeEntry_guard : (s.changeEntry n f).guard = { s.guard with pool := (s.changeEntry n f).guard.pool } := by
  have h : { (s.changeEntry n f).guard with pool := [] } = { s.guard with pool := [] } :=
    congrArg (·.2.2.2.2.2.2.2) (changeEntry_besidePool s n f)
  exact congrArg (fun g : Guard => { g with pool := (s.changeEntry n f).guard.pool }) h

@[simp] theorem changeEntry_beta : (s.changeEntry n f).guard.beta = s.guard.beta := by rw [changeEntry_guard]
@[simp] theorem changeEntry_settings : (s.changeEntry n f).guard.settings = s.guard.settings := by rw [changeEntry_guard]
@[simp] theorem changeEntry_analyses : (s.changeEntry n f).guard.analyses = s.guard.analyses := by rw [changeEntry_guard]

theorem changeEntry_todo : (s.changeEntry n f).todo = s.todo.erase (.depthGlide n) := by
  refine (judge_todo ..).trans ?_
  show (s.stepDepthGlide n).todo = _
  unfold State.stepDepthGlide State.onDue
  split
  · rfl
  · rename_i h
    exact (List.erase_of_not_mem h).symm

theorem changeEntry_mem_todo {w : Work} (h : w ≠ .depthGlide n) : w ∈ (s.changeEntry n f).todo ↔ w ∈ s.todo := by
  rw [changeEntry_todo, List.mem_erase_of_ne h]

theorem changeEntry_notice_ne {i : Nat} (h : i ≠ 7) : (s.changeEntry n f).att.notice i = s.att.notice i := by
  have hstep : (s.stepDepthGlide n).att = s.att := by
    unfold State.stepDepthGlide State.onDue
    split <;> rfl
  rw [State.changeEntry, judge_eq]
  exact (judged_notice_ne _ h _ _ _).trans (by rw [State.setGuard_att, hstep])

@[simp] theorem changeEntry_pool_length : (s.changeEntry n f).guard.pool.length = s.guard.pool.length := by
  have hstep : (s.stepDepthGlide n).guard.pool.length = s.guard.pool.length := by
    unfold State.stepDepthGlide State.onDue
    split <;> simp
  rw [State.changeEntry, judge_eq]
  simp [hstep]

end

section
variable {s : State} {n : Nat} (h : n < s.guard.pool.length) (f : Notch → Notch)
include h

theorem changeEntry_pool : (s.changeEntry n f).guard.pool = s.guard.pool.set n (f (s.steppedEntry n)) := by
  rw [changeEntry_eq (getElem?_entry h), judge_eq]
  rfl

/-- The entry is changed past its glide's step. -/
theorem changeEntry_entry_same : (s.changeEntry n f).entry n = f (s.steppedEntry n) := by
  refine entry_of_getElem? ?_
  rw [changeEntry_pool h]
  exact List.getElem?_set_self h

theorem changeEntry_entry_ne {j : Nat} (hj : j ≠ n) : (s.changeEntry n f).entry j = s.entry j := by
  rw [State.entry, State.entry, changeEntry_pool h, List.getD_eq_getElem?_getD, List.getElem?_set_ne hj.symm,
    List.getD_eq_getElem?_getD]

/-- An entry that a change makes FREE ends POOL FULL (06 R130). -/
theorem changeEntry_notice_free (hf : (f (s.steppedEntry n)).kind = .free) :
    (s.changeEntry n f).att.notice 7 = { s.att.notice 7 with pending := false } := by
  have hall : (s.guard.pool.set n (f (s.steppedEntry n))).all Notch.inUse = false := by
    rw [List.all_eq_false]
    exact ⟨_, List.mem_set h _, fun hu => inUse_iff.1 hu hf⟩
  rw [changeEntry_eq (getElem?_entry h), judge_eq, hall, State.setAtt_att]
  exact judged_notice_false _ _ _ _

end

/-! ### Changes of phi (06 R122) -/

/-- The microphone, with its fallback glide's step made if it is still due. -/
def State.steppedMic (s : State) (m : Nat) : Mic := if .fallbackGlide m ∈ s.todo then (s.mic m).stepFallback else s.mic m

/-- The microphone past its fallback glide's step, as the work that makes the step leaves it. -/
theorem steppedMic_eq {s : State} {m : Nat} (h : m < s.mics.length) :
    (if .fallbackGlide m ∈ s.todo then (State.perform (.fallbackGlide m) s).mic m else s.mic m) = s.steppedMic m := by
  have hstep : (State.perform (.fallbackGlide m) s).mic m = (s.mic m).stepFallback := onMic_mic_same h _
  rw [State.steppedMic, hstep]

/-- A fallback word does not show in its microphone's mirror. -/
theorem stepFallback_mirrored (x : Mic) : x.stepFallback.mirrored = x.mirrored := by
  cases h : x.fallbackGlide with
  | none => rw [Mic.stepFallback, h]
  | some g => rw [stepFallback_some h]; rfl

/-- The step of a fallback glide changes the fallback word and its glide alone. -/
theorem stepFallback_eq (x : Mic) : x.stepFallback =
    { x with fallbackWord := x.stepFallback.fallbackWord, fallbackGlide := x.stepFallback.fallbackGlide } := by
  cases h : x.fallbackGlide with
  | none => rw [Mic.stepFallback, h]
  | some g => rw [stepFallback_some h]

theorem steppedMic_rest (s : State) (m : Nat) : s.steppedMic m =
    { s.mic m with fallbackWord := (s.steppedMic m).fallbackWord, fallbackGlide := (s.steppedMic m).fallbackGlide } := by
  unfold State.steppedMic
  split
  · exact stepFallback_eq _
  · rfl

theorem steppedMic_congr {s t : State} {m : Nat} (hm : t.mic m = s.mic m)
    (hd : .fallbackGlide m ∈ t.todo ↔ .fallbackGlide m ∈ s.todo) : t.steppedMic m = s.steppedMic m := by
  rw [State.steppedMic, State.steppedMic, hm]
  exact ite_congr (propext hd) (fun _ => rfl) fun _ => rfl

/-- A microphone with a new phi, its fallback word gliding to it (06 R122). -/
def Mic.withPhi (v : Nat) (x : Mic) : Mic :=
  { x with phi := v, fallbackGlide := some ⟨x.fallbackWord, gainWord (-(v : ℤ)), 16, 0⟩ }

theorem setPhi_same {s : State} {m v : Nat} (h : (s.mic m).phi = v) : s.setPhi m v = s := if_pos h

/-- A new phi is set past the step of the glide in progress. -/
theorem setPhi_new {s : State} {m v : Nat} (hm : m < s.mics.length) (h : (s.mic m).phi ≠ v) :
    s.setPhi m v = (s.doing (.fallbackGlide m)).setMics (s.mics.set m ((s.steppedMic m).withPhi v)) := by
  have hx := getElem?_mic hm
  refine (if_neg h).trans ?_
  by_cases hw : Work.fallbackGlide m ∈ s.todo
  · have hstep : s.stepFallbackGlide m = (s.doing (.fallbackGlide m)).onMic m Mic.stepFallback := if_pos hw
    have hmics : (s.mics.modify m Mic.stepFallback).modify m (Mic.withPhi v) = s.mics.set m ((s.steppedMic m).withPhi v) := by
      rw [List.modify_modify_eq, List.modify_eq_set_getElem?, hx, State.steppedMic, if_pos hw]
      rfl
    rw [hstep, ← hmics]
    exact setMics_setMics_of_map (s := s.doing _) (map_modify_of_same stepFallback_mirrored ..)
  · have hstep : s.stepFallbackGlide m = s := if_neg hw
    rw [hstep, onMic_eq hx, doing_of_not_mem hw, State.steppedMic, if_neg hw]
    rfl

/-- What a change of phi leaves as it is. -/
def State.besideMics (s : State) : Guard × Attention × List Host.Cell × CueUnit × List Slot × Coefficients × List InputLane × Word32 :=
  (s.guard, s.att, s.ram, s.cues, s.slots, s.coef, s.lanes, s.frame)

theorem setPhi_besideMics (s : State) (m v : Nat) : (s.setPhi m v).besideMics = s.besideMics := by
  unfold State.setPhi State.stepFallbackGlide State.onDue
  split
  · rfl
  · split <;> rfl

section
variable (s : State) (m v : Nat)

@[simp] theorem setPhi_guard : (s.setPhi m v).guard = s.guard := congrArg (·.1) (setPhi_besideMics s m v)
@[simp] theorem setPhi_att : (s.setPhi m v).att = s.att := congrArg (·.2.1) (setPhi_besideMics s m v)
@[simp] theorem setPhi_frame : (s.setPhi m v).frame = s.frame := congrArg (·.2.2.2.2.2.2.2) (setPhi_besideMics s m v)

@[simp] theorem setPhi_mics_length : (s.setPhi m v).mics.length = s.mics.length := by
  unfold State.setPhi State.stepFallbackGlide State.onDue
  split
  · rfl
  · split <;> simp [State.onMic]

theorem setPhi_mic_ne {j : Nat} (h : j ≠ m) : (s.setPhi m v).mic j = s.mic j := by
  unfold State.setPhi State.stepFallbackGlide State.onDue
  split
  · rfl
  · split
    · exact (onMic_mic_ne _ h _).trans (onMic_mic_ne _ h _)
    · exact onMic_mic_ne _ h _

theorem setPhi_mem_todo {w : Work} (h : w ≠ .fallbackGlide m) : w ∈ (s.setPhi m v).todo ↔ w ∈ s.todo := by
  unfold State.setPhi State.stepFallbackGlide State.onDue
  split
  · rfl
  · split
    · exact List.mem_erase_of_ne h
    · rfl

end

theorem setPhi_mic_same {s : State} {m v : Nat} (hm : m < s.mics.length) :
    (s.setPhi m v).mic m = if (s.mic m).phi = v then s.mic m else (s.steppedMic m).withPhi v := by
  by_cases h : (s.mic m).phi = v
  · rw [setPhi_same h, if_pos h]
  · rw [setPhi_new hm h, if_neg h]
    exact mic_of_getElem? (List.getElem?_set_self hm)

/-! ### Changes of beta (06 R137) -/

theorem setBeta_eq (s : State) (v : Nat) : s.setBeta v = (s.setGuard { s.guard with beta := v }).setAtt
    (s.att.judged 13 (decide (0 < v)) (BitVec.ofNat 32 v) s.frame) := judge_eq ..

@[simp] theorem setBeta_guard (s : State) (v : Nat) : (s.setBeta v).guard = { s.guard with beta := v } := by rw [setBeta_eq]; rfl
@[simp] theorem setBeta_mics (s : State) (v : Nat) : (s.setBeta v).mics = s.mics := by rw [setBeta_eq]; rfl

/-! ### A fallback step (06 R134) -/

/-- The new value of phi that a fallback step gives a microphone. -/
def State.nextPhi (s : State) (m : Nat) : Nat := min ((s.mic m).phi + 300) 1800
/-- The new value of beta that a fallback step gives. -/
def State.nextBeta (s : State) : Nat := min (s.guard.beta + 20) 300

section
variable (s : State) (m : Nat)

theorem fallbackStep_eq : s.fallbackStep m =
    (((s.setPhi m (s.nextPhi m)).setBeta s.nextBeta).touch m).raise .fallbackApplied (m + 65536 * s.nextPhi m) := rfl

theorem fallbackStep_guard : (s.fallbackStep m).guard = { s.guard with
    beta := s.nextBeta, progress := s.guard.progress.map fun p => { p with touched := m :: p.touched } } := by
  show ((((s.setPhi m (s.nextPhi m)).setBeta s.nextBeta).touch m)).guard = _
  unfold State.touch State.onMic
  simp

@[simp] theorem fallbackStep_pool : (s.fallbackStep m).guard.pool = s.guard.pool := by rw [fallbackStep_guard]
@[simp] theorem fallbackStep_beta : (s.fallbackStep m).guard.beta = s.nextBeta := by rw [fallbackStep_guard]
@[simp] theorem fallbackStep_settings : (s.fallbackStep m).guard.settings = s.guard.settings := by rw [fallbackStep_guard]
@[simp] theorem fallbackStep_analyses : (s.fallbackStep m).guard.analyses = s.guard.analyses := by rw [fallbackStep_guard]
@[simp] theorem fallbackStep_entry (n : Nat) : (s.fallbackStep m).entry n = s.entry n := by
  rw [State.entry, State.entry, fallbackStep_pool]

/-- BACK-OFF ACTIVE follows beta, and FALLBACK APPLIED is raised (06 R134, R137). -/
theorem fallbackStep_att : (s.fallbackStep m).att =
    (s.att.judged 13 (decide (0 < s.nextBeta)) (BitVec.ofNat 32 s.nextBeta) s.frame).change 6
      (Notice.occur (BitVec.ofNat 32 (m + 65536 * s.nextPhi m)) s.frame) := by
  have hbeta := setBeta_eq (s.setPhi m (s.nextPhi m)) s.nextBeta
  rw [setPhi_guard, setPhi_att, setPhi_frame] at hbeta
  have hatt : ((s.setPhi m (s.nextPhi m)).setBeta s.nextBeta).att =
      s.att.judged 13 (decide (0 < s.nextBeta)) (BitVec.ofNat 32 s.nextBeta) s.frame := by rw [hbeta]; rfl
  have hframe : ((s.setPhi m (s.nextPhi m)).setBeta s.nextBeta).frame = s.frame := by rw [hbeta]; exact setPhi_frame ..
  have hraise (t : State) (d : Nat) : ((t.touch m).raise .fallbackApplied d).att =
      t.att.change 6 (Notice.occur (BitVec.ofNat 32 d) t.frame) := rfl
  rw [fallbackStep_eq, hraise, hatt, hframe]

theorem fallbackStep_mem_todo {w : Work} (h : w ≠ .fallbackGlide m) : w ∈ (s.fallbackStep m).todo ↔ w ∈ s.todo := by
  rw [fallbackStep_eq, raise_todo, touch_todo, setBeta_todo, setPhi_mem_todo s m _ h]

theorem fallbackStep_mics : (s.fallbackStep m).mics =
    (s.setPhi m (s.nextPhi m)).mics.modify m fun x => { x with quiet := 0 } := by
  have htouch (t : State) : (t.touch m).mics = t.mics.modify m fun x => { x with quiet := 0 } := rfl
  rw [fallbackStep_eq, State.raise, State.setAtt_mics, htouch, setBeta_mics]

theorem fallbackStep_mic_ne {j : Nat} (h : j ≠ m) : (s.fallbackStep m).mic j = s.mic j := by
  rw [← setPhi_mic_ne s m (s.nextPhi m) h, State.mic, fallbackStep_mics]
  exact onMic_mic_ne (s.setPhi m (s.nextPhi m)) h _

end

theorem fallbackStep_mic_same {s : State} {m : Nat} (hm : m < s.mics.length) : (s.fallbackStep m).mic m =
    { (if (s.mic m).phi = s.nextPhi m then s.mic m else (s.steppedMic m).withPhi (s.nextPhi m)) with quiet := 0 } := by
  rw [← setPhi_mic_same hm, State.mic, fallbackStep_mics]
  exact onMic_mic_same (by rw [setPhi_mics_length]; exact hm) _

theorem fallbackStep_phi {s : State} {m : Nat} (hm : m < s.mics.length) : ((s.fallbackStep m).mic m).phi = s.nextPhi m := by
  rw [fallbackStep_mic_same hm]
  dsimp only
  split
  · assumption
  · rfl

/-- FALLBACK APPLIED names the microphone and its new phi (06 R134). -/
theorem fallbackStep_notice_applied {s : State} (h : s.att.notices.length = 14) (m : Nat) :
    (s.fallbackStep m).att.notice 6 = (s.att.notice 6).occur (BitVec.ofNat 32 (m + 65536 * s.nextPhi m)) s.frame := by
  rw [fallbackStep_att, change_notice_same (by rw [judged_notices_length, h]; decide), judged_notice_ne _ (by decide)]

/-- A fallback step leaves beta above 0: BACK-OFF ACTIVE starts, or goes on (06 R137). -/
theorem fallbackStep_notice_backOff {s : State} (h : s.att.notices.length = 14) (m : Nat) :
    (s.fallbackStep m).att.notice 13 = if (s.att.notice 13).pending = true then s.att.notice 13
      else (s.att.notice 13).occur (BitVec.ofNat 32 s.nextBeta) s.frame := by
  have hpos : 0 < s.nextBeta := by unfold State.nextBeta; omega
  rw [fallbackStep_att, change_notice_ne _ (by decide), decide_eq_true hpos, judged_notice_true (by rw [h]; decide)]

theorem fallbackStep_notice_ne (s : State) (m : Nat) {i : Nat} (h6 : i ≠ 6) (h13 : i ≠ 13) :
    (s.fallbackStep m).att.notice i = s.att.notice i := by
  rw [fallbackStep_att, change_notice_ne _ h6, judged_notice_ne _ h13]

end Sys2Proof.Machine
end

section
/-! PROOFS. Finding entries of the pool: the near notch, a FREE entry, the victim (06 R130, R132, R133, R139). -/

namespace Sys2Proof.Machine

/-! ### The notch near a bin (06 R132) -/

theorem near_iff {a b : Nat} : near a b = true ↔ a ≤ b + 1 ∧ b ≤ a + 1 := by simp [near]

/-- The notch in use on a microphone at exactly a bin. -/
def Guard.notchAt (g : Guard) (m b : Nat) : Option Nat := g.findEntry fun n => n.inUse && n.mic == m && n.bin == b

theorem nearNotch_eq (g : Guard) (m bin : Nat) : g.nearNotch m bin =
    ((g.notchAt m bin).or (if bin = 0 then none else g.notchAt m (bin - 1))).or (g.notchAt m (bin + 1)) := rfl

section
variable {g : Guard} {m b : Nat}

theorem notchAt_none : g.notchAt m b = none ↔ ∀ z ∈ g.pool, z.kind ≠ .free → z.mic = m → z.bin ≠ b := by
  rw [Guard.notchAt, Guard.findEntry, List.findIdx?_eq_none_iff]
  refine forall₂_congr fun z _ => ?_
  rw [Bool.eq_false_iff, ne_eq, Bool.and_eq_true, Bool.and_eq_true, inUse_iff, beq_iff_eq, beq_iff_eq]
  tauto

theorem notchAt_some {n : Nat} (h : g.notchAt m b = some n) :
    ∃ y, g.pool[n]? = some y ∧ y.kind ≠ .free ∧ y.mic = m ∧ y.bin = b := by
  obtain ⟨hn, hp, -⟩ := List.findIdx?_eq_some_iff_getElem.1 h
  rw [Bool.and_eq_true, Bool.and_eq_true, inUse_iff, beq_iff_eq, beq_iff_eq] at hp
  obtain ⟨⟨hk, hm⟩, hb⟩ := hp
  exact ⟨_, List.getElem?_eq_getElem hn, hk, hm, hb⟩

/-- The notch at the bin below, if there is a bin below. -/
theorem notchBelow_none : (if b = 0 then none else g.notchAt m (b - 1)) = none ↔
    ∀ z ∈ g.pool, z.kind ≠ .free → z.mic = m → z.bin + 1 ≠ b := by
  by_cases hb : b = 0
  · simp [hb]
  · rw [if_neg hb, notchAt_none]
    refine forall₄_congr fun z _ _ _ => ?_
    omega

theorem nearNotch_none : g.nearNotch m b = none ↔
    ∀ z ∈ g.pool, z.kind ≠ .free → z.mic = m → ¬ (b ≤ z.bin + 1 ∧ z.bin ≤ b + 1) := by
  rw [nearNotch_eq, Option.or_eq_none_iff, Option.or_eq_none_iff, notchAt_none, notchBelow_none, notchAt_none]
  constructor
  · rintro ⟨⟨hat, hbelow⟩, habove⟩ z hz hk hm
    have := hat z hz hk hm
    have := hbelow z hz hk hm
    have := habove z hz hk hm
    omega
  · intro h
    refine ⟨⟨fun z hz hk hm => ?_, fun z hz hk hm => ?_⟩, fun z hz hk hm => ?_⟩ <;>
    · have := h z hz hk hm
      omega

/-- The near notch is in use on the microphone, and no other at the bin or below is passed over. -/
theorem nearNotch_some {n : Nat} (h : g.nearNotch m b = some n) :
    ∃ y, g.pool[n]? = some y ∧ y.kind ≠ .free ∧ y.mic = m ∧ b ≤ y.bin + 1 ∧ y.bin ≤ b + 1
      ∧ ∀ z ∈ g.pool, z.kind ≠ .free → z.mic = m → (z.bin = b → y.bin = b) ∧ (z.bin + 1 = b → y.bin ≤ b) := by
  rw [nearNotch_eq, Option.or_eq_some_iff, Option.or_eq_some_iff, Option.or_eq_none_iff] at h
  rcases h with (hat | ⟨hat, hbelow⟩) | ⟨⟨hat, hbelow⟩, habove⟩
  · obtain ⟨y, hy, hk, hm, hb⟩ := notchAt_some hat
    exact ⟨y, hy, hk, hm, by omega, by omega, fun z _ _ _ => by omega⟩
  · rw [notchAt_none] at hat
    by_cases hb0 : b = 0
    · rw [if_pos hb0] at hbelow
      cases hbelow
    · rw [if_neg hb0] at hbelow
      obtain ⟨y, hy, hk, hm, hb⟩ := notchAt_some hbelow
      refine ⟨y, hy, hk, hm, by omega, by omega, fun z hz hzk hzm => ?_⟩
      have := hat z hz hzk hzm
      omega
  · rw [notchAt_none] at hat
    rw [notchBelow_none] at hbelow
    obtain ⟨y, hy, hk, hm, hb⟩ := notchAt_some habove
    refine ⟨y, hy, hk, hm, by omega, by omega, fun z hz hzk hzm => ?_⟩
    have := hat z hz hzk hzm
    have := hbelow z hz hzk hzm
    omega

/-! ### A FREE entry (06 R130) -/

/-- The lowest FREE entry. -/
theorem findFree_some {i : Nat} {x : Notch} (hx : g.pool[i]? = some x) (hk : x.kind = .free)
    (hlow : ∀ j < i, ∀ y, g.pool[j]? = some y → y.kind ≠ .free) : g.findEntry (fun n => n.kind == .free) = some i := by
  obtain ⟨hi, hget⟩ := List.getElem?_eq_some_iff.1 hx
  refine List.findIdx?_eq_some_iff_getElem.2 ⟨hi, by rw [hget, hk]; rfl, fun j hj hp => ?_⟩
  exact hlow j hj _ (List.getElem?_eq_getElem (hj.trans hi)) (beq_iff_eq.1 hp)

theorem findFree_none (h : ∀ z ∈ g.pool, z.kind ≠ .free) : g.findEntry (fun n => n.kind == .free) = none :=
  List.findIdx?_eq_none_iff.2 fun z hz => beq_eq_false_iff_ne.2 (h z hz)

end

/-! ### The victim (06 R133, R139) -/

/-- The place of a notch's group in the ranking. -/
def State.placeOf (s : State) (z : Notch) : Nat := rankOf s.guard.settings.order (s.mic z.mic).group

/-- `y`, at `v`, is given up before `z`, at `j`, or is the same: a lower-ranked group, then the older, then the lower number. -/
def State.yields (s : State) (y : Notch) (v : Nat) (z : Notch) (j : Nat) : Prop :=
  s.placeOf z < s.placeOf y
    ∨ (s.placeOf z = s.placeOf y ∧ (s.guard.age z < s.guard.age y ∨ (s.guard.age z = s.guard.age y ∧ v ≤ j)))

/-- A notch that may be a victim. -/
def State.mayYield (s : State) (rank : Nat) (z : Notch) : Prop := z.kind = .floating ∧ rank ≤ s.placeOf z

theorem victimBefore_iff (s : State) (a b : Notch) : s.victimBefore a b = true ↔
    s.placeOf b < s.placeOf a ∨ (s.placeOf a = s.placeOf b ∧ s.guard.age b < s.guard.age a) := by
  simp [State.victimBefore, State.placeOf]

/-- The victim among the first entries, with the one looked at next. -/
def State.victimStep (s : State) (rank : Nat) (best : Option (Notch × Nat)) (n : Notch × Nat) : Option (Notch × Nat) :=
  if n.1.kind = .floating && decide (rank ≤ s.placeOf n.1) then
    match best with
    | none => some n
    | some b => if s.victimBefore n.1 b.1 then some n else some b
  else best

/-- The victim of a list of entries: none may yield, or the one that yields to none. -/
def State.isVictim (s : State) (rank : Nat) (l : List Notch) : Option (Notch × Nat) → Prop
  | none => ∀ z ∈ l, ¬ s.mayYield rank z
  | some (y, v) => l[v]? = some y ∧ s.mayYield rank y ∧ ∀ j z, l[j]? = some z → s.mayYield rank z → s.yields y v z j

theorem victimStep_skip {s : State} {rank : Nat} {x : Notch} (h : ¬ s.mayYield rank x) (best : Option (Notch × Nat)) (k : Nat) :
    s.victimStep rank best (x, k) = best := if_neg (by simpa [State.mayYield] using h)

theorem victimStep_none {s : State} {rank : Nat} {x : Notch} (h : s.mayYield rank x) (k : Nat) :
    s.victimStep rank none (x, k) = some (x, k) := if_pos (by simpa [State.mayYield] using h)

theorem victimStep_some {s : State} {rank : Nat} {x : Notch} (h : s.mayYield rank x) (k : Nat) (b : Notch × Nat) :
    s.victimStep rank (some b) (x, k) = if s.victimBefore x b.1 then some (x, k) else some b :=
  if_pos (by simpa [State.mayYield] using h)

/-- What stands at a number of a list with one entry more. -/
theorem getElem?_concat_cases {α : Type} {l : List α} {x z : α} {j : Nat} (h : (l ++ [x])[j]? = some z) :
    l[j]? = some z ∨ (j = l.length ∧ z = x) := by
  rcases Nat.lt_trichotomy j l.length with hj | hj | hj
  · rw [List.getElem?_append_left hj] at h
    exact .inl h
  · subst hj
    rw [List.getElem?_concat_length] at h
    exact .inr ⟨rfl, (Option.some.inj h).symm⟩
  · rw [List.getElem?_eq_none (by simp; omega)] at h
    cases h

theorem getElem?_concat_old {α : Type} {l : List α} {z : α} {j : Nat} (h : l[j]? = some z) (x : α) :
    (l ++ [x])[j]? = some z := by
  rw [List.getElem?_append_left (List.getElem?_eq_some_iff.1 h).1, h]

/-- One entry more: the victim so far, or the new entry, is the victim. -/
theorem isVictim_concat {s : State} {rank : Nat} {l : List Notch} {best : Option (Notch × Nat)} (h : s.isVictim rank l best)
    (x : Notch) : s.isVictim rank (l ++ [x]) (s.victimStep rank best (x, l.length)) := by
  by_cases hx : s.mayYield rank x
  · cases best with
    | none =>
      rw [victimStep_none hx]
      refine ⟨List.getElem?_concat_length, hx, fun j z hz hmay => ?_⟩
      rcases getElem?_concat_cases hz with hold | ⟨rfl, rfl⟩
      · exact absurd hmay (h z (List.mem_of_getElem? hold))
      · exact .inr ⟨rfl, .inr ⟨rfl, le_rfl⟩⟩
    | some b =>
      obtain ⟨y, v⟩ := b
      obtain ⟨hy, hmayy, hbest⟩ := h
      have hv : v < l.length := (List.getElem?_eq_some_iff.1 hy).1
      rw [victimStep_some hx]
      by_cases hb : s.victimBefore x y = true
      · rw [if_pos hb]
        rw [victimBefore_iff] at hb
        refine ⟨List.getElem?_concat_length, hx, fun j z hz hmay => ?_⟩
        rcases getElem?_concat_cases hz with hold | ⟨rfl, rfl⟩
        · have := hbest j z hold hmay
          unfold State.yields at *
          omega
        · exact .inr ⟨rfl, .inr ⟨rfl, le_rfl⟩⟩
      · rw [if_neg hb]
        rw [victimBefore_iff] at hb
        refine ⟨getElem?_concat_old hy x, hmayy, fun j z hz hmay => ?_⟩
        rcases getElem?_concat_cases hz with hold | ⟨rfl, rfl⟩
        · exact hbest j z hold hmay
        · unfold State.yields
          omega
  · rw [victimStep_skip hx]
    cases best with
    | none =>
      intro z hz
      rcases List.mem_append.1 hz with hz | hz
      · exact h z hz
      · exact List.mem_singleton.1 hz ▸ hx
    | some b =>
      obtain ⟨y, v⟩ := b
      obtain ⟨hy, hmayy, hbest⟩ := h
      refine ⟨getElem?_concat_old hy x, hmayy, fun j z hz hmay => ?_⟩
      rcases getElem?_concat_cases hz with hold | ⟨rfl, rfl⟩
      · exact hbest j z hold hmay
      · exact absurd hmay hx

theorem isVictim_foldl (s : State) (rank : Nat) (l : List Notch) :
    s.isVictim rank l (l.zipIdx.foldl (s.victimStep rank) none) := by
  induction l using List.reverseRecOn with
  | nil => exact fun z hz => absurd hz List.not_mem_nil
  | append_singleton l x ih =>
    rw [List.zipIdx_append, List.foldl_append]
    simpa using isVictim_concat ih x

theorem victim_eq (s : State) (rank : Nat) :
    s.victim rank = (s.guard.pool.zipIdx.foldl (s.victimStep rank) none).map (·.2) := rfl

theorem victim_none {s : State} {rank : Nat} : s.victim rank = none ↔ ∀ z ∈ s.guard.pool, ¬ s.mayYield rank z := by
  have h := isVictim_foldl s rank s.guard.pool
  rw [victim_eq]
  cases hr : s.guard.pool.zipIdx.foldl (s.victimStep rank) none with
  | none =>
    rw [hr] at h
    exact ⟨fun _ => h, fun _ => rfl⟩
  | some b =>
    rw [hr] at h
    obtain ⟨hy, hmay, -⟩ := h
    exact ⟨fun hn => (nomatch hn), fun hall => absurd hmay (hall _ (List.mem_of_getElem? hy))⟩

theorem victim_some {s : State} {rank v : Nat} (h : s.victim rank = some v) : ∃ y, s.guard.pool[v]? = some y
    ∧ s.mayYield rank y ∧ ∀ j z, s.guard.pool[j]? = some z → s.mayYield rank z → s.yields y v z j := by
  have hv := isVictim_foldl s rank s.guard.pool
  rw [victim_eq] at h
  obtain ⟨⟨y, w⟩, hr, rfl⟩ := Option.map_eq_some_iff.1 h
  rw [hr] at hv
  exact ⟨y, hv⟩

end Sys2Proof.Machine
end

section
/-! PROOFS. A confirmed ring is acted on (06 R132 to R134). -/

namespace Sys2Proof.Machine

/-! ### What a confirmation does, by what it finds -/

section
variable {s : State} {m bin : Nat}

theorem actOn_near {n : Nat} (h : s.guard.nearNotch m bin = some n) : s.actOn (m, bin) =
    if (s.entry n).kind = .floating ∧ (s.entry n).depth < 1800 then
      s.changeEntry n fun x => { x.setDepth (x.depth + 300) with hold := s.guard.settings.hold }
    else s.fallbackStep m := by
  rw [State.actOn, h]

variable (h : s.guard.nearNotch m bin = none)
include h

theorem actOn_free {i : Nat} (hi : s.guard.findEntry (fun n => n.kind == .free) = some i) :
    s.actOn (m, bin) = s.setFloating i m bin := by
  rw [State.actOn, h, hi]

theorem actOn_victim (hi : ∀ z ∈ s.guard.pool, z.kind ≠ .free) {v : Nat}
    (hv : s.victim (rankOf s.guard.settings.order (s.mic m).group) = some v) :
    s.actOn (m, bin) = (s.displace v).setFloating v m bin := by
  rw [State.actOn, h, findFree_none hi]
  dsimp only
  rw [hv]

theorem actOn_noVictim (hi : ∀ z ∈ s.guard.pool, z.kind ≠ .free)
    (hv : s.victim (rankOf s.guard.settings.order (s.mic m).group) = none) : s.actOn (m, bin) = s.fallbackStep m := by
  rw [State.actOn, h, findFree_none hi]
  dsimp only
  rw [hv]

end

/-- A new depth starts the filter's glide to it (06 R121). -/
theorem setDepth_new {x : Notch} {d : Nat} (h : x.depth ≠ d) : x.setDepth d =
    { x with depth := d, filter := { x.filter with glide := some ⟨x.filter.depth, (d : ℤ), 4, 0⟩ } } := if_neg h

/-! ### A new FLOATING notch (06 R133) -/

/-- An entry is a FLOATING notch of depth 600, with its hold set and its stamp of now. -/
def Notch.isNew (z : Notch) (m bin hold : Nat) (stamp : Word32) : Prop :=
  z.kind = .floating ∧ z.mic = m ∧ z.bin = bin ∧ z.depth = 600 ∧ z.hold = hold ∧ z.stamp = stamp

theorem setFloating_isNew {s : State} {n : Nat} (h : n < s.guard.pool.length) (m bin : Nat) :
    ((s.setFloating n m bin).entry n).isNew m bin s.guard.settings.hold s.guard.analyses := by
  rw [State.setFloating, changeEntry_entry_same h]
  exact ⟨rfl, rfl, rfl, rfl, rfl, rfl⟩

/-! ### A displaced victim (06 R133, R139) -/

section
variable (s : State) (v : Nat)

/-- The state once NOTCH DISPLACED is raised. -/
def State.displacing : State :=
  s.raise .notchDisplaced (v + 256 * (s.entry v).mic + 65536 * (s.entry v).bin)

theorem displace_eq : s.displace v = (s.displacing v).fallbackStep (s.entry v).mic := rfl

theorem displacing_notice : (s.displacing v).att = s.att.change 5
    (Notice.occur (BitVec.ofNat 32 (v + 256 * (s.entry v).mic + 65536 * (s.entry v).bin)) s.frame) := rfl

theorem displacing_notices_length : (s.displacing v).att.notices.length = s.att.notices.length := change_notices_length ..

@[simp] theorem displace_entry (n : Nat) : (s.displace v).entry n = s.entry n := fallbackStep_entry ..
@[simp] theorem displace_pool : (s.displace v).guard.pool = s.guard.pool := fallbackStep_pool ..
@[simp] theorem displace_settings : (s.displace v).guard.settings = s.guard.settings := fallbackStep_settings ..
@[simp] theorem displace_analyses : (s.displace v).guard.analyses = s.guard.analyses := fallbackStep_analyses ..
@[simp] theorem displace_beta : (s.displace v).guard.beta = s.nextBeta := fallbackStep_beta ..

theorem displace_phi (hx : (s.entry v).mic < s.mics.length) :
    ((s.displace v).mic (s.entry v).mic).phi = s.nextPhi (s.entry v).mic := fallbackStep_phi (s := s.displacing v) hx

variable {s} (h : s.att.notices.length = 14)
include h

theorem displace_notice_displaced : (s.displace v).att.notice 5 = (s.att.notice 5).occur
    (BitVec.ofNat 32 (v + 256 * (s.entry v).mic + 65536 * (s.entry v).bin)) s.frame := by
  rw [displace_eq, fallbackStep_notice_ne _ _ (by decide) (by decide), displacing_notice,
    change_notice_same (by rw [h]; decide)]

theorem displace_notice_applied : (s.displace v).att.notice 6 = (s.att.notice 6).occur
    (BitVec.ofNat 32 ((s.entry v).mic + 65536 * s.nextPhi (s.entry v).mic)) s.frame := by
  rw [displace_eq, fallbackStep_notice_applied ((displacing_notices_length s v).trans h), displacing_notice,
    change_notice_ne _ (by decide)]
  rfl

end

/-! ### The statement -/

/-- Settles O47: what a confirmation finds decides what it does; the fallback step, the near notch and the victim each by
their own lemmas. -/
theorem ringsAreActedOn : Obligations.RingsAreActedOn := by
  refine ⟨fun s m bin i x hlen hfar hx hk hlow => ?free, fun s m hm hlen => ?fallback,
    fun s m bin => ⟨nearNotch_none, fun n => nearNotch_some⟩, fun s m bin n hn => ?near, fun s rank => ?victim,
    fun s m bin hn hfull => ?displaced⟩
  case free =>
    have hi : i < s.guard.pool.length := (List.getElem?_eq_some_iff.1 hx).1
    rw [actOn_free (nearNotch_none.2 hfar) (findFree_some hx hk hlow)]
    obtain ⟨hkind, hmic, hbin, hdepth, hhold, hstamp⟩ := setFloating_isNew hi m bin
    exact ⟨hkind, hmic, hbin, hdepth, hhold, hstamp, fun j hj => changeEntry_entry_ne hi _ hj, changeEntry_mics ..⟩
  case fallback =>
    intro t phi beta
    have hml : m < s.mics.length := by omega
    have hmic := fallbackStep_mic_same hml
    refine ⟨fallbackStep_phi hml, by rw [hmic], fallbackStep_beta .., fun j hj => by rw [fallbackStep_mic_ne s m hj], fallbackStep_pool ..,
      by rw [fallbackStep_guard], ?_, fun hn => ⟨fallbackStep_notice_applied hn m, fallbackStep_notice_backOff hn m⟩⟩
    intro y
    have hy : y = s.steppedMic m := steppedMic_eq hml
    refine ⟨fun hsame => ?_, fun hne => ?_⟩
    · have hkept : (s.mic m).phi = s.nextPhi m := hsame.symm
      rw [hmic, if_pos hkept]
      exact ⟨rfl, rfl⟩
    · have hmoved : (s.mic m).phi ≠ s.nextPhi m := Ne.symm hne
      rw [hmic, if_neg hmoved, hy]
      exact ⟨rfl, rfl⟩
  case near =>
    intro y
    obtain ⟨z, hz, hk, -⟩ := nearNotch_some hn
    have hlt : n < s.guard.pool.length := (List.getElem?_eq_some_iff.1 hz).1
    have hy : y = s.steppedEntry n := steppedEntry_eq hlt
    have hkind : y.kind = (s.entry n).kind := by rw [hy, steppedEntry_kind]
    have hdepth : y.depth = (s.entry n).depth := by rw [hy, steppedEntry_depth]
    rw [actOn_near hn, ← hkind, ← hdepth]
    refine ⟨fun hf hd => ?_, fun hor => if_neg ?_⟩
    · rw [if_pos ⟨hf, hd⟩]
      refine ⟨?_, fun j hj => changeEntry_entry_ne hlt _ hj, changeEntry_mics .., changeEntry_beta ..⟩
      rw [changeEntry_entry_same hlt, ← hy, setDepth_new (by omega)]
    · rintro ⟨hf, hd⟩
      rcases hor with hfix | hdeep
      · rw [hf] at hfix
        cases hfix
      · omega
  case victim =>
    intro place age
    refine ⟨victim_none.trans (forall₂_congr fun z _ => ?_), fun v hv => ?_⟩
    · show ¬ (_ ∧ rank ≤ place z) ↔ _
      rw [not_and, Nat.not_le]
    · obtain ⟨y, hy, ⟨hk, hr⟩, hyields⟩ := victim_some hv
      refine ⟨y, hy, hk, hr, fun j z hz hzk => ?_⟩
      by_cases hz' : rank ≤ place z
      · exact hyields j z hz ⟨hzk, hz'⟩
      · exact .inl (Nat.lt_of_lt_of_le (Nat.not_le.1 hz') hr)
  case displaced =>
    intro own
    refine ⟨actOn_noVictim hn hfull, fun v hv hx hmics hnotices => ?_⟩
    intro t x phi
    have ht : t = (s.displace v).setFloating v m bin := actOn_victim hn hfull hv
    obtain ⟨y, hy, -⟩ := victim_some hv
    have hlt : v < (s.displace v).guard.pool.length := by
      rw [displace_pool]
      exact (List.getElem?_eq_some_iff.1 hy).1
    obtain ⟨hkind, hmic, hbin, hdepth, hhold, hstamp⟩ := setFloating_isNew hlt m bin
    rw [displace_settings] at hhold
    rw [displace_analyses] at hstamp
    rw [ht]
    refine ⟨hkind, hmic, hbin, hdepth, hhold, hstamp,
      fun j hj => (changeEntry_entry_ne hlt _ hj).trans (displace_entry ..), ?_, ?_, ?_, ?_⟩
    · refine Eq.trans ?_ (displace_phi s v (by omega))
      rw [State.mic, State.setFloating, changeEntry_mics]
      rfl
    · exact (changeEntry_beta ..).trans (displace_beta ..)
    · exact (changeEntry_notice_ne _ _ _ (by decide)).trans (displace_notice_displaced v hnotices)
    · exact (changeEntry_notice_ne _ _ _ (by decide)).trans (displace_notice_applied v hnotices)

end Sys2Proof.Machine
end

section
/-! PROOFS. FIX NOTCH (06 R121, R138, R139). -/

namespace Sys2Proof.Machine

/-! ### Entries freed one after the other (06 R139, R141) -/

/-- `t` is `s` once each of the first `n` entries that `p` names is FREE, and nothing else has changed but POOL FULL. -/
structure FreedBelow (p : Nat → Notch → Prop) [∀ k z, Decidable (p k z)] (n : Nat) (s t : State) : Prop where
  beside : t.besidePool = s.besidePool
  length : t.guard.pool.length = s.guard.pool.length
  entry : ∀ j < n, t.entry j = if p j (s.entry j) then (s.steppedEntry j).release else s.entry j
  left : ∀ j, n ≤ j → t.entry j = s.entry j ∧ (.depthGlide j ∈ t.todo ↔ .depthGlide j ∈ s.todo)
  due : ∀ w, (∀ j, w ≠ .depthGlide j) → (w ∈ t.todo ↔ w ∈ s.todo)
  notice : ∀ i, i ≠ 7 → t.att.notice i = s.att.notice i
  idle : (∀ j < n, ¬ p j (s.entry j)) → t = s
  free : (∃ j < n, p j (s.entry j)) → t.att.notice 7 = { s.att.notice 7 with pending := false }

section
variable {p : Nat → Notch → Prop} [∀ k z, Decidable (p k z)]

section
variable {n : Nat} {s t : State} (h : FreedBelow p n s t)
include h

theorem FreedBelow.mics : t.mics = s.mics := congrArg (·.1) h.beside
theorem FreedBelow.ram : t.ram = s.ram := congrArg (·.2.1) h.beside
theorem FreedBelow.slots : t.slots = s.slots := congrArg (·.2.2.2.1) h.beside
theorem FreedBelow.coef : t.coef = s.coef := congrArg (·.2.2.2.2.1) h.beside
theorem FreedBelow.frame : t.frame = s.frame := congrArg (·.2.2.2.2.2.2.1) h.beside

/-- Of the guard the pool alone changes. -/
theorem FreedBelow.guard : t.guard = { s.guard with pool := t.guard.pool } := by
  have hrest : { t.guard with pool := [] } = { s.guard with pool := [] } := congrArg (·.2.2.2.2.2.2.2) h.beside
  exact congrArg (fun g : Guard => { g with pool := t.guard.pool }) hrest

end

theorem freedBelow_zero (s : State) : FreedBelow p 0 s s where
  beside := rfl
  length := rfl
  entry := fun _ h => absurd h (Nat.not_lt_zero _)
  left := fun _ _ => ⟨rfl, Iff.rfl⟩
  due := fun _ _ => Iff.rfl
  notice := fun _ _ => rfl
  idle := fun _ => rfl
  free := fun ⟨_, h, _⟩ => absurd h (Nat.not_lt_zero _)

/-- An entry that `p` does not name is passed over. -/
theorem FreedBelow.pass {n : Nat} {s t : State} (h : FreedBelow p n s t) (hp : ¬ p n (s.entry n)) : FreedBelow p (n + 1) s t where
  beside := h.beside
  length := h.length
  entry := fun j hj => by
    rcases Nat.lt_succ_iff_lt_or_eq.1 hj with hj | rfl
    · exact h.entry j hj
    · rw [if_neg hp]
      exact (h.left j le_rfl).1
  left := fun j hj => h.left j (by omega)
  due := h.due
  notice := h.notice
  idle := fun hn => h.idle fun j hj => hn j (by omega)
  free := fun ⟨j, hj, hpj⟩ => by
    rcases Nat.lt_succ_iff_lt_or_eq.1 hj with hj | rfl
    · exact h.free ⟨j, hj, hpj⟩
    · exact absurd hpj hp

/-- POOL FULL has ended, or stands as it stood. -/
theorem FreedBelow.full {n : Nat} {s t : State} (h : FreedBelow p n s t) :
    { t.att.notice 7 with pending := false } = { s.att.notice 7 with pending := false } := by
  by_cases hany : ∃ j < n, p j (s.entry j)
  · rw [h.free hany]
  · rw [h.idle fun j hj hpj => hany ⟨j, hj, hpj⟩]

/-- An entry that `p` names is freed. -/
theorem FreedBelow.change {n : Nat} {s t : State} (h : FreedBelow p n s t) (hn : n < s.guard.pool.length)
    (hp : p n (s.entry n)) : FreedBelow p (n + 1) s (t.changeEntry n Notch.release) := by
  have hlt : n < t.guard.pool.length := h.length ▸ hn
  obtain ⟨hentry, hdue⟩ := h.left n le_rfl
  have hfull : (t.changeEntry n Notch.release).att.notice 7 = { s.att.notice 7 with pending := false } :=
    (changeEntry_notice_free hlt _ rfl).trans h.full
  exact {
    beside := (changeEntry_besidePool ..).trans h.beside
    length := (changeEntry_pool_length ..).trans h.length
    entry := fun j hj => by
      rcases Nat.lt_succ_iff_lt_or_eq.1 hj with hj | rfl
      · rw [changeEntry_entry_ne hlt _ hj.ne]
        exact h.entry j hj
      · rw [changeEntry_entry_same hlt, steppedEntry_congr hentry hdue, if_pos hp]
    left := fun j hj => by
      obtain ⟨hj1, hj2⟩ := h.left j (by omega)
      have hne : j ≠ n := by omega
      exact ⟨(changeEntry_entry_ne hlt _ hne).trans hj1, (changeEntry_mem_todo _ _ _ (by simp [hne])).trans hj2⟩
    due := fun w hw => (changeEntry_mem_todo _ _ _ (hw n)).trans (h.due w hw)
    notice := fun i hi => (changeEntry_notice_ne _ _ _ hi).trans (h.notice i hi)
    idle := fun hall => absurd hp (hall n (Nat.lt_succ_self n))
    free := fun _ => hfull }

/-- Freeing the first entries one after the other, each by its kind, microphone and bin as they stood. -/
theorem freedBelow_foldl (s : State) {n : Nat} (hn : n ≤ s.guard.pool.length) : FreedBelow p n s
    ((List.range n).foldl (fun s k => if p k (s.entry k) then s.changeEntry k Notch.release else s) s) := by
  induction n with
  | zero => exact freedBelow_zero s
  | succ n ih =>
    have h := ih (by omega)
    rw [List.range_succ, List.foldl_append, List.foldl_cons, List.foldl_nil, (h.left n le_rfl).1]
    by_cases hp : p n (s.entry n)
    · rw [if_pos hp]
      exact h.change hn hp
    · rw [if_neg hp]
      exact h.pass hp

end

/-! ### The notch placed (06 R121, R139) -/

/-- The filter stays where it is still on the microphone at the bin, and moves there with depth 0 otherwise. -/
theorem place_eq (kind : NotchKind) (m bin depth hold : Nat) (stamp : Word32) (x : Notch) :
    x.place kind m bin depth hold stamp = ⟨kind, m, bin, depth, hold, stamp,
      if x.filter.engaged = true ∧ x.filter.mic = m ∧ x.filter.bin = bin then
        { x.filter with glide := some ⟨x.filter.depth, depth, 4, 0⟩ }
      else ⟨true, m, bin, 0, some ⟨0, depth, 4, 0⟩, ⟨0, 0, 0, 0, 0⟩, 0, 0, 0, 0⟩⟩ := by
  have hstays : (x.filter.engaged && x.filter.mic == m && x.filter.bin == bin) = true ↔
      x.filter.engaged = true ∧ x.filter.mic = m ∧ x.filter.bin = bin := by
    rw [Bool.and_eq_true, Bool.and_eq_true, beq_iff_eq, beq_iff_eq, and_assoc]
  by_cases h : x.filter.engaged = true ∧ x.filter.mic = m ∧ x.filter.bin = bin
  · rw [if_pos h, Notch.place, hstays.2 h]
    rfl
  · rw [if_neg h, Notch.place, Bool.eq_false_iff.2 (mt hstays.1 h)]
    rfl

/-- A near notch becomes FIXED; its filter glides where its depth changes. -/
theorem fix_eq (bin depth : Nat) (stamp : Word32) (x : Notch) : x.fix bin depth stamp = { x with
    kind := .fixed, bin := bin, depth := depth, hold := 0, stamp := stamp
    filter := { x.filter with
      bin := bin, glide := if x.depth = depth then x.filter.glide else some ⟨x.filter.depth, depth, 4, 0⟩ } } := by
  by_cases h : x.depth = depth
  · rw [Notch.fix, Notch.setDepth, if_pos h, if_pos h, ← h]
  · rw [Notch.fix, setDepth_new h, if_neg h]

/-- A freed entry's filter glides to 0, or leaves at once at depth 0. -/
theorem release_filter (x : Notch) : (0 < x.filter.depth → x.release.filter =
      { x.filter with glide := some ⟨x.filter.depth, 0, 4, 0⟩ })
    ∧ (x.filter.depth = 0 → x.release.filter = { x.filter with glide := none, engaged := false }) :=
  ⟨fun h => if_neg h.ne', fun h => if_pos h⟩

/-! ### The cue, by what it finds (06 R139) -/

/-- CLAMPED for a depth that the cue's clamp changes. -/
def depthClamped (bs : List Byte) : Nat := if max 300 (min 1800 (u16 bs 15)) ≠ u16 bs 15 then 2 ^ 31 else 0

theorem cueFixNotch_range {k : Nat} {bs : List Byte} {s : State} (h : 47 < u8 bs 12 ∨ u16 bs 13 < 2 ∨ 426 < u16 bs 13) :
    cueFixNotch k bs s = s.answer k bs .range 0 := by
  unfold cueFixNotch
  dsimp only
  split_ifs with hm hb
  · rfl
  · rfl
  · rw [Bool.or_eq_true, decide_eq_true_eq, decide_eq_true_eq] at hb
    exact absurd h (not_or.2 ⟨hm, hb⟩)

/-- FIX NOTCH in range, with its clamp in closed form. -/
theorem cueFixNotch_inRange {k : Nat} {bs : List Byte} {s : State} (hm : u8 bs 12 ≤ 47) (hlow : 2 ≤ u16 bs 13)
    (hhigh : u16 bs 13 ≤ 426) : cueFixNotch k bs s =
    let depth := max 300 (min 1800 (u16 bs 15))
    match s.guard.nearNotch (u8 bs 12) (u16 bs 13) with
    | some n => ((s.changeEntry n (Notch.fix (u16 bs 13) depth s.guard.analyses)).freeOthers n (u8 bs 12) (u16 bs 13)).answer k
        bs .done (depthClamped bs)
    | none => match s.guard.findEntry (fun n => n.kind == .free) with
      | some n => (s.changeEntry n (Notch.place .fixed (u8 bs 12) (u16 bs 13) depth 0 s.guard.analyses)).answer k bs .done
          (depthClamped bs)
      | none => match s.victim 0 with
        | some v =>
          let w := (s.displace v).changeEntry v
            (Notch.place .fixed (u8 bs 12) (u16 bs 13) depth 0 (s.displace v).guard.analyses)
          (if w.guard.beta ≠ s.guard.beta then w.requestLive 32 else w).answer k bs .done (depthClamped bs)
        | none => s.answer k bs .full (depthClamped bs) := by
  have hclamp : clamp 300 1800 (u16 bs 15) =
      (((max 300 (min 1800 (u16 bs 15)) : Nat) : ℤ), decide (max 300 (min 1800 (u16 bs 15)) ≠ u16 bs 15)) :=
    clamp_natCast (lo := 300) (hi := 1800) (by decide) (u16 bs 15)
  have hmic : ¬ 47 < u8 bs 12 := by omega
  have hbin : ¬ (decide (u16 bs 13 < 2) || decide (426 < u16 bs 13)) = true := by
    rw [Bool.or_eq_true, decide_eq_true_eq, decide_eq_true_eq]
    omega
  simp only [cueFixNotch, hclamp, if_neg hmic, if_neg hbin, Int.toNat_natCast, clampedBit_decide] <;> rfl

section
variable {k : Nat} {bs : List Byte} {s : State} (hm : u8 bs 12 ≤ 47) (hlow : 2 ≤ u16 bs 13) (hhigh : u16 bs 13 ≤ 426)
include hm hlow hhigh

theorem cueFixNotch_near {i : Nat} (h : s.guard.nearNotch (u8 bs 12) (u16 bs 13) = some i) : cueFixNotch k bs s =
    ((s.changeEntry i (Notch.fix (u16 bs 13) (max 300 (min 1800 (u16 bs 15))) s.guard.analyses)).freeOthers i (u8 bs 12)
      (u16 bs 13)).answer k bs .done (depthClamped bs) := by
  rw [cueFixNotch_inRange hm hlow hhigh, h]

variable (h : s.guard.nearNotch (u8 bs 12) (u16 bs 13) = none)
include h

theorem cueFixNotch_free {i : Nat} (hi : s.guard.findEntry (fun n => n.kind == .free) = some i) : cueFixNotch k bs s =
    (s.changeEntry i (Notch.place .fixed (u8 bs 12) (u16 bs 13) (max 300 (min 1800 (u16 bs 15))) 0 s.guard.analyses)).answer k
      bs .done (depthClamped bs) := by
  rw [cueFixNotch_inRange hm hlow hhigh, h, hi]

variable (hi : ∀ z ∈ s.guard.pool, z.kind ≠ .free)
include hi

theorem cueFixNotch_victim {v : Nat} (hv : s.victim 0 = some v) : cueFixNotch k bs s =
    let w := (s.displace v).changeEntry v
      (Notch.place .fixed (u8 bs 12) (u16 bs 13) (max 300 (min 1800 (u16 bs 15))) 0 s.guard.analyses)
    (if w.guard.beta ≠ s.guard.beta then w.requestLive 32 else w).answer k bs .done (depthClamped bs) := by
  rw [cueFixNotch_inRange hm hlow hhigh, h, findFree_none hi, hv]
  dsimp only
  rw [displace_analyses]

theorem cueFixNotch_full (hv : s.victim 0 = none) : cueFixNotch k bs s = s.answer k bs .full (depthClamped bs) := by
  rw [cueFixNotch_inRange hm hlow hhigh, h, findFree_none hi, hv]

end

/-! ### The near notch fixed and the others freed (06 R139 step 3) -/

/-- An entry that a near notch's fixing frees: another notch of the microphone within ±1 of the bin. -/
abbrev freedBeside (i m bin : Nat) (j : Nat) (z : Notch) : Prop := j ≠ i ∧ z.inUse = true ∧ z.mic = m ∧ near z.bin bin = true

theorem freedBeside_iff {i m bin j : Nat} {z : Notch} :
    freedBeside i m bin j z ↔ j ≠ i ∧ z.kind ≠ .free ∧ z.mic = m ∧ bin ≤ z.bin + 1 ∧ z.bin ≤ bin + 1 := by
  rw [freedBeside, inUse_iff, near_iff, and_comm (a := z.bin ≤ bin + 1)]

/-- Settles O43: what the cue finds decides what it does; the other near notches are freed one after the other. -/
theorem fixNotchPlacesANotch : Obligations.FixNotchPlacesANotch := by
  intro s k h hlen b t m bin depth clamped stepped
  have hx : exec (.fixNotch k) s = .next (cueFixNotch k b t) := exec_of_takeable h
  have hdue (j : Nat) : .depthGlide j ∈ t.todo ↔ .depthGlide j ∈ s.todo := List.mem_erase_of_ne (by simp)
  have hstepped {j : Nat} (hj : j < s.guard.pool.length) : stepped j = t.steppedEntry j :=
    (steppedEntry_eq hj).trans (steppedEntry_congr (s := s) (t := t) rfl (hdue j)).symm
  refine ⟨fun hr => hx.trans (congrArg _ (cueFixNotch_range hr)), fun hm hlow hhigh hfar => ?_,
    fun hm hlow hhigh i hi => ?near⟩
  · have hnear : t.guard.nearNotch m bin = none := nearNotch_none.2 hfar
    refine ⟨fun i x hi hk hbefore => ?free, fun hfixed => ?full, fun v hfull hv => ?victim⟩
    case free =>
      intro f pool
      have hlt : i < s.guard.pool.length := (List.getElem?_eq_some_iff.1 hi).1
      have hpool : t.guard.pool.set i ((t.steppedEntry i).place .fixed m bin depth 0 s.guard.analyses) = pool := by
        rw [place_eq, ← hstepped hlt]
        rfl
      rw [hx, cueFixNotch_free (s := t) hm hlow hhigh hnear (findFree_some hi hk hbefore), changeEntry_eq (s := t) hi, ← hpool]
      rfl
    case full =>
      have hnofree : ∀ z ∈ t.guard.pool, z.kind ≠ .free := fun z hz => by rw [hfixed z hz]; decide
      have hnovictim : t.victim 0 = none := victim_none.2 fun z hz hmay => by
        have hkind := hmay.1
        rw [hfixed z hz] at hkind
        cases hkind
      rw [hx, cueFixNotch_full (s := t) hm hlow hhigh hnear hnofree hnovictim]
      rfl
    case victim =>
      intro w
      have hvt : t.victim 0 = some v := hv
      obtain ⟨y, hy, -⟩ := victim_some hvt
      have hlt : v < (t.displace v).guard.pool.length := by
        rw [displace_pool]
        exact (List.getElem?_eq_some_iff.1 hy).1
      have hw : w.entry v = ((t.displace v).steppedEntry v).place .fixed m bin depth 0 s.guard.analyses :=
        changeEntry_entry_same hlt _
      refine ⟨?_, by rw [hw]; rfl, by rw [hw]; rfl, by rw [hw]; rfl, by rw [hw]; rfl, by rw [hw]; rfl,
        fun j hj => (changeEntry_entry_ne hlt _ hj).trans (displace_entry ..), (changeEntry_beta ..).trans (displace_beta ..)⟩
      rw [hx, cueFixNotch_victim (s := t) hm hlow hhigh hnear hfull hvt]
      rfl
  case near =>
    intro x
    obtain ⟨z, hz, -⟩ := nearNotch_some hi
    have hlt : i < t.guard.pool.length := (List.getElem?_eq_some_iff.1 hz).1
    let u := t.changeEntry i (Notch.fix bin depth s.guard.analyses)
    have hui : u.entry i = x.fix bin depth s.guard.analyses := (changeEntry_entry_same hlt _).trans (by rw [← hstepped hlt])
    have hue {j : Nat} (hj : j ≠ i) : u.entry j = s.entry j := changeEntry_entry_ne hlt _ hj
    have hus {j : Nat} (hj : j ≠ i) (hj' : j < 16) : u.steppedEntry j = stepped j :=
      (steppedEntry_congr (changeEntry_entry_ne hlt _ hj) (changeEntry_mem_todo _ _ _ (by simp [hj]))).trans
        (hstepped (by omega)).symm
    have hfreed : FreedBelow (freedBeside i m bin) 16 u (u.freeOthers i m bin) := by
      have hul : 16 ≤ u.guard.pool.length := by
        rw [changeEntry_pool_length]
        exact hlen.ge
      exact freedBelow_foldl (p := freedBeside i m bin) u hul
    have hmics : (u.freeOthers i m bin).mics = t.mics := hfreed.mics.trans (changeEntry_mics ..)
    have hram : (u.freeOthers i m bin).ram = t.ram := hfreed.ram.trans (changeEntry_ram ..)
    have hbeta : (u.freeOthers i m bin).guard.beta = t.guard.beta := by
      rw [hfreed.guard]
      exact changeEntry_beta ..
    refine ⟨u.freeOthers i m bin, ?_, ?_, fun j hj hji => ?_, hmics, hbeta, hram⟩
    · rw [hx, cueFixNotch_near (s := t) hm hlow hhigh hi]
      rfl
    · rw [hfreed.entry i (lt_of_lt_of_eq hlt hlen), if_neg fun hp => hp.1 rfl, hui, fix_eq]
    · intro y
      have hy : y = u.steppedEntry j := (hus hji hj).symm
      have hnamed : freedBeside i m bin j (u.entry j) ↔ y.kind ≠ .free ∧ y.mic = m ∧ bin ≤ y.bin + 1 ∧ y.bin ≤ bin + 1 := by
        rw [freedBeside_iff, hy, steppedEntry_kind, steppedEntry_mic, steppedEntry_bin]
        exact and_iff_right hji
      rw [hfreed.entry j hj]
      by_cases hp : freedBeside i m bin j (u.entry j)
      · rw [if_pos hp, if_pos (hnamed.1 hp), ← hy]
        exact ⟨rfl, rfl, rfl, rfl, release_filter y⟩
      · rw [if_neg hp, if_neg (mt hnamed.2 hp)]
        exact hue hji

end Sys2Proof.Machine
end

section
/-! PROOFS. CLEAR GUARD (06 R121, R122, R130, R138, R141; log 34). -/

namespace Sys2Proof.Machine

/-! ### Requests for the LIVE slot (04 R79) -/

theorem setCoef_self (s : State) : s.setCoef s.coef = s := by
  simp only [State.setCoef, changedFrom_self, Nat.or_zero]

/-- A request changes the coefficient unit alone. -/
theorem request_setCoef (s : State) (q : Request) : s.request q = s.setCoef (s.request q).coef := by
  unfold State.request
  split <;> rfl

theorem requestLive_setCoef (s : State) (g : Nat) : s.requestLive g = s.setCoef (s.requestLive g).coef := by
  unfold State.requestLive
  split
  · exact request_setCoef ..
  · exact (setCoef_self s).symm

theorem requestLive_some {s : State} {i : Nat} (h : s.live = some i) (g : Nat) :
    s.requestLive g = s.request ⟨i, some g, false, false⟩ := by
  rw [State.requestLive, h]

theorem requestLive_none {s : State} (h : s.live = none) (g : Nat) : s.requestLive g = s := by
  rw [State.requestLive, h]

/-- What a request makes of the coefficient unit hangs on that unit, the frame, beta and the slots. -/
theorem request_coef_congr {s t : State} (hc : t.coef = s.coef) (hf : t.frame = s.frame) (hb : t.guard.beta = s.guard.beta)
    (hs : t.slots = s.slots) (q : Request) : (t.request q).coef = (s.request q).coef := by
  unfold State.request State.startComputation State.slot
  rw [hc, hf, hb, hs]
  split <;> rfl

/-! ### Phi taken back (06 R122, R141) -/

/-- `t` is `s` once the phi of each of the first `n` microphones is 0. -/
structure PhiClearedBelow (n : Nat) (s t : State) : Prop where
  beside : t.besideMics = s.besideMics
  length : t.mics.length = s.mics.length
  mic : ∀ j < n, t.mic j = if (s.mic j).phi = 0 then s.mic j else (s.steppedMic j).withPhi 0
  left : ∀ j, n ≤ j → t.mic j = s.mic j ∧ (.fallbackGlide j ∈ t.todo ↔ .fallbackGlide j ∈ s.todo)

section
variable {n : Nat} {s t : State} (h : PhiClearedBelow n s t)
include h

theorem PhiClearedBelow.guard : t.guard = s.guard := congrArg (·.1) h.beside
theorem PhiClearedBelow.att : t.att = s.att := congrArg (·.2.1) h.beside
theorem PhiClearedBelow.ram : t.ram = s.ram := congrArg (·.2.2.1) h.beside
theorem PhiClearedBelow.slots : t.slots = s.slots := congrArg (·.2.2.2.2.1) h.beside
theorem PhiClearedBelow.coef : t.coef = s.coef := congrArg (·.2.2.2.2.2.1) h.beside
theorem PhiClearedBelow.frame : t.frame = s.frame := congrArg (·.2.2.2.2.2.2.2) h.beside

end

theorem phiClearedBelow_foldl (s : State) {n : Nat} (hn : n ≤ s.mics.length) :
    PhiClearedBelow n s ((List.range n).foldl (fun s m => s.setPhi m 0) s) := by
  induction n with
  | zero => exact ⟨rfl, rfl, fun _ h => absurd h (Nat.not_lt_zero _), fun _ _ => ⟨rfl, Iff.rfl⟩⟩
  | succ n ih =>
    have h := ih (by omega)
    rw [List.range_succ, List.foldl_append, List.foldl_cons, List.foldl_nil]
    obtain ⟨hmic, hdue⟩ := h.left n le_rfl
    refine ⟨(setPhi_besideMics ..).trans h.beside, (setPhi_mics_length ..).trans h.length, fun j hj => ?_, fun j hj => ?_⟩
    · rcases Nat.lt_succ_iff_lt_or_eq.1 hj with hj | rfl
      · rw [setPhi_mic_ne _ _ _ hj.ne]
        exact h.mic j hj
      · rw [setPhi_mic_same (by rw [h.length]; omega), hmic, steppedMic_congr hmic hdue]
    · obtain ⟨hj1, hj2⟩ := h.left j (by omega)
      have hne : j ≠ n := by omega
      exact ⟨(setPhi_mic_ne _ _ _ hne).trans hj1, (setPhi_mem_todo _ _ _ (by simp [hne])).trans hj2⟩

/-! ### Beta taken back (06 R137, R138, R141) -/

/-- Beta becomes 0; where it was above 0 the LIVE slot is requested. -/
def State.dropBeta (s : State) : State := if 0 < s.guard.beta then (s.setBeta 0).requestLive Config.defaultGlide else s

section
variable (s : State)

theorem dropBeta_zero {s : State} (h : s.guard.beta = 0) : s.dropBeta = s := if_neg (by omega)

theorem dropBeta_pos {s : State} (h : 0 < s.guard.beta) : s.dropBeta =
    ((s.setGuard { s.guard with beta := 0 }).setAtt (s.att.judged 13 false 0 s.frame)).setCoef s.dropBeta.coef := by
  have hdrop : s.dropBeta = (s.setBeta 0).requestLive Config.defaultGlide := if_pos h
  rw [hdrop, requestLive_setCoef, setBeta_eq]
  rfl

@[simp] theorem dropBeta_guard : s.dropBeta.guard = { s.guard with beta := 0 } := by
  rcases Nat.eq_zero_or_pos s.guard.beta with h | h
  · rw [dropBeta_zero h, ← h]
  · rw [dropBeta_pos h]
    rfl

@[simp] theorem dropBeta_mics : s.dropBeta.mics = s.mics := by
  rcases Nat.eq_zero_or_pos s.guard.beta with h | h
  · rw [dropBeta_zero h]
  · rw [dropBeta_pos h]
    rfl

@[simp] theorem dropBeta_ram : s.dropBeta.ram = s.ram := by
  rcases Nat.eq_zero_or_pos s.guard.beta with h | h
  · rw [dropBeta_zero h]
  · rw [dropBeta_pos h]
    rfl

theorem dropBeta_notice_ne {i : Nat} (hi : i ≠ 13) : s.dropBeta.att.notice i = s.att.notice i := by
  rcases Nat.eq_zero_or_pos s.guard.beta with h | h
  · rw [dropBeta_zero h]
  · rw [dropBeta_pos h]
    exact judged_notice_ne _ hi _ _ _

variable {s}

theorem dropBeta_notice (h : 0 < s.guard.beta) : s.dropBeta.att.notice 13 = { s.att.notice 13 with pending := false } := by
  rw [dropBeta_pos h]
  exact judged_notice_false s.att 13 0 s.frame

theorem dropBeta_live (h : 0 < s.guard.beta) {i : Nat} (hi : s.live = some i) :
    s.dropBeta.coef = ((s.setGuard { s.guard with beta := 0 }).request ⟨i, some 32, false, false⟩).coef := by
  have hdrop : s.dropBeta = (s.setBeta 0).requestLive Config.defaultGlide := if_pos h
  have hlive : (s.setBeta 0).live = some i := by
    rw [setBeta_eq]
    exact hi
  rw [hdrop, requestLive_some hlive]
  refine request_coef_congr ?_ ?_ ?_ ?_ _ <;>
  · rw [setBeta_eq]
    rfl

theorem dropBeta_coef (h : s.guard.beta = 0 ∨ s.live = none) : s.dropBeta.coef = s.coef := by
  rcases Nat.eq_zero_or_pos s.guard.beta with h0 | h0
  · rw [dropBeta_zero h0]
  · have hlive : s.live = none := h.resolve_left (by omega)
    have hdrop : s.dropBeta = (s.setBeta 0).requestLive Config.defaultGlide := if_pos h0
    rw [hdrop, setBeta_eq, requestLive_none (by exact hlive)]
    rfl

end

/-! ### The cue (06 R141) -/

/-- A fallback word of no attenuation (06 R122). -/
theorem gainWord_zero : gainWord 0 = 8192 := by decide +kernel

theorem withPhi_zero (x : Mic) : x.withPhi 0 = { x with phi := 0, fallbackGlide := some ⟨x.fallbackWord, 8192, 16, 0⟩ } := by
  have hstop : gainWord (-((0 : Nat) : ℤ)) = 8192 := gainWord_zero
  rw [Mic.withPhi, hstop]
  rfl

/-- Every phi is taken back. -/
def State.clearPhi (s : State) : State := (List.range Config.microphones).foldl (fun s m => s.setPhi m 0) s

theorem clearPhi_phiCleared {s : State} (h : s.mics.length = 48) : PhiClearedBelow 48 s s.clearPhi :=
  phiClearedBelow_foldl s (n := Config.microphones) h.ge

/-- Every floating notch is freed. -/
theorem freeFloating_freed {s : State} (h : s.guard.pool.length = 16) :
    FreedBelow (fun _ z => z.kind = .floating) 16 s s.freeFloating :=
  freedBelow_foldl (p := fun _ z => z.kind = .floating) s (n := Config.poolSize) h.ge

/-- The persistence, quiet and device quiet counts become 0. -/
def State.zeroCounts (s : State) : State :=
  (s.setMics (s.mics.map fun x => { x with persistence := 0, quiet := 0 })).setGuard { s.guard with deviceQuiet := 0 }

/-- What CLEAR GUARD leaves of the state before it answers. -/
def State.guardCleared (s : State) : State := s.freeFloating.clearPhi.dropBeta.zeroCounts

theorem cueClearGuard_eq (k : Nat) (bs : List Byte) (s : State) : cueClearGuard k bs s = s.guardCleared.answer k bs .done 0 := by
  unfold cueClearGuard State.guardCleared State.zeroCounts State.dropBeta State.clearPhi
  rfl

section
variable (s : State)

theorem zeroCounts_mic (m : Nat) : s.zeroCounts.mic m = { s.mic m with persistence := 0, quiet := 0 } := by
  show (s.mics.map _).getD m .reset = { s.mics.getD m .reset with persistence := 0, quiet := 0 }
  rw [List.getD_eq_getElem?_getD, List.getD_eq_getElem?_getD, List.getElem?_map]
  cases s.mics[m]? <;> rfl

end

section
variable {s v w : State} (hfreed : FreedBelow (fun _ z => z.kind = .floating) 16 s v) (hphi : PhiClearedBelow 48 v w)
include hfreed hphi

/-- The guard after CLEAR GUARD: the pool with its floating notches freed, beta and the device quiet count 0. -/
theorem cleared_guard : w.dropBeta.zeroCounts.guard = { s.guard with pool := v.guard.pool, beta := 0, deviceQuiet := 0 } := by
  show { w.dropBeta.guard with deviceQuiet := 0 } = _
  rw [dropBeta_guard, hphi.guard, hfreed.guard]

theorem cleared_entry (n : Nat) : w.dropBeta.zeroCounts.entry n = v.entry n := by
  rw [State.entry, State.entry, cleared_guard hfreed hphi]

/-- A microphone after CLEAR GUARD. -/
theorem cleared_mic {m : Nat} (hm : m < 48) : w.dropBeta.zeroCounts.mic m =
    { (if (s.mic m).phi = 0 then s.mic m else (s.steppedMic m).withPhi 0) with persistence := 0, quiet := 0 } := by
  have hvm : v.mic m = s.mic m := by rw [State.mic, State.mic, hfreed.mics]
  have hstep : v.steppedMic m = s.steppedMic m := steppedMic_congr hvm (hfreed.due _ (by simp))
  have hdrop : w.dropBeta.mic m = w.mic m := by rw [State.mic, State.mic, dropBeta_mics]
  rw [zeroCounts_mic, hdrop, hphi.mic m hm, hvm, hstep]

omit hfreed in
theorem cleared_notice_ne {i : Nat} (h : i ≠ 13) : w.dropBeta.zeroCounts.att.notice i = v.att.notice i :=
  (dropBeta_notice_ne w h).trans (congrArg (·.notice i) hphi.att)

theorem cleared_notice (h : 0 < s.guard.beta) :
    w.dropBeta.zeroCounts.att.notice 13 = { s.att.notice 13 with pending := false } := by
  have hbeta : w.guard.beta = s.guard.beta := by rw [hphi.guard, hfreed.guard]
  rw [← hfreed.notice 13 (by decide), ← hphi.att]
  exact dropBeta_notice (hbeta ▸ h)

theorem cleared_live : w.live = s.live := by
  unfold State.live
  rw [hphi.slots, hfreed.slots]

/-- Where beta was above 0 the LIVE slot is requested. -/
theorem cleared_coef_live (h : 0 < s.guard.beta) {i : Nat} (hi : s.live = some i) : w.dropBeta.zeroCounts.coef =
    ((s.setGuard { s.guard with beta := 0 }).request ⟨i, some 32, false, false⟩).coef := by
  have hbeta : w.guard.beta = s.guard.beta := by rw [hphi.guard, hfreed.guard]
  refine (dropBeta_live (hbeta ▸ h) ((cleared_live hfreed hphi).trans hi)).trans ?_
  exact request_coef_congr (s := s.setGuard { s.guard with beta := 0 }) (t := w.setGuard { w.guard with beta := 0 }) (hphi.coef.trans hfreed.coef)
    (hphi.frame.trans hfreed.frame) rfl (hphi.slots.trans hfreed.slots) _

theorem cleared_coef_same (h : s.guard.beta = 0 ∨ s.live = none) : w.dropBeta.zeroCounts.coef = s.coef := by
  have hbeta : w.guard.beta = s.guard.beta := by rw [hphi.guard, hfreed.guard]
  rw [← cleared_live hfreed hphi, ← hbeta] at h
  exact (dropBeta_coef h).trans (hphi.coef.trans hfreed.coef)

end

/-- Settles O45: the floating notches are freed one after the other, then phi, then beta taken back. -/
theorem clearGuardTakesBack : Obligations.ClearGuardTakesBack := by
  intro s k h hmics hpool
  have hx : exec (.clearGuard k) s = .next (cueClearGuard k (cueBytes s.ram k) (s.took k)) := exec_of_takeable h
  have hfreed : FreedBelow _ 16 (s.took k) (s.took k).freeFloating := freeFloating_freed hpool
  have hphi : PhiClearedBelow 48 (s.took k).freeFloating (s.took k).freeFloating.clearPhi :=
    clearPhi_phiCleared ((congrArg List.length hfreed.mics).trans hmics)
  have hrun : exec (.clearGuard k) s = .next ((s.took k).freeFloating.clearPhi.dropBeta.zeroCounts.answer k
      (cueBytes s.ram k) .done 0) := by rw [hx, cueClearGuard_eq, State.guardCleared]
  generalize (s.took k).freeFloating.clearPhi = w at hphi hrun
  generalize (s.took k).freeFloating = v at hfreed hphi
  have hguard := cleared_guard hfreed hphi
  have hentry (n : Nat) (hn : n < 16) : w.dropBeta.zeroCounts.entry n =
      if (s.entry n).kind = .floating then (s.steppedEntry n).release else s.entry n := by
    have hstep : (s.took k).steppedEntry n = s.steppedEntry n :=
      steppedEntry_congr rfl (List.mem_erase_of_ne (by simp))
    rw [cleared_entry hfreed hphi, hfreed.entry n hn, hstep]
    rfl
  have hmic (m : Nat) (hm : m < 48) : w.dropBeta.zeroCounts.mic m =
      { (if (s.mic m).phi = 0 then s.mic m else (s.steppedMic m).withPhi 0) with persistence := 0, quiet := 0 } := by
    have hstep : (s.took k).steppedMic m = s.steppedMic m := steppedMic_congr rfl (List.mem_erase_of_ne (by simp))
    rw [cleared_mic hfreed hphi hm, hstep]
    rfl
  have hlen : w.dropBeta.zeroCounts.mics.length = 48 := by
    show (w.dropBeta.mics.map _).length = 48
    rw [List.length_map, dropBeta_mics, hphi.length, hfreed.mics]
    exact hmics
  have hram : w.dropBeta.zeroCounts.ram = (s.took k).ram :=
    (dropBeta_ram w).trans (hphi.ram.trans hfreed.ram)
  refine ⟨w.dropBeta.zeroCounts, hrun, fun n hn hk => ?_, fun n hn hk => ?_, fun x hx => ?_, fun m hm => ?_, by rw [hguard],
    by rw [hguard], by rw [hguard]; rfl, by rw [hguard]; rfl, hram, fun n hn hk => ?_, fun m hm => ?_,
    fun i hb hi => (cleared_coef_live hfreed hphi hb hi).trans ?_, cleared_coef_same (s := s.took k) hfreed hphi,
    cleared_notice (s := s.took k) hfreed hphi,
    fun ⟨n, hn, hk⟩ => (cleared_notice_ne hphi (by decide)).trans (hfreed.free ⟨n, hn, hk⟩),
    fun i h7 h13 => (cleared_notice_ne hphi h13).trans (hfreed.notice i h7)⟩
  · rw [hentry n hn, if_pos hk]
    rfl
  · rw [hentry n hn, if_neg hk]
  · obtain ⟨m, hm, rfl⟩ := List.getElem_of_mem hx
    have hget := mic_of_getElem? (List.getElem?_eq_getElem hm)
    rw [← hget, hmic m (hlen ▸ hm)]
    dsimp only
    split
    · exact ⟨‹_›, rfl, rfl⟩
    · exact ⟨rfl, rfl, rfl⟩
  · rw [hmic m hm]
    dsimp only
    split
    · exact ⟨rfl, rfl, rfl, rfl⟩
    · rw [steppedMic_rest]
      exact ⟨rfl, rfl, rfl, rfl⟩
  · intro x
    have hx : x = s.steppedEntry n := steppedEntry_eq (by omega)
    rw [hentry n hn, if_pos hk, hx]
    rfl
  · intro x
    have hx : x = s.steppedMic m := steppedMic_eq (by omega)
    rw [hmic m hm]
    refine ⟨fun hp => ?_, fun hp => ?_⟩
    · rw [if_neg hp, withPhi_zero, hx]
      exact ⟨rfl, rfl⟩
    · rw [if_pos hp]
      exact ⟨rfl, rfl⟩
  · exact request_coef_congr (s := s.setGuard { s.guard with beta := 0 })
      (t := (s.took k).setGuard { s.guard with beta := 0 }) rfl rfl rfl rfl _

end Sys2Proof.Machine
end

section
/-! PROOFS. Stages 5 to 8 of an analysis: holds, quiet counts, the device quiet count and the request for beta (06 R126, R135
to R138). -/

namespace Sys2Proof.Machine

/-! ### Stage 5 (06 R135) -/

/-- No candidate of the notch's microphone is within ±1 of its bin. -/
def State.undisturbed (s : State) (x : Notch) : Prop :=
  ∀ c, s.candidate x.mic = some c → ¬ (c ≤ x.bin + 1 ∧ x.bin ≤ c + 1)

theorem undisturbed_iff {s : State} {x : Notch} :
    s.undisturbed x ↔ ((s.candidate x.mic).any fun b => near b x.bin) = false := by
  unfold State.undisturbed
  rw [Bool.eq_false_iff, ne_eq, Option.any_eq_true]
  simp only [near_iff, not_exists, not_and]

/-- Stage 5 looks at the kind, the hold and the bin of a notch, which no step of its glide changes. -/
theorem undisturbed_stepped (s : State) (n : Nat) : s.undisturbed (s.steppedEntry n) ↔ s.undisturbed (s.entry n) := by
  rw [State.undisturbed, State.undisturbed, steppedEntry_mic, steppedEntry_bin]

section
variable {s : State} {n : Nat}

theorem holdStep_left (h : ¬ ((s.entry n).kind = .floating ∧ s.undisturbed (s.entry n))) : s.holdStep n = s := by
  refine if_neg fun hc => h ?_
  rw [Bool.and_eq_true, decide_eq_true_eq, Bool.not_eq_true'] at hc
  exact ⟨hc.1, undisturbed_iff.2 hc.2⟩

variable (hk : (s.entry n).kind = .floating) (hq : s.undisturbed (s.entry n))
include hk hq

/-- The hold of a floating notch that nothing disturbs, by how far it has come. -/
theorem holdStep_floating : s.holdStep n =
    if 1 < (s.entry n).hold then s.changeEntry n fun x => { x with hold := x.hold - 1 }
    else if 300 < (s.entry n).depth then
      s.changeEntry n fun x => { x.setDepth (x.depth - 300) with hold := s.guard.settings.hold }
    else s.changeEntry n Notch.release := by
  refine if_pos ?_
  rw [hk, undisturbed_iff.1 hq]
  rfl

theorem holdStep_counts (hh : 1 < (s.entry n).hold) :
    s.holdStep n = s.changeEntry n fun x => { x with hold := x.hold - 1 } := by
  rw [holdStep_floating hk hq, if_pos hh]

variable (hh : (s.entry n).hold ≤ 1)
include hh

theorem holdStep_shallower (hd : 300 < (s.entry n).depth) : s.holdStep n =
    s.changeEntry n fun x => { x.setDepth (x.depth - 300) with hold := s.guard.settings.hold } := by
  rw [holdStep_floating hk hq, if_neg (Nat.not_lt.2 hh), if_pos hd]

theorem holdStep_freed (hd : (s.entry n).depth ≤ 300) : s.holdStep n = s.changeEntry n Notch.release := by
  rw [holdStep_floating hk hq, if_neg (Nat.not_lt.2 hh), if_neg (Nat.not_lt.2 hd)]

end

/-- NOTCH_HOLD_EXPIRY is stage 5 of a floating notch whose hold has come to its end. -/
theorem exec_notchHoldExpiry {s : State} {n : Nat} (hn : n < 16) (h : s.stageDue (.hold n)) (hk : (s.entry n).kind = .floating)
    (hh : (s.entry n).hold ≤ 1) : exec (.notchHoldExpiry n) s = .next ((s.doing (.hold n)).holdStep n) := by
  refine (forUnit_of h.1 (decide_eq_true hn) _).trans (congrArg _ ?_)
  rw [hk, decide_eq_true hh]
  exact doWork_of_stageDue h

/-! ### Stage 6 (06 R136) -/

section
variable {s : State} {m : Nat} {p : Progress}

theorem countsQuiet_iff (hp : s.guard.progress = some p) : s.countsQuiet m = true ↔ m ∉ p.touched := by
  rw [State.countsQuiet, hp]
  simp

/-- Below the recovery interval the quiet count grows, or stays. -/
theorem quietStep_counts {q : Nat} (hq : (s.mic m).quiet + bit (s.countsQuiet m) = q) (h : q < s.guard.settings.recovery) :
    s.quietStep m = s.onMic m fun x => { x with quiet := q } := by
  subst hq
  exact if_neg (Nat.not_le.2 h)

/-- At the recovery interval phi recovers, and the count is 0 again. -/
theorem quietStep_recovers (h : s.guard.settings.recovery ≤ (s.mic m).quiet + bit (s.countsQuiet m)) :
    s.quietStep m = (s.setPhi m ((s.mic m).phi - 100)).onMic m fun x => { x with quiet := 0 } := if_pos h

/-- A new phi and a new quiet count in one update: the new phi shows in the mirror. -/
theorem setPhi_quiet {v : Nat} (hm : m < s.mics.length) (hv : (s.mic m).phi ≠ v) :
    ((s.setPhi m v).onMic m fun x => { x with quiet := 0 }) =
      (s.doing (.fallbackGlide m)).setMics (s.mics.set m { (s.steppedMic m).withPhi v with quiet := 0 }) := by
  have hset : (s.mics.set m ((s.steppedMic m).withPhi v))[m]? = some ((s.steppedMic m).withPhi v) := List.getElem?_set_self hm
  rw [setPhi_new hm hv, onMic_eq (s := State.setMics _ _) hset, State.setMics_mics, List.set_set]
  refine setMics_setMics (s := s.doing _) (List.length_set ..) (List.length_set ..) fun i x y z hx hy hz hmirror => ?_
  by_cases hi : m = i
  · subst hi
    rw [List.getElem?_set_self (by exact hm)] at hz
    have hxm : x = s.mic m := (mic_of_getElem? (s := s) hx).symm
    have hphi : x.phi = z.phi := congrArg (·.2.2.1) hmirror
    rw [← Option.some.inj hz, hxm] at hphi
    exact absurd hphi hv
  · rw [List.getElem?_set_ne hi] at hy
    exact congrArg Mic.mirrored (Option.some.inj (hx.symm.trans hy))

end

/-- PHI_RECOVERY is stage 6 of a microphone at its recovery interval. -/
theorem exec_phiRecovery {s : State} {m : Nat} (hm : m < 48) (h : s.stageDue (.quiet m))
    (hr : s.guard.settings.recovery ≤ (s.mic m).quiet + 1) :
    exec (.phiRecovery m) s = .next ((s.doing (.quiet m)).quietStep m) := by
  refine (forUnit_of h.1 (decide_eq_true hm) _).trans (congrArg _ ?_)
  rw [decide_eq_true hr]
  exact doWork_of_stageDue h

/-! ### Stages 7 and 8 (06 R137, R138) -/

section
variable {s : State} {p : Progress} (hp : s.guard.progress = some p)
include hp

theorem deviceQuietStep_confirmed (hc : p.confirmed = true) :
    s.deviceQuietStep = s.setGuard { s.guard with deviceQuiet := 0 } :=
  if_pos (by rw [hp]; exact hc)

theorem deviceQuietStep_counts (hc : p.confirmed = false) (h : s.guard.deviceQuiet + 1 < s.guard.settings.recovery) :
    s.deviceQuietStep = s.setGuard { s.guard with deviceQuiet := s.guard.deviceQuiet + 1 } := by
  rw [State.deviceQuietStep, hp, Option.any_some, hc, if_neg Bool.false_ne_true, if_neg (Nat.not_le.2 h)]

/-- At the recovery interval beta recovers, and BACK-OFF ACTIVE follows. -/
theorem deviceQuietStep_recovers (hc : p.confirmed = false) (h : s.guard.settings.recovery ≤ s.guard.deviceQuiet + 1) :
    s.deviceQuietStep = (s.setGuard { s.guard with deviceQuiet := 0, beta := s.guard.beta - 5 }).judge .backOffActive
      (5 < s.guard.beta) (s.guard.beta - 5) := by
  have hpos : decide (0 < s.guard.beta - 5) = decide (5 < s.guard.beta) := decide_eq_decide.2 Nat.sub_pos_iff_lt
  rw [State.deviceQuietStep, hp, Option.any_some, hc, if_neg Bool.false_ne_true, if_pos h, State.setBeta, hpos]
  exact congrArg (State.judge · _ _ _) (setGuard_setGuard (s := s) (g := { s.guard with deviceQuiet := 0 }) rfl rfl _)

/-- A beta other than at the analysis's start requests the LIVE slot; the analysis is over. -/
theorem betaRequestStep_eq : s.betaRequestStep =
    (match s.live with
      | some k => if p.betaStart ≠ s.guard.beta then s.request ⟨k, some 32, false, false⟩ else s
      | none => s).setGuard { s.guard with progress := none } := by
  have hguard (t : State) (ht : t.guard = s.guard) : t.setGuard { t.guard with progress := none } =
      t.setGuard { s.guard with progress := none } := by rw [ht]
  have hstart : (s.guard.progress.any fun p => p.betaStart != s.guard.beta) = true ↔ p.betaStart ≠ s.guard.beta := by
    rw [hp]
    exact bne_iff_ne
  unfold State.betaRequestStep
  by_cases hb : p.betaStart ≠ s.guard.beta
  · rw [if_pos (hstart.2 hb)]
    cases hl : s.live with
    | none =>
      rw [requestLive_none hl]
    | some k =>
      rw [requestLive_some hl]
      dsimp only
      rw [if_pos hb]
      refine hguard _ ?_
      rw [request_setCoef]
      rfl
  · rw [if_neg (mt hstart.1 hb)]
    cases hl : s.live with
    | none => rfl
    | some k =>
      dsimp only
      rw [if_neg hb]

end

/-- Settles O48: each stage by what it does to one unit, and each row as its stage. -/
theorem theGuardRecovers : Obligations.TheGuardRecovers := by
  intro s hpool hmics
  refine ⟨fun n hn => ?holds, fun m x p hm hx hp => ?quiets, fun p hp => ?device⟩
  case holds =>
    intro x quiet after
    have hlt : n < s.guard.pool.length := by omega
    have hx : x = s.steppedEntry n := steppedEntry_eq hlt
    have hkind : x.kind = (s.entry n).kind := by rw [hx, steppedEntry_kind]
    have hhold : x.hold = (s.entry n).hold := by rw [hx, steppedEntry_hold]
    have hdepth : x.depth = (s.entry n).depth := by rw [hx, steppedEntry_depth]
    have hquiet : quiet ↔ s.undisturbed (s.entry n) := by rw [← undisturbed_stepped, ← hx]; rfl
    have hafter (f : Notch → Notch) : s.changeEntry n f = after s (f x) := by
      rw [changeEntry_eq (getElem?_entry hlt), ← hx]
      rfl
    refine ⟨fun h hf hh => ?_, fun hf hh hq => ?_, fun hnot => ?_⟩
    · intro u
      have hu (f : Notch → Notch) : u.changeEntry n f = after u (f x) := by
        have hdue : .depthGlide n ∈ u.todo ↔ .depthGlide n ∈ s.todo := List.mem_erase_of_ne (by simp)
        have hstep : u.steppedEntry n = x := (steppedEntry_congr (s := s) (t := u) rfl hdue).trans hx.symm
        rw [changeEntry_eq (s := u) (getElem?_entry hlt), hstep]
        rfl
      have hrow := exec_notchHoldExpiry hn h (hkind ▸ hf) (hhold ▸ hh)
      refine ⟨fun hq => ?_, fun hq hd => ?_, fun hq hd => ?_⟩
      · rw [hrow]
        exact congrArg _ (holdStep_left (s := u) fun hc => hq (hquiet.2 hc.2))
      · have hset : x.setDepth (x.depth - 300) = { x with
            depth := x.depth - 300
            filter := { x.filter with glide := some ⟨x.filter.depth, ((x.depth - 300 : Nat) : ℤ), 4, 0⟩ } } :=
          setDepth_new (by omega)
        rw [hrow, holdStep_shallower (s := u) (hkind ▸ hf) (hquiet.1 hq) (hhold ▸ hh) (hdepth ▸ hd), hu, hset]
        rfl
      · rw [hrow, holdStep_freed (s := u) (hkind ▸ hf) (hquiet.1 hq) (hhold ▸ hh) (hdepth ▸ hd), hu]
        rfl
    · exact (holdStep_counts (hkind ▸ hf) (hquiet.1 hq) (hhold ▸ hh)).trans (hafter _)
    · exact holdStep_left fun hc => hnot ⟨hkind.trans hc.1, hquiet.2 hc.2⟩
  case quiets =>
    intro y
    have hlt : m < s.mics.length := by omega
    have hxm : s.mic m = x := mic_of_getElem? hx
    have hy : y = s.steppedMic m := by
      rw [← steppedMic_eq hlt, hxm]
    refine ⟨fun h hnot hr => ?_, fun hnot hr => ?_, fun hin hz hr => ?_⟩
    · have hcount : (s.mic m).quiet + bit (s.countsQuiet m) = x.quiet + 1 := by
        rw [(countsQuiet_iff hp).2 hnot, hxm]
        rfl
      have hrow := exec_phiRecovery hm h (hxm ▸ hr)
      rw [quietStep_recovers (s := s.doing _) (hr.trans_eq hcount.symm)] at hrow
      refine ⟨fun hphi => ?_, fun hphi => ?_⟩
      · have hsame : ((s.doing (.quiet m)).mic m).phi = ((s.doing (.quiet m)).mic m).phi - 100 := by
          show (s.mic m).phi = (s.mic m).phi - 100
          rw [hxm, hphi]
        rw [hrow, setPhi_same hsame, onMic_eq (s := s.doing _) hx]
        rfl
      · have hnew : ((s.doing (.quiet m)).mic m).phi ≠ ((s.doing (.quiet m)).mic m).phi - 100 := by
          show (s.mic m).phi ≠ (s.mic m).phi - 100
          rw [hxm]
          omega
        have hdue : .fallbackGlide m ∈ (s.doing (.quiet m)).todo ↔ .fallbackGlide m ∈ s.todo := List.mem_erase_of_ne (by simp)
        have hstep : (s.doing (.quiet m)).steppedMic m = y := (steppedMic_congr (s := s) (t := s.doing _) rfl hdue).trans hy.symm
        have hold : (s.doing (.quiet m)).mic m = x := hxm
        rw [hrow, setPhi_quiet (s := s.doing _) hlt hnew, hstep, hold]
        rfl
    · have hcount : (s.mic m).quiet + bit (s.countsQuiet m) = x.quiet + 1 := by
        rw [(countsQuiet_iff hp).2 hnot, hxm]
        rfl
      exact (quietStep_counts hcount hr).trans (onMic_eq hx _)
    · have hcount : (s.mic m).quiet + bit (s.countsQuiet m) = 0 := by
        rw [Bool.eq_false_iff.2 fun hc => (countsQuiet_iff hp).1 hc hin, hxm, hz]
        rfl
      have hself : { x with quiet := 0 } = x := by rw [← hz]
      refine (quietStep_counts hcount hr).trans ((onMic_eq hx _).trans ?_)
      obtain ⟨hlt', hget⟩ := List.getElem?_eq_some_iff.1 hx
      rw [hself, ← hget, List.set_getElem_self]
      exact setMics_self s
  case device =>
    refine ⟨fun h hc hr => ?_, deviceQuietStep_counts hp, deviceQuietStep_confirmed hp, betaRequestStep_eq hp⟩
    refine (released_of h.1 _).trans (congrArg _ ?_)
    rw [decide_eq_true hr]
    exact (doWork_of_stageDue h).trans (deviceQuietStep_recovers (s := s.doing _) hp hc hr)

end Sys2Proof.Machine
end

section
/-! PROOFS. The lane receivers: hunting, framing, whole lane frames, takes (07 R144 to R147; logs 19, 31). -/

namespace Sys2Proof.Machine

/-! ### Bits read as a number -/

/-- One bit more of a number, most significant first. -/
def shiftIn (n : Nat) (b : Bool) : Nat := 2 * n + if b then 1 else 0

theorem shiftIn_eq (n : Nat) (b : Bool) : 2 * n + bit b = shiftIn n b := rfl

/-- The bits that come after leave those before as the high part. -/
theorem foldl_shiftIn (bits : List Bool) (v : Nat) :
    bits.foldl shiftIn v = v * 2 ^ bits.length + bits.foldl shiftIn 0 ∧ bits.foldl shiftIn 0 < 2 ^ bits.length := by
  induction bits generalizing v with
  | nil => simp
  | cons b bits ih =>
    obtain ⟨hb, hlt⟩ := ih (shiftIn 0 b)
    rw [List.foldl_cons, List.foldl_cons, (ih (shiftIn v b)).1, hb, List.length_cons, pow_succ]
    have hbit : shiftIn 0 b ≤ 1 := by cases b <;> decide
    have hv : shiftIn v b = 2 * v + shiftIn 0 b := by simp [shiftIn]
    refine ⟨by rw [hv]; ring, ?_⟩
    have hle : shiftIn 0 b * 2 ^ bits.length ≤ 1 * 2 ^ bits.length := Nat.mul_le_mul_right _ hbit
    omega

/-- The first bits of a longer run are its high part. -/
theorem foldl_shiftIn_div (bits : List Bool) (n : Nat) :
    bits.foldl shiftIn 0 / 2 ^ (bits.length - n) = (bits.take n).foldl shiftIn 0 := by
  obtain ⟨hsplit, hlt⟩ := foldl_shiftIn (bits.drop n) ((bits.take n).foldl shiftIn 0)
  have hwhole : bits.foldl shiftIn 0 = (bits.drop n).foldl shiftIn ((bits.take n).foldl shiftIn 0) := by
    rw [← List.foldl_append, List.take_append_drop]
  rw [List.length_drop] at hsplit hlt
  rw [hwhole, hsplit, Nat.add_comm, Nat.add_mul_div_right _ _ (Nat.two_pow_pos _), Nat.div_eq_of_lt hlt, Nat.zero_add]

/-! ### One bit (07 R145) -/

section
variable {l : InputLane} {n v : Nat}

theorem receive_hunting (h : l.framing = .hunting n v) (b : Bool) : l.receive b =
    if 23 ≤ n ∧ shiftIn v b % 2 ^ 24 = 0x9E2B47 then { l with framing := .framed 24 0x9E2B47, count := 1 }
    else { l with framing := .hunting (min 24 (n + 1)) (shiftIn v b % 2 ^ 24) } := by
  have hfound : (decide (24 ≤ n + 1) && shiftIn v b % 16777216 == Config.syncWord) = true ↔
      23 ≤ n ∧ shiftIn v b % 2 ^ 24 = 0x9E2B47 := by
    rw [Bool.and_eq_true, decide_eq_true_eq, beq_iff_eq]
    exact and_congr_left' (by omega)
  rw [InputLane.receive, h]
  dsimp only
  rw [shiftIn_eq]
  by_cases hs : 23 ≤ n ∧ shiftIn v b % 2 ^ 24 = 0x9E2B47
  · have hv : shiftIn v b % 16777216 = 0x9E2B47 := hs.2
    rw [if_pos hs, if_pos (hfound.2 hs), hv]
  · rw [if_neg hs, if_neg (mt hfound.1 hs)]
    rfl

theorem receive_framed (h : l.framing = .framed n v) (hn : n ≠ 23) (hl : n < 215) (b : Bool) :
    l.receive b = { l with framing := .framed (n + 1) (shiftIn v b) } := by
  have hframe : ¬ Config.laneFrameBits ≤ n + 1 := by
    show ¬ 216 ≤ n + 1
    omega
  rw [InputLane.receive, h]
  dsimp only
  rw [if_neg (by omega), if_neg hframe, shiftIn_eq]

theorem receive_syncEnd (h : l.framing = .framed 23 v) (b : Bool) :
    l.receive b = { l with framing := .framed 24 (shiftIn v b) }.judgeSync (shiftIn v b == 0x9E2B47) := by
  rw [InputLane.receive, h]
  rfl

theorem receive_frameEnd (h : l.framing = .framed 215 v) (b : Bool) :
    l.receive b = { l with framing := .framed 0 0 }.enter (.ofBits (shiftIn v b)) := by
  rw [InputLane.receive, h]
  rfl

/-- Bits within the sync word, or within the samples, are counted and kept. -/
theorem foldl_receive_framed (bits : List Bool) : ∀ {l : InputLane} {n v : Nat}, l.framing = .framed n v →
    n + bits.length < 24 ∨ (24 ≤ n ∧ n + bits.length < 216) →
    bits.foldl InputLane.receive l = { l with framing := .framed (n + bits.length) (bits.foldl shiftIn v) } := by
  induction bits with
  | nil =>
    intro l n v h _
    show l = { l with framing := .framed n v }
    rw [← h]
  | cons b bits ih =>
    intro l n v h hin
    rw [List.length_cons] at hin
    rw [List.foldl_cons, receive_framed h (by omega) (by omega), ih (n := n + 1) (v := shiftIn v b) rfl (by omega),
      List.length_cons, List.foldl_cons, Nat.add_right_comm, Nat.add_assoc]

/-- The 24 bits of a sync word are judged at the last. -/
theorem foldl_receive_sync (h : l.framing = .framed 0 0) {bits : List Bool} (hl : bits.length = 24) :
    bits.foldl InputLane.receive l = { l with framing := .framed 24 (bits.foldl shiftIn 0) }.judgeSync
      (bits.foldl shiftIn 0 == 0x9E2B47) := by
  have hne : bits ≠ [] := by rintro rfl; simp at hl
  have hinit : bits.dropLast.length = 23 := by rw [List.length_dropLast, hl]
  rw [← List.dropLast_append_getLast hne, List.foldl_append, foldl_receive_framed _ h (by omega), hinit, List.foldl_append,
    List.foldl_cons, List.foldl_nil, List.foldl_cons, List.foldl_nil, receive_syncEnd rfl]

/-- The 192 bits of the samples enter the store with the last. -/
theorem foldl_receive_samples {w : Nat} (h : l.framing = .framed 24 w) {bits : List Bool} (hl : bits.length = 192) :
    bits.foldl InputLane.receive l = { l with framing := .framed 0 0 }.enter (.ofBits (bits.foldl shiftIn w)) := by
  have hne : bits ≠ [] := by rintro rfl; simp at hl
  have hinit : bits.dropLast.length = 191 := by rw [List.length_dropLast, hl]
  rw [← List.dropLast_append_getLast hne, List.foldl_append, foldl_receive_framed _ h (by omega), hinit, List.foldl_append,
    List.foldl_cons, List.foldl_nil, List.foldl_cons, List.foldl_nil, receive_frameEnd rfl]

end

/-! ### Hunting (07 R145; log 19) -/

/-- The last 24 of the first `k` bits, as a number. -/
def lastBits (bits : List Bool) (k : Nat) : Nat := (bits.take k).foldl shiftIn 0 % 2 ^ 24

theorem lastBits_concat_old {bits : List Bool} {k : Nat} (h : k ≤ bits.length) (b : Bool) :
    lastBits (bits ++ [b]) k = lastBits bits k := by
  rw [lastBits, lastBits, List.take_append_of_le_length h]

theorem lastBits_concat (bits : List Bool) (b : Bool) :
    lastBits (bits ++ [b]) (bits ++ [b]).length = shiftIn (lastBits bits bits.length) b % 2 ^ 24 := by
  rw [lastBits, lastBits, List.take_length, List.take_length, List.foldl_append, List.foldl_cons, List.foldl_nil, shiftIn, shiftIn]
  omega

/-- A receiver that has found no sync word before the last bit finds it there, or hunts on. -/
theorem foldl_receive_hunting {l : InputLane} (h : l.framing = .hunting 0 0) (bits : List Bool)
    (hno : ∀ k < bits.length, 24 ≤ k → lastBits bits k ≠ 0x9E2B47) : bits.foldl InputLane.receive l =
      if 24 ≤ bits.length ∧ lastBits bits bits.length = 0x9E2B47 then { l with framing := .framed 24 0x9E2B47, count := 1 }
      else { l with framing := .hunting (min 24 bits.length) (lastBits bits bits.length) } := by
  induction bits using List.reverseRecOn with
  | nil =>
    rw [if_neg (by simp)]
    show l = { l with framing := .hunting 0 0 }
    rw [← h]
  | append_singleton bits b ih =>
    have hlen : (bits ++ [b]).length = bits.length + 1 := by simp
    have hbefore : ∀ k < bits.length, 24 ≤ k → lastBits bits k ≠ 0x9E2B47 := fun k hk hk' => by
      rw [← lastBits_concat_old hk.le b]
      exact hno k (by omega) hk'
    have hnow : ¬ (24 ≤ bits.length ∧ lastBits bits bits.length = 0x9E2B47) := fun ⟨hk, he⟩ => by
      rw [← lastBits_concat_old le_rfl b] at he
      exact hno _ (by omega) hk he
    rw [List.foldl_append, ih hbefore, if_neg hnow, List.foldl_cons, List.foldl_nil, receive_hunting rfl, ← lastBits_concat, hlen]
    have hseen : 23 ≤ min 24 bits.length ↔ 24 ≤ bits.length + 1 := by omega
    have hmin : min 24 (min 24 bits.length + 1) = min 24 (bits.length + 1) := by omega
    simp only [hseen, hmin]

/-! ### Whole lane frames (07 R144 to R146) -/

section
variable {l : InputLane} {bits : List Bool}

/-- A sync word at a lane's framing, by the lane's state and its count. -/
theorem judgeSync_locked_good (hk : l.locked = true) : l.judgeSync true = { l with count := 0 } := by
  rw [InputLane.judgeSync, if_pos hk]
  rfl

theorem judgeSync_locked_first (hk : l.locked = true) (hc : l.count = 0) : l.judgeSync false = { l with count := 1 } := by
  rw [InputLane.judgeSync, if_pos hk, if_neg Bool.false_ne_true, if_neg (by omega), hc]

theorem judgeSync_locked_second (hk : l.locked = true) (hc : 0 < l.count) :
    l.judgeSync false = ⟨false, 0, .hunting 0 0, [], none, true⟩ := by
  rw [InputLane.judgeSync, if_pos hk, if_neg Bool.false_ne_true, if_pos (by omega)]
  rfl

theorem judgeSync_seeking_fourth (hk : l.locked = false) (hc : l.count = 3) :
    l.judgeSync true = { l with locked := true, count := 0, lastGood := none } := by
  rw [InputLane.judgeSync, if_neg (Bool.eq_false_iff.1 hk), if_pos rfl, if_pos (by omega)]

theorem judgeSync_seeking_good (hk : l.locked = false) (hc : l.count < 3) :
    l.judgeSync true = { l with count := l.count + 1 } := by
  rw [InputLane.judgeSync, if_neg (Bool.eq_false_iff.1 hk), if_pos rfl, if_neg (by omega)]

theorem judgeSync_seeking_bad (hk : l.locked = false) :
    l.judgeSync false = { l with count := 0, framing := .hunting 0 0 } := by
  rw [InputLane.judgeSync, if_neg (Bool.eq_false_iff.1 hk), if_neg Bool.false_ne_true]
  rfl

theorem enter_locked (hk : l.locked = true) (hs : l.store.length ≤ 4) (f : LaneFrame) :
    l.enter f = { l with store := (if l.store.length = 4 then l.store.drop 1 else l.store) ++ [f] } := by
  have hdrop : l.store.drop (l.store.length + 1 - Config.storeDepth) = if l.store.length = 4 then l.store.drop 1 else l.store := by
    split
    · rename_i h4
      rw [h4]
      rfl
    · have hzero : l.store.length + 1 - Config.storeDepth = 0 := by
        show l.store.length + 1 - 4 = 0
        omega
      rw [hzero]
      rfl
  rw [InputLane.enter, if_pos hk, hdrop]

theorem enter_seeking (hk : l.locked = false) (f : LaneFrame) : l.enter f = l := if_neg (Bool.eq_false_iff.1 hk)

/-- A whole lane frame's sync word is judged, then its samples are received. -/
theorem foldl_receive_frame (h : l.framing = .framed 0 0) (hl : bits.length = 216) : bits.foldl InputLane.receive l =
    (bits.drop 24).foldl InputLane.receive ({ l with framing := .framed 24 ((bits.take 24).foldl shiftIn 0) }.judgeSync
      ((bits.take 24).foldl shiftIn 0 == 0x9E2B47)) := by
  rw [← foldl_receive_sync h (by rw [List.length_take, hl]; rfl), ← List.foldl_append, List.take_append_drop]

/-- The samples of a lane that keeps its framing enter its store. -/
theorem foldl_receive_rest {l' : InputLane} (h : l'.framing = .framed 24 ((bits.take 24).foldl shiftIn 0))
    (hl : bits.length = 216) : (bits.drop 24).foldl InputLane.receive l' =
      { l' with framing := .framed 0 0 }.enter ⟨(bits.take 24).foldl shiftIn 0 == 0x9E2B47, frameSamples (bits.foldl shiftIn 0)⟩ := by
  have hrest : (bits.drop 24).length = 192 := by rw [List.length_drop, hl]
  have hsync := foldl_shiftIn_div bits 24
  rw [hl] at hsync
  rw [foldl_receive_samples h hrest, ← List.foldl_append, List.take_append_drop, LaneFrame.ofBits]
  rw [← hsync]
  rfl

end

/-! ### Takes (07 R146, R147; log 31) -/

theorem take_seeking {l : InputLane} (h : l.locked = false) : l.take = (silentFrame, l) := if_neg (Bool.eq_false_iff.1 h)

theorem take_frame {l : InputLane} (h : l.locked = true) {f : LaneFrame} {rest : List LaneFrame} (hs : l.store = f :: rest) :
    l.take = if f.good = true then (f.samples, { l with store := rest, lastGood := some f.samples })
      else (l.lastGood.getD silentFrame, { l with store := rest }) := by
  rw [InputLane.take, if_pos h, hs]

theorem take_empty {l : InputLane} (h : l.locked = true) (hs : l.store = []) : l.take =
    (if (l.judgeSync false).locked = true then l.lastGood.getD silentFrame else silentFrame, l.judgeSync false) := by
  rw [InputLane.take, if_pos h, hs]

theorem takeLanes_eq (s : State) : s.takeLanes =
    (s.lanes.flatMap (fun l => l.take.1), s.setLanes (s.lanes.map fun l => l.take.2)) := by
  rw [State.takeLanes, List.flatMap_map, List.map_map]
  rfl

end Sys2Proof.Machine
end

section
/-! PROOFS. Lane frames in whole, output frames, the lanes' work at a frame boundary, and O56 (06 R129, 07 R144 to R149; logs 19,
31, 32). -/

namespace Sys2Proof.Machine

/-! ### A whole lane frame at a receiver that holds its framing (07 R144 to R146) -/

section
variable {l : InputLane} {bits : List Bool}

/-- The sync word of a lane frame is the high part of its bits as a number. -/
theorem syncWord_eq (hl : bits.length = 216) :
    (bits.take 24).foldl shiftIn 0 = bits.foldl shiftIn 0 / 2 ^ 192 := by
  have hsync := foldl_shiftIn_div bits 24
  rw [hl] at hsync
  exact hsync.symm

theorem foldl_receive_judged (h : l.framing = .framed 0 0) (hl : bits.length = 216) {good : Bool}
    (hg : (bits.foldl shiftIn 0 / 2 ^ 192 == 0x9E2B47) = good) {l' : InputLane}
    (hj : { l with framing := .framed 24 ((bits.take 24).foldl shiftIn 0) }.judgeSync good = l') :
    bits.foldl InputLane.receive l = (bits.drop 24).foldl InputLane.receive l' := by
  rw [foldl_receive_frame h hl, ← hj, ← hg, syncWord_eq hl]

theorem foldl_receive_entered {l' : InputLane} (h : l'.framing = .framed 24 ((bits.take 24).foldl shiftIn 0))
    (hl : bits.length = 216) {good : Bool} (hg : (bits.foldl shiftIn 0 / 2 ^ 192 == 0x9E2B47) = good)
    {l'' : InputLane} (he : { l' with framing := .framed 0 0 }.enter ⟨good, frameSamples (bits.foldl shiftIn 0)⟩ = l'') :
    (bits.drop 24).foldl InputLane.receive l' = l'' := by
  rw [foldl_receive_rest h hl, ← he, ← hg, syncWord_eq hl]

variable (h : l.framing = .framed 0 0) (hl : bits.length = 216)
include h hl

theorem receiveFrame_locked_good (hk : l.locked = true) (hs : l.store.length ≤ 4)
    (hg : bits.foldl shiftIn 0 / 2 ^ 192 = 0x9E2B47) : bits.foldl InputLane.receive l =
      { l with count := 0, store := (if l.store.length = 4 then l.store.drop 1 else l.store) ++
        [⟨true, frameSamples (bits.foldl shiftIn 0)⟩] } := by
  rw [foldl_receive_judged h hl (beq_iff_eq.2 hg) (judgeSync_locked_good hk),
    foldl_receive_entered rfl hl (beq_iff_eq.2 hg) (enter_locked (l := { l with count := 0, framing := .framed 0 0 }) hk hs _), ← h]

theorem receiveFrame_locked_first (hk : l.locked = true) (hs : l.store.length ≤ 4) (hc : l.count = 0)
    (hg : ¬ bits.foldl shiftIn 0 / 2 ^ 192 = 0x9E2B47) : bits.foldl InputLane.receive l =
      { l with count := 1, store := (if l.store.length = 4 then l.store.drop 1 else l.store) ++
        [⟨false, frameSamples (bits.foldl shiftIn 0)⟩] } := by
  have hbad : (bits.foldl shiftIn 0 / 2 ^ 192 == 0x9E2B47) = false := beq_eq_false_iff_ne.2 hg
  rw [foldl_receive_judged h hl hbad (judgeSync_locked_first hk hc),
    foldl_receive_entered rfl hl hbad (enter_locked (l := { l with count := 1, framing := .framed 0 0 }) hk hs _), ← h]

theorem receiveFrame_locked_second (hk : l.locked = true) (hc : l.count = 1)
    (hg : ¬ bits.foldl shiftIn 0 / 2 ^ 192 = 0x9E2B47) : bits.foldl InputLane.receive l =
      (bits.drop 24).foldl InputLane.receive ⟨false, 0, .hunting 0 0, [], none, true⟩ := by
  have hpos : 0 < l.count := by omega
  rw [foldl_receive_judged h hl (beq_eq_false_iff_ne.2 hg) (judgeSync_locked_second hk hpos)]

theorem receiveFrame_seeking_fourth (hk : l.locked = false) (hs : l.store.length ≤ 4) (hc : l.count = 3)
    (hg : bits.foldl shiftIn 0 / 2 ^ 192 = 0x9E2B47) : bits.foldl InputLane.receive l =
      { l with locked := true, count := 0, lastGood := none, store := (if l.store.length = 4 then l.store.drop 1 else l.store) ++
        [⟨true, frameSamples (bits.foldl shiftIn 0)⟩] } := by
  rw [foldl_receive_judged h hl (beq_iff_eq.2 hg) (judgeSync_seeking_fourth hk hc),
    foldl_receive_entered rfl hl (beq_iff_eq.2 hg) (enter_locked
      (l := ⟨true, 0, .framed 0 0, l.store, none, l.lost⟩) rfl hs _), ← h]

theorem receiveFrame_seeking_good (hk : l.locked = false) (hc : l.count < 3)
    (hg : bits.foldl shiftIn 0 / 2 ^ 192 = 0x9E2B47) : bits.foldl InputLane.receive l = { l with count := l.count + 1 } := by
  rw [foldl_receive_judged h hl (beq_iff_eq.2 hg) (judgeSync_seeking_good hk hc),
    foldl_receive_entered rfl hl (beq_iff_eq.2 hg) (enter_seeking
      (l := { l with count := l.count + 1, framing := .framed 0 0 }) hk _), ← h]

theorem receiveFrame_seeking_bad (hk : l.locked = false) (hg : ¬ bits.foldl shiftIn 0 / 2 ^ 192 = 0x9E2B47) :
    bits.foldl InputLane.receive l =
      (bits.drop 24).foldl InputLane.receive { l with count := 0, framing := .hunting 0 0 } := by
  rw [foldl_receive_judged h hl (beq_eq_false_iff_ne.2 hg) (judgeSync_seeking_bad hk)]

end

theorem exec_inputLaneFrame {s : State} {i : Nat} {l : InputLane} (hi : i < 6) (hr : s.resetHeld = false)
    (hl : s.lanes[i]? = some l) (bits : List Bool) :
    exec (.inputLaneFrame i bits) s = .next (s.setLanes (s.lanes.set i (bits.foldl InputLane.receive l))) := by
  refine (forUnit_of hr (decide_eq_true hi) _).trans ?_
  rw [List.modify_eq_set_getElem?, hl]
  rfl

/-! ### Output frames (07 R144, R149) -/

@[simp] theorem numberBits_length (n v : Nat) : (numberBits n v).length = n := by
  induction n generalizing v with
  | zero => rfl
  | succ n ih => rw [numberBits, List.length_append, ih, List.length_singleton]

/-- Most significant bit first. -/
theorem getElem?_numberBits {n j : Nat} (h : j < n) (v : Nat) : (numberBits n v)[j]? = some (v.testBit (n - 1 - j)) := by
  induction n generalizing v with
  | zero => omega
  | succ n ih =>
    rw [numberBits]
    rcases Nat.lt_succ_iff_lt_or_eq.1 h with hj | rfl
    · have hbit : n + 1 - 1 - j = n - 1 - j + 1 := by omega
      rw [List.getElem?_append_left (by simpa using hj), ih hj, hbit, Nat.testBit_succ]
    · rw [List.getElem?_append_right (by simp), numberBits_length, Nat.sub_self, Nat.add_sub_cancel, Nat.sub_self]
      simp [Nat.testBit_zero, ← beq_eq_decide]

/-- Pieces of one length one after the other. -/
theorem getElem?_flatMap_pieces {α β : Type} {f : α → List β} {n : Nat} (hf : ∀ x, (f x).length = n) {j : Nat} (hj : j < n) :
    ∀ (xs : List α) {p : Nat} {x : α}, xs[p]? = some x → (xs.flatMap f)[n * p + j]? = (f x)[j]?
  | y :: ys, 0, x, hp => by
    obtain rfl : y = x := by simpa using hp
    rw [List.flatMap_cons, Nat.mul_zero, Nat.zero_add, List.getElem?_append_left (by rwa [hf])]
  | y :: ys, p + 1, x, hp => by
    have hpos : n * (p + 1) + j = n * p + j + n := by ring
    rw [List.flatMap_cons, hpos, List.getElem?_append_right (by rw [hf]; omega), hf, Nat.add_sub_cancel]
    exact getElem?_flatMap_pieces hf hj ys (by simpa using hp)

theorem length_flatMap_pieces {α β : Type} {f : α → List β} {n : Nat} (hf : ∀ x, (f x).length = n) (xs : List α) :
    (xs.flatMap f).length = n * xs.length := by
  induction xs with
  | nil => rfl
  | cons x xs ih => rw [List.flatMap_cons, List.length_append, hf, ih, List.length_cons, Nat.mul_succ, Nat.add_comm]

section
variable {s : State}

theorem outputFrame_held (h : s.resetHeld = true) (k : Nat) : s.outputFrame k = [] := if_pos h

theorem outputFrame_eq (h : s.resetHeld = false) (k : Nat) : s.outputFrame k = numberBits 24 0x9E2B47 ++
    ((s.outputs.sent.drop (8 * k)).take 8).flatMap fun v => numberBits 24 (v % 16777216).toNat :=
  if_neg (Bool.eq_false_iff.1 h)

theorem outputFrame_length (h : s.resetHeld = false) {k : Nat} (hk : k < 16) (hs : s.outputs.sent.length = 128) :
    (s.outputFrame k).length = 216 := by
  rw [outputFrame_eq h, List.length_append, numberBits_length, length_flatMap_pieces (fun _ => numberBits_length ..),
    List.length_take, List.length_drop, hs]
  omega

theorem outputFrame_sync (h : s.resetHeld = false) (k : Nat) {j : Nat} (hj : j < 24) :
    (s.outputFrame k)[j]? = some (Nat.testBit 0x9E2B47 (23 - j)) := by
  rw [outputFrame_eq h, List.getElem?_append_left (by rwa [numberBits_length]), getElem?_numberBits hj]

theorem outputFrame_sample (h : s.resetHeld = false) {k : Nat} (hk : k < 16) (hs : s.outputs.sent.length = 128) {p : Nat}
    (hp : p < 8) {j : Nat} (hj : j < 24) : (s.outputFrame k)[24 * (p + 1) + j]? =
      some (((s.outputs.sent.getD (8 * k + p) 0) % 2 ^ 24).toNat.testBit (23 - j)) := by
  have hpos : 24 * (p + 1) + j - 24 = 24 * p + j := by omega
  have hin : 8 * k + p < s.outputs.sent.length := by omega
  have hsample : ((s.outputs.sent.drop (8 * k)).take 8)[p]? = some (s.outputs.sent.getD (8 * k + p) 0) := by
    rw [List.getElem?_take_of_lt hp, List.getElem?_drop, List.getD_eq_getElem?_getD, List.getElem?_eq_getElem hin]
    rfl
  rw [outputFrame_eq h, List.getElem?_append_right (by rw [numberBits_length]; omega), numberBits_length, hpos,
    getElem?_flatMap_pieces (fun _ => numberBits_length ..) hj _ hsample, getElem?_numberBits hj]
  rfl

end

/-! ### LANE DOWN (07 R148; log 32) -/

/-- A number written as the sum of the powers of two of its bits. -/
theorem testBit_sum_bits (f : Nat → Bool) (n : Nat) : ((List.range n).map fun i => bit (f i) * 2 ^ i).sum < 2 ^ n ∧
    ∀ i < n, ((List.range n).map fun i => bit (f i) * 2 ^ i).sum.testBit i = f i := by
  induction n with
  | zero => exact ⟨Nat.one_pos, fun i hi => absurd hi (Nat.not_lt_zero i)⟩
  | succ n ih =>
    obtain ⟨hlt, hbits⟩ := ih
    rw [List.range_succ, List.map_append, List.sum_append, List.map_singleton, List.sum_singleton]
    have hsum := Nat.add_comm ((List.range n).map fun i => bit (f i) * 2 ^ i).sum (2 ^ n * bit (f n))
    rw [Nat.mul_comm (bit (f n)), hsum]
    have hbit : bit (f n) ≤ 1 := by cases f n <;> decide
    refine ⟨?_, fun i hi => ?_⟩
    · have hle := Nat.mul_le_mul_left (2 ^ n) hbit
      rw [pow_succ]
      omega
    · rw [Nat.testBit_two_pow_mul_add _ hlt]
      rcases Nat.lt_succ_iff_lt_or_eq.1 hi with hi | rfl
      · rw [if_pos hi, hbits i hi]
      · rw [if_neg (Nat.lt_irrefl _), Nat.sub_self]
        cases f i <;> rfl

/-- Lane `i` is down and carries a present microphone. -/
def State.laneDown (s : State) (i : Nat) : Bool := (s.lane i).down && s.carriesPresent i

theorem laneDown_iff (s : State) (i : Nat) : s.laneDown i = true ↔ ((s.lane i).locked = false ∨ (s.lane i).lost = true)
    ∧ ∃ p < 8, (s.mic (8 * i + p)).present = true := by
  simp [State.laneDown, InputLane.down, State.carriesPresent]

theorem downMask_lt (s : State) : s.downMask < 2 ^ 6 := (testBit_sum_bits s.laneDown 6).1

theorem testBit_downMask (s : State) {i : Nat} (hi : i < 6) : s.downMask.testBit i = s.laneDown i :=
  (testBit_sum_bits s.laneDown 6).2 i hi

theorem downMask_pos {s : State} : 0 < s.downMask ↔ ∃ i < 6, s.laneDown i = true := by
  constructor
  · intro hpos
    obtain ⟨i, hi⟩ := Nat.exists_testBit_of_ne_zero hpos.ne'
    have hi6 : i < 6 := by
      by_contra hge
      have hle : 2 ^ 6 ≤ 2 ^ i := Nat.pow_le_pow_right (by decide) (Nat.le_of_not_lt hge)
      rw [Nat.testBit_lt_two_pow (downMask_lt s |>.trans_le hle)] at hi
      exact Bool.false_ne_true hi
    exact ⟨i, hi6, (testBit_downMask s hi6).symm.trans hi⟩
  · rintro ⟨i, hi, hd⟩
    refine Nat.pos_of_ne_zero fun hzero => ?_
    rw [← testBit_downMask s hi, hzero, Nat.zero_testBit] at hd
    exact Bool.false_ne_true hd

/-! ### The lanes' work at a frame boundary (06 R129, 07 R148) -/

/-- The microphones once the persistence counts of the lost lanes are 0. -/
def State.micsPastLoss (s : State) : List Mic :=
  s.mics.mapIdx fun m x => if (s.lane (m / 8)).lost then { x with persistence := 0 } else x

theorem lanesStep_eq (s : State) : s.lanesStep = ((s.setMics s.micsPastLoss).setAtt
    (s.att.judged 8 (0 < s.downMask) (BitVec.ofNat 32 s.downMask) s.frame)).setLanes
      (s.lanes.map fun l => { l with lost := false }) := by
  rw [State.lanesStep, judge_eq]
  rfl

theorem lanesStep_att (s : State) :
    s.lanesStep.att = s.att.judged 8 (0 < s.downMask) (BitVec.ofNat 32 s.downMask) s.frame := by
  rw [lanesStep_eq]
  rfl

theorem lanesStep_ram (s : State) : s.lanesStep.ram = s.ram := by
  rw [lanesStep_eq]
  rfl

theorem lanesStep_guard (s : State) : s.lanesStep.guard = s.guard := by
  rw [lanesStep_eq]
  rfl

theorem lanesStep_mic (s : State) {m : Nat} (h : m < s.mics.length) : s.lanesStep.mic m =
    if (s.lane (m / 8)).lost = true then { s.mic m with persistence := 0 } else s.mic m := by
  refine mic_of_getElem? ?_
  rw [lanesStep_eq]
  show s.micsPastLoss[m]? = _
  rw [State.micsPastLoss, List.getElem?_mapIdx, getElem?_mic h]
  rfl

/-- LANE DOWN told of the mask. -/
theorem lanesStep_notice_holds {s : State} (hn : s.att.notices.length = 14) (h : 0 < s.downMask)
    (hp : (s.att.notice 8).pending = false) : s.lanesStep.att.notice 8 =
      ⟨true, min 255 ((s.att.notice 8).count + 1), BitVec.ofNat 32 s.downMask, s.frame⟩ := by
  have hi : 8 < s.att.notices.length := by omega
  rw [lanesStep_att, decide_eq_true h, judged_notice_true hi, hp, if_neg Bool.false_ne_true, Notice.occur]

theorem lanesStep_att_same {s : State} (h : 0 < s.downMask) (hp : (s.att.notice 8).pending = true) :
    s.lanesStep.att = s.att := by
  rw [lanesStep_att, decide_eq_true h, Attention.judged, hp]
  rfl

theorem lanesStep_notice_ends {s : State} (h : ¬ 0 < s.downMask) :
    s.lanesStep.att.notice 8 = { s.att.notice 8 with pending := false } := by
  rw [lanesStep_att, decide_eq_false h, judged_notice_false]

/-- Settles O56: frames in whole and bit by bit, hunting, output frames, takes, and the lanes' work at a frame boundary. -/
theorem laneFramesAreReceived : Obligations.LaneFramesAreReceived := by
  refine ⟨fun s i l bits hi hr hl hlen h hs => ?_, fun s i l bits hi hr hl => exec_inputLaneFrame hi hr hl bits,
    fun l n v b => ⟨fun h => receive_hunting h b, fun h hn hlt => receive_framed h hn hlt b⟩,
    fun l bits h => ?_, fun s k => ⟨fun hr => outputFrame_held hr k, fun hr hk hs => ⟨outputFrame_length hr hk hs,
      fun j hj => outputFrame_sync hr k hj, fun p hp j hj => outputFrame_sample hr hk hs hp hj⟩⟩,
    fun l => ⟨take_seeking, fun f rest hk hs => ⟨fun hf => ?_, fun hf => ?_⟩, fun hk hs => ⟨fun hc => ?_, fun hc => ?_⟩⟩,
    takeLanes_eq, fun s hls hms hns => ?_⟩
  · have hbecomes {l' : InputLane} (he : bits.foldl InputLane.receive l = l') :
        exec (.inputLaneFrame i bits) s = .next (s.setLanes (s.lanes.set i l')) := he ▸ exec_inputLaneFrame hi hr hl bits
    exact ⟨fun hk hg => hbecomes (receiveFrame_locked_good h hlen hk hs hg),
      fun hk hg hc => hbecomes (receiveFrame_locked_first h hlen hk hs hc hg),
      fun hk hg hc => hbecomes (receiveFrame_locked_second h hlen hk hc hg),
      fun hk hg hc => hbecomes (receiveFrame_seeking_fourth h hlen hk hs hc hg),
      fun hk hg hc => hbecomes (receiveFrame_seeking_good h hlen hk hc hg),
      fun hk hg => hbecomes (receiveFrame_seeking_bad h hlen hk hg)⟩
  · intro value hno
    have hhunt := foldl_receive_hunting h bits hno
    refine ⟨fun hlen hfound => hhunt.trans (if_pos ⟨hlen, hfound⟩), fun hnot => hhunt.trans (if_neg ?_)⟩
    rintro ⟨hlen, hfound⟩
    exact hnot.elim (fun hlt => absurd hlen (by omega)) fun hne => hne hfound
  · rw [take_frame hk hs, if_pos hf]
  · rw [take_frame hk hs, if_neg (Bool.eq_false_iff.1 hf)]
    rfl
  · rw [take_empty hk hs, judgeSync_locked_first hk hc, if_pos hk]
    rfl
  · rw [take_empty hk hs, judgeSync_locked_second hk hc]
    rfl
  · intro t down
    have hdown (i : Nat) : s.laneDown i = true ↔ down i := laneDown_iff s i
    have hpos : 0 < s.downMask ↔ ∃ i < 6, down i := by simp only [downMask_pos, hdown]
    refine ⟨congrArg (fun v : State => v.lanes) (lanesStep_eq s), fun m hm => lanesStep_mic s (by omega),
      ⟨BitVec.ofNat 6 s.downMask, fun i => ?_, fun hd hp => ?_⟩, fun hd hp => lanesStep_att_same (hpos.2 hd) hp,
      fun hd => lanesStep_notice_ends fun h => ?_, fun i hi => ?_, lanesStep_ram s,
      lanesStep_guard s⟩
    · rw [← hdown, ← testBit_downMask s i.isLt]
      have hbit := BitVec.getLsbD_ofNat 6 s.downMask i
      rw [decide_eq_true i.isLt, Bool.true_and] at hbit
      rw [← hbit]
      rfl
    · have hmask : (BitVec.ofNat 6 s.downMask).setWidth 32 = BitVec.ofNat 32 s.downMask := by
        refine BitVec.eq_of_toNat_eq ?_
        rw [BitVec.toNat_setWidth, BitVec.toNat_ofNat, BitVec.toNat_ofNat, Nat.mod_eq_of_lt (downMask_lt s)]
      rw [hmask]
      exact lanesStep_notice_holds hns (hpos.2 hd) hp
    · obtain ⟨i, hi, hd'⟩ := hpos.1 h
      exact hd i hi hd'
    · exact (congrArg (Attention.notice · i) (lanesStep_att s)).trans (judged_notice_ne _ hi ..)

end Sys2Proof.Machine
end

section
/-! PROOFS. An analysis as a work: its first four stages, and stages 5 to 8 left to be done or done at once (06 R125, R126, R131;
log 23). -/

namespace Sys2Proof.Machine

/-! ### Stages that wait -/

/-- No stage of an analysis waits. -/
def State.stageless (s : State) : Prop := s.todo.filter isStage = []

theorem stageless_of_subset {s t : State} (h : s.stageless) (hl : ∀ w ∈ t.todo, w ∈ s.todo ∨ w = .claim ∨ w = .publish) :
    t.stageless := by
  refine List.filter_eq_nil_iff.2 fun w hw hst => ?_
  rcases hl w hw with hs | rfl | rfl
  · exact List.filter_eq_nil_iff.1 h w hs hst
  · cases hst
  · cases hst

/-- No work but an analysis puts back a stage. -/
theorem stageless_closed : WorkClosed State.stageless where
  ram _ _ _ h := h
  taken _ _ _ h := h
  letGo _ _ h := h
  gap _ _ h := h
  advance _ h := h
  slots _ _ h := h
  loader _ _ h := h
  coef _ _ h := h
  engines _ _ h := h
  net _ _ h := h
  trans _ _ h := h
  tails _ _ h := h
  mics _ _ h := h
  guard _ _ h := h
  lanes _ _ h := h
  clock _ _ h := h
  mode _ _ h := h
  key _ _ h := h
  locked _ h _ := h
  refused _ h _ _ := h
  unlocked _ h _ := h
  lockout _ h := h
  occur _ _ _ _ h := h
  finish _ _ _ h := h
  meters _ _ h := h
  erase _ _ h := stageless_of_subset h fun _ hw => .inl (List.mem_of_mem_erase hw)
  drop _ _ h := stageless_of_subset h fun _ hw => .inl (List.mem_filter.1 hw).1
  stand s h := stageless_of_subset h fun w hw => by
    have hw' : w ∈ (s.todo.filter fun w => w != .claim && w != .publish) ++ [.claim, .publish] := hw
    simp only [List.mem_append, List.mem_filter, List.mem_cons, List.not_mem_nil, or_false] at hw'
    exact hw'.imp_left And.left
  shown _ _ h := h
  changed _ _ h := h

/-! ### A stage leaves the others due -/

section
variable {s : State} {w : Work} (hw : isStage w = true)
include hw

theorem holdStep_mem_todo (n : Nat) : w ∈ (s.holdStep n).todo ↔ w ∈ s.todo := by
  have hne : w ≠ .depthGlide n := by rintro rfl; cases hw
  unfold State.holdStep
  dsimp only
  split_ifs
  · exact changeEntry_mem_todo s n _ hne
  · exact changeEntry_mem_todo s n _ hne
  · exact changeEntry_mem_todo s n _ hne
  · exact Iff.rfl

theorem quietStep_mem_todo (m : Nat) : w ∈ (s.quietStep m).todo ↔ w ∈ s.todo := by
  unfold State.quietStep
  dsimp only
  split_ifs
  · exact setPhi_mem_todo s m _ (by rintro rfl; cases hw)
  · exact Iff.rfl

omit hw in
theorem deviceQuietStep_todo (s : State) : s.deviceQuietStep.todo = s.todo := by
  unfold State.deviceQuietStep
  split_ifs
  · rfl
  · rw [setBeta_eq]
    rfl
  · rfl

omit hw in
theorem betaRequestStep_todo (s : State) : s.betaRequestStep.todo = s.todo := by
  unfold State.betaRequestStep
  dsimp only
  split_ifs
  · rw [requestLive_setCoef]
    rfl
  · rfl

/-- A stage done leaves the other stages due. -/
theorem perform_stage_mem_todo {x : Work} (hx : isStage x = true) : w ∈ (s.perform x).todo ↔ w ∈ s.todo := by
  cases x with
  | hold n => exact holdStep_mem_todo hw n
  | quiet m => exact quietStep_mem_todo hw m
  | deviceQuiet => exact iff_of_eq (congrArg (w ∈ ·) (deviceQuietStep_todo s))
  | betaRequest => exact iff_of_eq (congrArg (w ∈ ·) (betaRequestStep_todo s))
  | _ => cases hx

end

/-- Stages that are due, each once, are all done in turn. -/
theorem foldl_doOne_stages : ∀ {l : List Work} {s : State}, l.Nodup → (∀ w ∈ l, isStage w = true) → (∀ w ∈ l, w ∈ s.todo) →
    l.foldl State.doOne s = l.foldl (fun (x : State) w => (x.doing w).perform w) s
  | [], _, _, _, _ => rfl
  | w :: l, s, hn, hst, hdue => by
    obtain ⟨hw, hn⟩ := List.nodup_cons.1 hn
    have hstw : isStage w = true := hst w List.mem_cons_self
    rw [List.foldl_cons, List.foldl_cons, doOne_of_mem (hdue w List.mem_cons_self)]
    refine foldl_doOne_stages hn (fun x hx => hst x (List.mem_cons_of_mem _ hx)) fun x hx => ?_
    rw [perform_stage_mem_todo (hst x (List.mem_cons_of_mem _ hx)) hstw, doing_todo,
      List.mem_erase_of_ne (by rintro rfl; exact hw hx)]
    exact hdue x (List.mem_cons_of_mem _ hx)

/-- The analysis is over with stage 8. -/
theorem foldl_stages_progress (l : List Work) (s : State) :
    ((l ++ [Work.betaRequest]).foldl (fun (x : State) w => (x.doing w).perform w) s).guard.progress = none := by
  rw [List.foldl_append]
  rfl

/-! ### The row -/

theorem tailWorks_nodup : tailWorks.Nodup := by decide +kernel

theorem tailWorks_isStage : ∀ w ∈ tailWorks, isStage w = true := by decide +kernel

section
variable {s : State} (h : s.due .analysis)
include h

theorem exec_analysis (staged : Bool) : exec (.analysis staged) s = .next (if staged = true then (s.doing .analysis).beginAnalysis
    else ((s.doing .analysis).beginAnalysis.todo.filter isStage).foldl State.doOne (s.doing .analysis).beginAnalysis) := by
  have hdone : s.doWork .analysis = (s.doing .analysis).beginAnalysis :=
    doWork_of_due h (by simp) (by simp) (by simp)
  refine (released_of h.1 _).trans ?_
  rw [if_pos h.2.1, hdone]

/-- Outside ACTIVE the work is done with nothing. -/
theorem exec_analysis_idle (staged : Bool) (hm : s.mode.mode ≠ .active) :
    exec (.analysis staged) s = .next (s.doing .analysis) := by
  have hidle : (s.doing .analysis).beginAnalysis = s.doing .analysis := if_neg hm
  rw [exec_analysis h, hidle, due_doing_stages h]
  exact congrArg _ (ite_self _)

/-- The state with stages 5 to 8 to be done. -/
def State.analysed (s : State) : State := (s.fourStages).setTodo (tailWorks ++ s.fourStages.todo)

variable (hm : s.mode.mode = .active)
include hm

theorem exec_analysis_staged : exec (.analysis true) s = .next (s.doing .analysis).analysed := by
  have hbegin : (s.doing .analysis).beginAnalysis = (s.doing .analysis).analysed := if_pos hm
  rw [exec_analysis h, if_pos rfl, hbegin]

theorem exec_analysis_whole : exec (.analysis false) s =
    .next (tailWorks.foldl (fun (x : State) w => (x.doing w).perform w) (s.doing .analysis).analysed) := by
  have hbegin : (s.doing .analysis).beginAnalysis = (s.doing .analysis).analysed := if_pos hm
  have hfour : (s.doing .analysis).fourStages.stageless := stageless_closed.fourStages (due_doing_stages h)
  have hstages : (s.doing .analysis).analysed.todo.filter isStage = tailWorks := by
    show (tailWorks ++ (s.doing .analysis).fourStages.todo).filter isStage = tailWorks
    rw [List.filter_append, hfour, List.append_nil]
    exact List.filter_eq_self.2 tailWorks_isStage
  rw [exec_analysis h, if_neg Bool.false_ne_true, hbegin, hstages]
  exact congrArg _ (foldl_doOne_stages tailWorks_nodup tailWorks_isStage fun w hw => List.mem_append_left _ hw)

end

end Sys2Proof.Machine
end

section
/-! PROOFS. The stages of an analysis: candidates, persistence, the arbiter's order (06 R123, R125, R127, R128, R131; log 23). -/

namespace Sys2Proof.Machine

/-! ### The window (06 R125; log 23) -/

/-- Zeros put behind a short list, once with and once without counting those that are cut off. -/
theorem take_append_zeros (n : Nat) (l : List Int) :
    l.take n ++ List.replicate (n - (l.take n).length) 0 = (l ++ List.replicate n 0).take n := by
  rw [List.take_append, List.take_replicate, List.length_take]
  congr 2
  omega

theorem window_eq (x : Mic) : x.window = ((x.buffer ++ List.replicate 1024 0).take 1024).reverse :=
  congrArg List.reverse (take_append_zeros Config.analysisLength x.buffer)

/-! ### Candidates (06 R127) -/

/-- With no level above, the best so far stays. -/
theorem peakBin_same : ∀ {levels : List Int} {level : Int}, (∀ l ∈ levels, l ≤ level) → ∀ bin best : Nat,
    peakBin levels bin best level = (best, level)
  | [], _, _, _, _ => rfl
  | l :: rest, level, h, bin, best => by
    rw [peakBin, if_neg (not_lt.2 (h l List.mem_cons_self))]
    exact peakBin_same (fun x hx => h x (List.mem_cons_of_mem _ hx)) _ _

/-- The first bin of highest level. -/
theorem peakBin_eq : ∀ {levels : List Int} {k : Nat} {level best : Int}, levels[k]? = some level → best < level →
    (∀ j l, levels[j]? = some l → l ≤ level ∧ (j < k → l < level)) → ∀ bin at_ : Nat,
    peakBin levels bin at_ best = (bin + k, level)
  | l :: rest, 0, level, best, hk, hb, hall, bin, at_ => by
    obtain rfl : l = level := by simpa using hk
    rw [peakBin, if_pos hb]
    refine peakBin_same (fun x hx => ?_) _ _
    obtain ⟨j, hj⟩ := List.getElem?_of_mem hx
    exact (hall (j + 1) x hj).1
  | l :: rest, k + 1, level, best, hk, hb, hall, bin, at_ => by
    have hl : l < level := (hall 0 l rfl).2 (Nat.succ_pos k)
    have hrest : ∀ j x, rest[j]? = some x → x ≤ level ∧ (j < k → x < level) := fun j x hj => by
      obtain ⟨hle, hlt⟩ := hall (j + 1) x hj
      exact ⟨hle, fun h => hlt (Nat.succ_lt_succ h)⟩
    have hbin : bin + (k + 1) = bin + 1 + k := by omega
    rw [peakBin, hbin]
    split_ifs
    · exact peakBin_eq (by simpa using hk) hl hrest _ _
    · exact peakBin_eq (by simpa using hk) hb hrest _ _

/-- The candidate of samples whose first bin of highest level is known. -/
theorem candidateBin_eq {xs : List Int} {bin : Nat} {level : Int} (threshold floor : Int)
    (hl : (spectrum xs)[bin - 2]? = some level) (hb : 2 ≤ bin) (hlow : -14400 ≤ level)
    (hall : ∀ j l, (spectrum xs)[j]? = some l → l ≤ level ∧ (j < bin - 2 → l < level)) :
    candidateBin threshold floor xs =
      if threshold ≤ level - meanLevel (spectrum xs) ∧ floor ≤ level then some bin else none := by
  have hpeak : peakBin (spectrum xs) 2 2 (Config.levelFloor - 1) = (bin, level) := by
    have hbest : Config.levelFloor - 1 < level := (by decide : Config.levelFloor - 1 < -14400).trans_le hlow
    rw [peakBin_eq hl hbest hall, Nat.add_sub_cancel' hb]
  rw [candidateBin]
  dsimp only
  rw [hpeak]
  exact if_congr (by rw [Bool.and_eq_true, decide_eq_true_eq, decide_eq_true_eq]) rfl rfl

/-! ### Stages 1 and 2 (06 R125 to R127) -/

theorem openAnalysis_candidate {s : State} {m : Nat} (h : m < s.mics.length) : s.openAnalysis.candidate m =
    if (s.mic m).present = true ∧ (s.lane (m / 8)).locked = true ∧ (s.mic m).guarded = true
      ∧ s.guard.settings.enable = true then
      candidateBin s.guard.settings.threshold s.guard.settings.floor (s.mic m).window
    else none := by
  show s.candidates.getD m none = _
  rw [State.candidates, List.getD_eq_getElem?_getD, List.getElem?_mapIdx, getElem?_mic h]
  refine if_congr ?_ rfl rfl
  rw [Bool.and_eq_true, Bool.and_eq_true, Bool.and_eq_true, and_assoc, and_assoc]
  rfl

/-- With the guard disabled no microphone is examined. -/
theorem candidates_disabled {s : State} (h : s.guard.settings.enable = false) :
    s.candidates = List.replicate s.mics.length none := by
  rw [State.candidates, h]
  simp only [Bool.and_false, Bool.false_eq_true, if_false]
  rw [List.eq_replicate_iff, List.length_mapIdx]
  refine ⟨rfl, fun b hb => ?_⟩
  obtain ⟨i, hi, he⟩ := List.mem_mapIdx.1 hb
  exact he.symm

/-! ### Persistence (06 R128) -/

/-- A microphone whose persistence count is 0. -/
def Mic.unpersist (x : Mic) : Mic := { x with persistence := 0 }

theorem onMic_eq_set {s : State} {m : Nat} (h : m < s.mics.length) (f : Mic → Mic) :
    s.onMic m f = s.setMics (s.mics.set m (f (s.mic m))) := by
  rw [State.onMic, List.modify_eq_set_getElem?, getElem?_mic h]
  rfl

theorem persistMic_none {s : State} {m : Nat} (h : s.candidate m = none) (cs : List (Nat × Nat)) :
    persistMic (s, cs) m = (s.onMic m Mic.unpersist, cs) := by
  have hafter : (s.onMic m (Mic.persist none)).candidate m = none := h
  unfold persistMic
  dsimp only
  rw [h, hafter, Option.isSome_none, Bool.false_and, if_neg Bool.false_ne_true]
  rfl

/-- The persistence count with a candidate, before a confirmation. -/
def Mic.persisted (b : Nat) (x : Mic) : Nat :=
  if 0 < x.persistence ∧ b ≤ x.persistenceBin + 1 ∧ x.persistenceBin ≤ b + 1 then x.persistence + 1 else 1

theorem persist_some (b : Nat) (x : Mic) :
    Mic.persist (some b) x = { x with persistence := x.persisted b, persistenceBin := b } := by
  have hnear : (decide (0 < x.persistence) && near b x.persistenceBin) = true ↔
      0 < x.persistence ∧ b ≤ x.persistenceBin + 1 ∧ x.persistenceBin ≤ b + 1 := by
    simp only [near, Bool.and_eq_true, decide_eq_true_eq]
  rw [Mic.persist, Mic.persisted]
  by_cases h : 0 < x.persistence ∧ b ≤ x.persistenceBin + 1 ∧ x.persistenceBin ≤ b + 1
  · rw [if_pos (hnear.2 h), if_pos h]
  · rw [if_neg (mt hnear.1 h), if_neg h]

/-- The ring of microphone `m` at bin `b` is confirmed: the count starts anew, the quiet count too. -/
def State.confirm (s : State) (m b : Nat) : State :=
  let t := ((s.onMic m fun x => { x with persistence := 0 }).touch m).raise .ringConfirmed (m + 256 * b)
  t.setGuard { t.guard with progress := t.guard.progress.map fun p => { p with confirmed := true } }

section
variable {s : State} {m : Nat} (hm : m < s.mics.length)
include hm

theorem persistMic_some {b : Nat} (h : s.candidate m = some b) (cs : List (Nat × Nat)) : persistMic (s, cs) m =
    if (s.mic m).persisted b = s.guard.settings.persistence then
      ((s.onMic m (Mic.persist (some b))).confirm m b, cs ++ [(m, b)])
    else (s.onMic m (Mic.persist (some b)), cs) := by
  have hafter : (s.onMic m (Mic.persist (some b))).candidate m = some b := h
  have hmic : (s.onMic m (Mic.persist (some b))).mic m =
      { s.mic m with persistence := (s.mic m).persisted b, persistenceBin := b } := by
    rw [onMic_mic_same hm, persist_some]
  unfold persistMic
  dsimp only
  rw [h, hafter, hmic, Option.isSome_some, Bool.true_and]
  exact if_congr decide_eq_true_iff rfl rfl

theorem confirm_mics (b : Nat) :
    (s.confirm m b).mics = s.mics.set m { s.mic m with persistence := 0, quiet := 0 } := by
  have hraise : (s.confirm m b).mics = ((s.onMic m fun x => { x with persistence := 0 }).onMic m
      fun x => { x with quiet := 0 }).mics := by
    rw [State.confirm]
    rfl
  rw [hraise, onMic_eq_set (by simpa using hm), onMic_mic_same hm, onMic_eq_set hm, State.setMics_mics, State.setMics_mics,
    List.set_set]

omit hm in
theorem confirm_guard (b : Nat) : (s.confirm m b).guard = { s.guard with progress := s.guard.progress.map fun p =>
    { p with touched := m :: p.touched, confirmed := true } } := by
  exact congrArg (fun o => { s.guard with progress := o }) (Option.map_map (fun p : Progress => { p with confirmed := true })
    (fun p : Progress => { p with touched := m :: p.touched }) s.guard.progress)

omit hm in
theorem confirm_todo (b : Nat) : (s.confirm m b).todo = s.todo := rfl

omit hm in
theorem confirm_ram (b : Nat) : (s.confirm m b).ram = s.ram := rfl

omit hm in
theorem confirm_att (b : Nat) : (s.confirm m b).att = (s.raise .ringConfirmed (m + 256 * b)).att := rfl

end

/-! ### A change of every microphone, one by one -/

theorem mapIdx_getElem?_below {α : Type} (f : α → α) (l : List α) (n i : Nat) :
    (l.mapIdx fun i x => if i < n then f x else x)[i]? = l[i]?.map fun x => if i < n then f x else x := List.getElem?_mapIdx

theorem foldl_onMic (s : State) (f : Mic → Mic) {n : Nat} (hn : n ≤ s.mics.length) :
    (List.range n).foldl (fun s m => s.onMic m f) s = s.setMics (s.mics.mapIdx fun i x => if i < n then f x else x) := by
  induction n with
  | zero =>
    have hsame : (s.mics.mapIdx fun i x => if i < 0 then f x else x) = s.mics := by
      refine List.ext_getElem? fun i => ?_
      rw [mapIdx_getElem?_below]
      simp
    rw [hsame, setMics_self]
    rfl
  | succ n ih =>
    have hstep : (s.mics.mapIdx fun i x => if i < n then f x else x).modify n f =
        s.mics.mapIdx fun i x => if i < n + 1 then f x else x := by
      refine List.ext_getElem? fun i => ?_
      rw [List.getElem?_modify, mapIdx_getElem?_below, mapIdx_getElem?_below]
      refine (Option.map_map ..).trans ?_
      refine congrArg (Option.map · s.mics[i]?) (funext fun x => ?_)
      rw [Function.comp_apply]
      rcases Nat.lt_trichotomy i n with hi | rfl | hi
      · rw [if_neg hi.ne', if_pos hi, if_pos (hi.trans (Nat.lt_succ_self n))]
      · rw [if_pos rfl, if_neg (Nat.lt_irrefl i), if_pos (Nat.lt_succ_self i)]
      · rw [if_neg hi.ne, if_neg hi.not_gt, if_neg (by omega)]
    rw [List.range_succ, List.foldl_append, ih (by omega), List.foldl_cons, List.foldl_nil, State.onMic, State.setMics_mics, hstep]
    refine setMics_setMics (by simp) (by simp) fun i x y z hx hy hz hxz => ?_
    rw [mapIdx_getElem?_below, hx, Option.map_some, Option.some.injEq] at hy hz
    subst hy hz
    by_cases hi : i < n
    · rwa [if_pos (by omega)] at hxz ⊢
    · rw [if_neg hi]

/-- With no candidate no count stays and no ring is confirmed. -/
theorem foldl_persistMic_none (l : List Nat) (cs : List (Nat × Nat)) : ∀ {s : State}, (∀ m, s.candidate m = none) →
    l.foldl persistMic (s, cs) = (l.foldl (fun s m => s.onMic m Mic.unpersist) s, cs) := by
  induction l with
  | nil => exact fun _ => rfl
  | cons m l ih =>
    intro s h
    rw [List.foldl_cons, List.foldl_cons, persistMic_none (h m)]
    exact ih h

/-- Every microphone with a persistence count of 0. -/
theorem foldl_persistMic_disabled {s : State} (h : ∀ m, s.candidate m = none) :
    (List.range s.mics.length).foldl persistMic (s, []) = (s.setMics (s.mics.map Mic.unpersist), []) := by
  have hall : (s.mics.mapIdx fun i x => if i < s.mics.length then Mic.unpersist x else x) = s.mics.map Mic.unpersist := by
    refine List.ext_getElem? fun i => ?_
    rw [mapIdx_getElem?_below, List.getElem?_map]
    by_cases hi : i < s.mics.length
    · simp only [if_pos hi]
    · rw [List.getElem?_eq_none (Nat.le_of_not_lt hi)]
      rfl
  rw [foldl_persistMic_none _ _ h, foldl_onMic s _ le_rfl, hall]

/-! ### The arbiter's order (06 R123, R131) -/

/-- The groups of an order are all three, each once. -/
theorem ranking_nodup (order : Nat) : (ranking order).Nodup := by
  unfold ranking
  split_ifs <;> decide

theorem mem_ranking (order : Nat) (g : Group) : g ∈ ranking order := by
  unfold ranking
  cases g <;> split_ifs <;> decide

/-- The rank is the place in the ranking. -/
theorem ranking_pairwise (order : Nat) : (ranking order).Pairwise fun g h => rankOf order g < rankOf order h := by
  unfold rankOf ranking
  split_ifs <;> decide

/-- A list sorted into the classes of a key. -/
theorem flatMap_filter_perm {α κ : Type} [DecidableEq κ] (key : α → κ) (l : List α) : ∀ {ks : List κ}, ks.Nodup →
    (ks.flatMap fun k => l.filter fun a => key a == k).Perm (l.filter fun a => decide (key a ∈ ks))
  | [], _ => by simp
  | k :: ks, h => by
    obtain ⟨hk, hks⟩ := List.nodup_cons.1 h
    have hin : (l.filter fun a => decide (key a ∈ k :: ks)).filter (fun a => key a == k) = l.filter fun a => key a == k := by
      rw [List.filter_filter]
      refine List.filter_congr fun a _ => ?_
      by_cases ha : key a = k <;> simp [ha]
    have hout : (l.filter fun a => decide (key a ∈ k :: ks)).filter (fun a => !(key a == k)) =
        l.filter fun a => decide (key a ∈ ks) := by
      rw [List.filter_filter]
      refine List.filter_congr fun a _ => ?_
      by_cases ha : key a = k
      · simp [ha, hk]
      · simp [ha]
    have hsplit := List.filter_append_perm (fun a => key a == k) (l.filter fun a => decide (key a ∈ k :: ks))
    rw [hin, hout] at hsplit
    rw [List.flatMap_cons]
    exact ((flatMap_filter_perm key l hks).append_left _).trans hsplit

theorem arbiterOrder_perm (s : State) (cs : List (Nat × Nat)) : (s.arbiterOrder cs).Perm cs := by
  have hall : (cs.filter fun c => decide ((s.mic c.1).group ∈ ranking s.guard.settings.order)) = cs :=
    List.filter_eq_self.2 fun c _ => decide_eq_true (mem_ranking ..)
  have hperm := flatMap_filter_perm (fun c : Nat × Nat => (s.mic c.1).group) cs (ranking_nodup s.guard.settings.order)
  rwa [hall] at hperm

theorem arbiterOrder_pairwise (s : State) {cs : List (Nat × Nat)} (h : cs.Pairwise fun a b => a.1 < b.1) :
    (s.arbiterOrder cs).Pairwise fun a b =>
      rankOf s.guard.settings.order (s.mic a.1).group < rankOf s.guard.settings.order (s.mic b.1).group
      ∨ (rankOf s.guard.settings.order (s.mic a.1).group = rankOf s.guard.settings.order (s.mic b.1).group ∧ a.1 < b.1) := by
  have hgroup {g : Group} {c : Nat × Nat} (hc : c ∈ cs.filter fun c => (s.mic c.1).group == g) : (s.mic c.1).group = g :=
    beq_iff_eq.1 (List.mem_filter.1 hc).2
  rw [State.arbiterOrder, List.pairwise_flatMap]
  refine ⟨fun g _ => ?_, (ranking_pairwise _).imp fun hgh a ha b hb => .inl ?_⟩
  · refine (h.filter _).imp_of_mem fun ha hb hab => .inr ⟨?_, hab⟩
    rw [hgroup ha, hgroup hb]
  · rwa [hgroup ha, hgroup hb]

/-! ### An analysis with the guard disabled (log 23) -/

theorem openAnalysis_candidate_disabled {s : State} (h : s.guard.settings.enable = false) (m : Nat) :
    s.openAnalysis.candidate m = none := by
  show s.candidates.getD m none = none
  rw [candidates_disabled h, List.getD_eq_getElem?_getD, List.getElem?_replicate]
  split_ifs <;> rfl

theorem fourStages_disabled {s : State} (h : s.guard.settings.enable = false) (hl : s.mics.length = 48) :
    s.fourStages = s.openAnalysis.setMics (s.mics.map Mic.unpersist) := by
  have hpersist : (List.range Config.microphones).foldl persistMic (s.openAnalysis, []) =
      (s.openAnalysis.setMics (s.mics.map Mic.unpersist), []) := by
    have hmics : Config.microphones = s.openAnalysis.mics.length := hl.symm
    rw [hmics]
    exact foldl_persistMic_disabled (openAnalysis_candidate_disabled h)
  have horder (t : State) : t.arbiterOrder [] = [] := List.perm_nil.1 (arbiterOrder_perm t [])
  rw [State.fourStages, hpersist, horder]
  rfl

end Sys2Proof.Machine
end

section
/-! PROOFS. Fourier sums for the kernel: `fourier` at 128 bits on natural numbers alone, which the kernel computes with directly,
and through recursors. An end `x` of an enclosure is held as `x + 2^192`; what is held stays inside bounds that grow with each
halving, so nothing is cut off. A spectrum evaluated on the model's own `fourier` takes the kernel several times the memory. -/

namespace Sys2Proof.Machine

/-! ### One end of an enclosure -/

/-- What an end is raised by. -/
def endBias : Nat := Nat.pow 2 192

def encodeEnd : Int → Nat
  | .ofNat n => Nat.add n endBias
  | .negSucc n => Nat.sub endBias (Nat.succ n)

def decodeEnd (n : Nat) : Int := Int.subNatNat n endBias

/-- A whole number is no further from 0 than 2^k. -/
def Inside (k : Nat) (x : Int) : Prop := -2 ^ k ≤ x ∧ x ≤ 2 ^ k

theorem cast_endBias : (endBias : Int) = 2 ^ 192 := Nat.cast_pow 2 192

theorem decodeEnd_eq (n : Nat) : decodeEnd n = n - endBias := Int.subNatNat_eq_coe

theorem decodeEnd_encodeEnd {x : Int} (h : Inside 192 x) : decodeEnd (encodeEnd x) = x := by
  obtain ⟨hlow, -⟩ := h
  rw [← cast_endBias] at hlow
  rw [decodeEnd_eq]
  cases x with
  | ofNat n =>
    show ((n + endBias : Nat) : Int) - endBias = n
    omega
  | negSucc n =>
    rw [Int.negSucc_eq] at hlow ⊢
    show ((endBias - (n + 1) : Nat) : Int) - endBias = _
    omega

/-! ### Sums, differences, products -/

def addEnd (n m : Nat) : Nat := Nat.sub (Nat.add n m) endBias
def subEnd (n m : Nat) : Nat := Nat.sub (Nat.add n endBias) m

/-- The product of two ends, raised by the square of the bias. -/
def mulEnd (n m : Nat) : Nat := Nat.sub (Nat.add (Nat.mul n m) (Nat.mul 2 (Nat.mul endBias endBias)))
  (Nat.mul endBias (Nat.add n m))

def minEnd (n m : Nat) : Nat := cond (Nat.ble n m) n m
def maxEnd (n m : Nat) : Nat := cond (Nat.ble n m) m n

/-- 1 at 128 bits. -/
def unit128 : Nat := Nat.pow 2 128

/-- What the division by `unit128` leaves of the square of the bias, but for the bias. -/
def endExcess : Nat := Nat.sub (Nat.pow 2 256) endBias

/-- The lower end of a product of enclosures, from the products of their ends. -/
def lowEnd (p q r s : Nat) : Nat := Nat.sub (Nat.div (minEnd (minEnd p q) (minEnd r s)) unit128) endExcess

/-- The upper end of a product of enclosures, from the products of their ends. -/
def highEnd (p q r s : Nat) : Nat :=
  Nat.sub (Nat.div (Nat.add (maxEnd (maxEnd p q) (maxEnd r s)) (Nat.pred unit128)) unit128) endExcess

theorem decodeEnd_addEnd {n m : Nat} (h : -2 ^ 192 ≤ decodeEnd n + decodeEnd m) :
    decodeEnd (addEnd n m) = decodeEnd n + decodeEnd m := by
  rw [decodeEnd_eq, decodeEnd_eq, ← cast_endBias] at h
  rw [decodeEnd_eq, decodeEnd_eq, decodeEnd_eq]
  show ((n + m - endBias : Nat) : Int) - endBias = _
  omega

theorem decodeEnd_subEnd {n m : Nat} (h : -2 ^ 192 ≤ decodeEnd n - decodeEnd m) :
    decodeEnd (subEnd n m) = decodeEnd n - decodeEnd m := by
  rw [decodeEnd_eq, decodeEnd_eq, ← cast_endBias] at h
  rw [decodeEnd_eq, decodeEnd_eq, decodeEnd_eq]
  show ((n + endBias - m : Nat) : Int) - endBias = _
  omega

/-- A product stays inside the product of the bounds. -/
theorem Inside.mul {i j : Nat} {x y : Int} (hx : Inside i x) (hy : Inside j y) : Inside (i + j) (x * y) := by
  have habs : |x * y| ≤ 2 ^ i * 2 ^ j := by
    rw [abs_mul]
    exact mul_le_mul (abs_le.2 hx) (abs_le.2 hy) (abs_nonneg y) (by positivity)
  rw [← pow_add] at habs
  exact abs_le.1 habs

theorem mulEnd_eq {n m : Nat} (hn : Inside 192 (decodeEnd n)) (hm : Inside 192 (decodeEnd m)) :
    (mulEnd n m : Int) = decodeEnd n * decodeEnd m + endBias * endBias := by
  obtain ⟨hlow, -⟩ := hn.mul hm
  rw [pow_add, ← cast_endBias, decodeEnd_eq, decodeEnd_eq] at hlow
  have hproduct : mulEnd n m = n * m + 2 * (endBias * endBias) - endBias * (n + m) := rfl
  rw [decodeEnd_eq, decodeEnd_eq, hproduct]
  generalize endBias = b at hlow
  have hexpand : ((n : Int) - b) * (m - b) = n * m - b * (n + m) + b * b := by ring
  rw [hexpand] at hlow ⊢
  have hle : b * (n + m) ≤ n * m + 2 * (b * b) := by
    zify
    linarith
  rw [Nat.cast_sub hle]
  push_cast
  ring

theorem cast_minEnd (n m : Nat) : (minEnd n m : Int) = min (n : Int) m := by
  have hble : Nat.ble n m = decide (n ≤ m) := by rw [Bool.eq_iff_iff, Nat.ble_eq, decide_eq_true_eq]
  rw [minEnd, hble, Bool.cond_decide, ← Nat.cast_min, Nat.min_def]

theorem cast_maxEnd (n m : Nat) : (maxEnd n m : Int) = max (n : Int) m := by
  have hble : Nat.ble n m = decide (n ≤ m) := by rw [Bool.eq_iff_iff, Nat.ble_eq, decide_eq_true_eq]
  rw [maxEnd, hble, Bool.cond_decide, ← Nat.cast_max, Nat.max_def]

theorem cast_square : (endBias : Int) * endBias = (endExcess + endBias) * 2 ^ 128 := by
  have hsum : endExcess + endBias = 2 ^ 256 := Nat.sub_add_cancel (Nat.pow_le_pow_right (by norm_num) (by norm_num))
  have hcast : (endExcess : Int) + endBias = 2 ^ 256 := by exact_mod_cast hsum
  rw [hcast, cast_endBias, ← pow_add, ← pow_add]

theorem cast_unit128 : (unit128 : Int) = 2 ^ 128 := Nat.cast_pow 2 128

theorem cast_pred_unit128 : (Nat.pred unit128 : Int) = 2 ^ 128 - 1 := by
  have hpos : 0 < unit128 := Nat.two_pow_pos 128
  rw [← cast_unit128, Nat.pred_eq_sub_one]
  omega

theorem ceilDiv_unit (a : Int) : ceilDiv a (2 ^ 128) = (a + (2 ^ 128 - 1)) / 2 ^ 128 := by
  rw [ceilDiv]
  omega

section
variable {p q r s : Nat} {x y z w : Int} (hp : (p : Int) = x + endBias * endBias) (hq : (q : Int) = y + endBias * endBias)
  (hr : (r : Int) = z + endBias * endBias) (hs : (s : Int) = w + endBias * endBias)
include hp hq hr hs

theorem decodeEnd_lowEnd (h : -2 ^ 192 ≤ min (min x y) (min z w) / 2 ^ 128) :
    decodeEnd (lowEnd p q r s) = min (min x y) (min z w) / 2 ^ 128 := by
  have hmin : (minEnd (minEnd p q) (minEnd r s) : Int) = min (min x y) (min z w) + endBias * endBias := by
    rw [cast_minEnd, cast_minEnd, cast_minEnd, hp, hq, hr, hs, min_add_add_right, min_add_add_right, min_add_add_right]
  have hdiv : ((minEnd (minEnd p q) (minEnd r s) / unit128 : Nat) : Int) =
      min (min x y) (min z w) / 2 ^ 128 + (endExcess + endBias) := by
    rw [Int.natCast_ediv, cast_unit128, hmin, cast_square, Int.add_mul_ediv_right _ _ (by norm_num)]
  rw [← cast_endBias] at h
  rw [decodeEnd_eq]
  show ((minEnd (minEnd p q) (minEnd r s) / unit128 - endExcess : Nat) : Int) - endBias = _
  omega

theorem decodeEnd_highEnd (h : -2 ^ 192 ≤ ceilDiv (max (max x y) (max z w)) (2 ^ 128)) :
    decodeEnd (highEnd p q r s) = ceilDiv (max (max x y) (max z w)) (2 ^ 128) := by
  have hmax : (maxEnd (maxEnd p q) (maxEnd r s) : Int) = max (max x y) (max z w) + endBias * endBias := by
    rw [cast_maxEnd, cast_maxEnd, cast_maxEnd, hp, hq, hr, hs, max_add_add_right, max_add_add_right, max_add_add_right]
  have hdiv : (((maxEnd (maxEnd p q) (maxEnd r s) + Nat.pred unit128) / unit128 : Nat) : Int) =
      ceilDiv (max (max x y) (max z w)) (2 ^ 128) + (endExcess + endBias) := by
    rw [ceilDiv_unit, Int.natCast_ediv, Nat.cast_add, cast_pred_unit128, cast_unit128, hmax, cast_square, Int.add_right_comm,
      Int.add_mul_ediv_right _ _ (by norm_num)]
  rw [← cast_endBias] at h
  rw [decodeEnd_eq]
  show (((maxEnd (maxEnd p q) (maxEnd r s) + Nat.pred unit128) / unit128 - endExcess : Nat) : Int) - endBias = _
  omega

end

/-! ### Bounds of enclosures -/

theorem Inside.mono {i j : Nat} {x : Int} (h : Inside i x) (hij : i ≤ j) : Inside j x := by
  have hpow : (2 : Int) ^ i ≤ 2 ^ j := pow_le_pow_right₀ (by norm_num) hij
  exact ⟨(neg_le_neg hpow).trans h.1, h.2.trans hpow⟩

section
variable {k : Nat} {x y : Int} (hx : Inside k x) (hy : Inside k y)
include hx hy

theorem Inside.min : Inside k (min x y) := ⟨le_min hx.1 hy.1, (min_le_left x y).trans hx.2⟩
theorem Inside.max : Inside k (max x y) := ⟨hx.1.trans (le_max_left x y), max_le hx.2 hy.2⟩

theorem Inside.add : Inside (k + 1) (x + y) := by
  obtain ⟨hx₁, hx₂⟩ := hx
  obtain ⟨hy₁, hy₂⟩ := hy
  rw [Inside, pow_succ]
  omega

omit hy in
theorem Inside.neg : Inside k (-x) := ⟨neg_le_neg hx.2, neg_le.1 hx.1⟩

end

theorem Inside.div {k : Nat} {x : Int} (h : Inside (k + 128) x) : Inside k (x / 2 ^ 128) := by
  rw [Inside, pow_add] at h
  rw [Inside]
  omega

theorem Inside.ceilDiv {k : Nat} {x : Int} (h : Inside (k + 128) x) : Inside k (ceilDiv x (2 ^ 128)) := by
  rw [Inside, pow_add] at h
  rw [Inside, Machine.ceilDiv]
  omega

/-- Both ends of an enclosure are no further from 0 than 2^k. -/
def Ival.Inside (k : Nat) (x : Ival) : Prop := Machine.Inside k x.lo ∧ Machine.Inside k x.hi

def Cval.Inside (k : Nat) (z : Cval) : Prop := z.re.Inside k ∧ z.im.Inside k

theorem Ival.Inside.mono {i j : Nat} {x : Ival} (h : x.Inside i) (hij : i ≤ j) : x.Inside j := ⟨h.1.mono hij, h.2.mono hij⟩

theorem Cval.Inside.mono {i j : Nat} {z : Cval} (h : z.Inside i) (hij : i ≤ j) : z.Inside j := ⟨h.1.mono hij, h.2.mono hij⟩

section
variable {k : Nat} {x y : Ival} (hx : x.Inside k) (hy : y.Inside k)
include hx hy

theorem Ival.Inside.add : (x.add y).Inside (k + 1) := ⟨hx.1.add hy.1, hx.2.add hy.2⟩
theorem Ival.Inside.sub : (x.sub y).Inside (k + 1) := ⟨hx.1.add hy.2.neg, hx.2.add hy.1.neg⟩

end

/-- A product with an enclosure inside 2 at 128 bits. -/
theorem Ival.Inside.mul {k : Nat} {x y : Ival} (hx : x.Inside 129) (hy : y.Inside k) : (x.mul 128 y).Inside (k + 1) := by
  have hexponent : 129 + k = k + 1 + 128 := by omega
  have hproduct {u v : Int} (hu : Machine.Inside 129 u) (hv : Machine.Inside k v) : Machine.Inside (k + 1 + 128) (u * v) :=
    hexponent ▸ hu.mul hv
  have h₁ := hproduct hx.1 hy.1
  have h₂ := hproduct hx.1 hy.2
  have h₃ := hproduct hx.2 hy.1
  have h₄ := hproduct hx.2 hy.2
  exact ⟨((h₁.min h₂).min (h₃.min h₄)).div, ((h₁.max h₂).max (h₃.max h₄)).ceilDiv⟩

theorem Cval.Inside.add {k : Nat} {z w : Cval} (hz : z.Inside k) (hw : w.Inside k) : (z.add w).Inside (k + 1) :=
  ⟨hz.1.add hw.1, hz.2.add hw.2⟩

theorem Cval.Inside.sub {k : Nat} {z w : Cval} (hz : z.Inside k) (hw : w.Inside k) : (z.sub w).Inside (k + 1) :=
  ⟨hz.1.sub hw.1, hz.2.sub hw.2⟩

theorem Cval.Inside.mul {k : Nat} {z w : Cval} (hz : z.Inside 129) (hw : w.Inside k) : (z.mul 128 w).Inside (k + 2) :=
  ⟨(hz.1.mul hw.1).sub (hz.2.mul hw.2), (hz.1.mul hw.2).add (hz.2.mul hw.1)⟩

/-! ### Complex enclosures -/

/-- The four ends of a complex enclosure, each raised by the bias. -/
structure Ends where
  reLo : Nat
  reHi : Nat
  imLo : Nat
  imHi : Nat

def Ends.decode (q : Ends) : Cval :=
  ⟨⟨decodeEnd q.reLo, decodeEnd q.reHi⟩, ⟨decodeEnd q.imLo, decodeEnd q.imHi⟩⟩

def Cval.encode (z : Cval) : Ends :=
  ⟨encodeEnd z.re.lo, encodeEnd z.re.hi, encodeEnd z.im.lo, encodeEnd z.im.hi⟩

theorem Cval.decode_encode {z : Cval} (h : z.Inside 192) : z.encode.decode = z := by
  obtain ⟨⟨h₁, h₂⟩, h₃, h₄⟩ := h
  rw [Ends.decode, Cval.encode, decodeEnd_encodeEnd h₁, decodeEnd_encodeEnd h₂, decodeEnd_encodeEnd h₃, decodeEnd_encodeEnd h₄]

def mulLow (a b c d : Nat) : Nat := lowEnd (mulEnd a c) (mulEnd a d) (mulEnd b c) (mulEnd b d)
def mulHigh (a b c d : Nat) : Nat := highEnd (mulEnd a c) (mulEnd a d) (mulEnd b c) (mulEnd b d)

def Ends.add (x y : Ends) : Ends := ⟨addEnd x.reLo y.reLo, addEnd x.reHi y.reHi, addEnd x.imLo y.imLo, addEnd x.imHi y.imHi⟩
def Ends.sub (x y : Ends) : Ends := ⟨subEnd x.reLo y.reHi, subEnd x.reHi y.reLo, subEnd x.imLo y.imHi, subEnd x.imHi y.imLo⟩
def Ends.mul (x y : Ends) : Ends :=
  ⟨subEnd (mulLow x.reLo x.reHi y.reLo y.reHi) (mulHigh x.imLo x.imHi y.imLo y.imHi),
   subEnd (mulHigh x.reLo x.reHi y.reLo y.reHi) (mulLow x.imLo x.imHi y.imLo y.imHi),
   addEnd (mulLow x.reLo x.reHi y.imLo y.imHi) (mulLow x.imLo x.imHi y.reLo y.reHi),
   addEnd (mulHigh x.reLo x.reHi y.imLo y.imHi) (mulHigh x.imLo x.imHi y.reLo y.reHi)⟩

section
variable {a b c d : Nat} (hx : Ival.Inside 192 ⟨decodeEnd a, decodeEnd b⟩) (hy : Ival.Inside 192 ⟨decodeEnd c, decodeEnd d⟩)
  (h : (Ival.mul 128 ⟨decodeEnd a, decodeEnd b⟩ ⟨decodeEnd c, decodeEnd d⟩).Inside 192)
include hx hy h

theorem decodeEnd_mulLow :
    decodeEnd (mulLow a b c d) = (Ival.mul 128 ⟨decodeEnd a, decodeEnd b⟩ ⟨decodeEnd c, decodeEnd d⟩).lo :=
  decodeEnd_lowEnd (mulEnd_eq hx.1 hy.1) (mulEnd_eq hx.1 hy.2) (mulEnd_eq hx.2 hy.1) (mulEnd_eq hx.2 hy.2) h.1.1

theorem decodeEnd_mulHigh :
    decodeEnd (mulHigh a b c d) = (Ival.mul 128 ⟨decodeEnd a, decodeEnd b⟩ ⟨decodeEnd c, decodeEnd d⟩).hi :=
  decodeEnd_highEnd (mulEnd_eq hx.1 hy.1) (mulEnd_eq hx.1 hy.2) (mulEnd_eq hx.2 hy.1) (mulEnd_eq hx.2 hy.2) h.2.1

end

section
variable {x y : Ends} {k : Nat} (hy : y.decode.Inside k)
include hy

theorem Ends.decode_add (hk : k + 1 ≤ 192) (hx : x.decode.Inside k) : (x.add y).decode = x.decode.add y.decode := by
  obtain ⟨⟨h₁, h₂⟩, h₃, h₄⟩ := (hx.add hy).mono hk
  rw [Ends.decode, Ends.add, decodeEnd_addEnd h₁.1, decodeEnd_addEnd h₂.1, decodeEnd_addEnd h₃.1, decodeEnd_addEnd h₄.1]
  rfl

theorem Ends.decode_sub (hk : k + 1 ≤ 192) (hx : x.decode.Inside k) : (x.sub y).decode = x.decode.sub y.decode := by
  obtain ⟨⟨h₁, h₂⟩, h₃, h₄⟩ := (hx.sub hy).mono hk
  rw [Ends.decode, Ends.sub, decodeEnd_subEnd h₁.1, decodeEnd_subEnd h₂.1, decodeEnd_subEnd h₃.1, decodeEnd_subEnd h₄.1]
  rfl

/-- A product with an enclosure inside 2 at 128 bits. -/
theorem Ends.decode_mul (hk : k + 2 ≤ 192) (hx : x.decode.Inside 129) : (x.mul y).decode = x.decode.mul 128 y.decode := by
  have hproduct {a b c d : Nat} (hu : Ival.Inside 129 ⟨decodeEnd a, decodeEnd b⟩)
      (hv : Ival.Inside k ⟨decodeEnd c, decodeEnd d⟩) :
      decodeEnd (mulLow a b c d) = (Ival.mul 128 ⟨decodeEnd a, decodeEnd b⟩ ⟨decodeEnd c, decodeEnd d⟩).lo
      ∧ decodeEnd (mulHigh a b c d) =
        (Ival.mul 128 ⟨decodeEnd a, decodeEnd b⟩ ⟨decodeEnd c, decodeEnd d⟩).hi := by
    have hu' := hu.mono (by norm_num : 129 ≤ 192)
    have hv' := hv.mono (by omega : k ≤ 192)
    have huv := (hu.mul hv).mono (by omega : k + 1 ≤ 192)
    exact ⟨decodeEnd_mulLow hu' hv' huv, decodeEnd_mulHigh hu' hv' huv⟩
  obtain ⟨⟨h₁, h₂⟩, h₃, h₄⟩ := (hx.mul hy).mono hk
  obtain ⟨hrr₁, hrr₂⟩ := hproduct hx.1 hy.1
  obtain ⟨hii₁, hii₂⟩ := hproduct hx.2 hy.2
  obtain ⟨hri₁, hri₂⟩ := hproduct hx.1 hy.2
  obtain ⟨hir₁, hir₂⟩ := hproduct hx.2 hy.1
  rw [Ends.decode, Ends.mul, decodeEnd_subEnd (by rw [hrr₁, hii₂]; exact h₁.1), decodeEnd_subEnd (by rw [hrr₂, hii₁]; exact h₂.1),
    decodeEnd_addEnd (by rw [hri₁, hir₁]; exact h₃.1), decodeEnd_addEnd (by rw [hri₂, hir₂]; exact h₄.1), hrr₁, hii₂, hrr₂, hii₁, hri₁,
    hir₁, hri₂, hir₂]
  rfl

end

/-! ### Lists through recursors -/

/-- `zipWith`. -/
def zipRec {α β γ : Type} (f : α → β → γ) (l : List α) : List β → List γ :=
  List.rec (motive := fun _ => List β → List γ) (fun _ => [])
    (fun a _ ih bs => List.casesOn (motive := fun _ => List γ) bs [] fun b bs => f a b :: ih bs) l

/-- The entries of even index, or with `false` those of odd index. -/
def everyOther {α : Type} (l : List α) : Bool → List α :=
  List.rec (motive := fun _ => Bool → List α) (fun _ => []) (fun a _ ih b => cond b (a :: ih false) (ih true)) l

/-- `append`. -/
def appendRec {α : Type} (l m : List α) : List α := List.rec (motive := fun _ => List α) m (fun a _ ih => a :: ih) l

theorem zipRec_eq {α β γ : Type} (f : α → β → γ) : ∀ (l : List α) (m : List β), zipRec f l m = List.zipWith f l m
  | [], _ => rfl
  | _ :: _, [] => rfl
  | a :: l, b :: m => congrArg (f a b :: ·) (zipRec_eq f l m)

theorem everyOther_eq {α : Type} : ∀ l : List α, everyOther l true = evens l ∧ everyOther l false = evens l.tail
  | [] => by simp [everyOther, evens]
  | [a] => by simp [everyOther, evens]
  | a :: b :: l => by
    obtain ⟨heven, hodd⟩ := everyOther_eq l
    obtain ⟨heven', hodd'⟩ := everyOther_eq (b :: l)
    have hcons : evens (a :: b :: l) = a :: evens l := by simp [evens]
    refine ⟨?_, ?_⟩
    · rw [hcons]
      exact congrArg (a :: ·) hodd'
    · exact heven'

theorem appendRec_eq {α : Type} (l m : List α) : appendRec l m = l ++ m := by
  induction l with
  | nil => rfl
  | cons a l ih => exact congrArg (a :: ·) ih

/-! ### The sums -/

/-- One halving's sums, from those of the values of even index and the turned ones of those of odd index. -/
def joined (e t : List Ends) : List Ends := appendRec (zipRec Ends.add e t) (zipRec Ends.sub e t)

/-- `fourier` at 128 bits. -/
def fourierEnds (n : Nat) : (roots xs : List Ends) → List Ends :=
  Nat.rec (motive := fun _ => List Ends → List Ends → List Ends) (fun _ xs => xs)
    (fun _ ih roots xs => joined (ih (everyOther roots true) (everyOther xs true))
      (zipRec Ends.mul roots (ih (everyOther roots true) (everyOther xs false)))) n

theorem fourierEnds_succ (n : Nat) (roots xs : List Ends) : fourierEnds (n + 1) roots xs =
    List.zipWith Ends.add (fourierEnds n (evens roots) (evens xs))
        (List.zipWith Ends.mul roots (fourierEnds n (evens roots) (evens xs.tail))) ++
      List.zipWith Ends.sub (fourierEnds n (evens roots) (evens xs))
        (List.zipWith Ends.mul roots (fourierEnds n (evens roots) (evens xs.tail))) := by
  have hstep : fourierEnds (n + 1) roots xs = joined (fourierEnds n (everyOther roots true) (everyOther xs true))
      (zipRec Ends.mul roots (fourierEnds n (everyOther roots true) (everyOther xs false))) := rfl
  rw [hstep, joined, appendRec_eq, zipRec_eq, zipRec_eq, zipRec_eq, (everyOther_eq roots).1, (everyOther_eq xs).1,
    (everyOther_eq xs).2]

theorem evens_subset {α : Type} : ∀ l : List α, evens l ⊆ l
  | [] => by simp [evens]
  | [_] => by simp [evens]
  | a :: b :: l => List.cons_subset_cons a fun _ hx => List.mem_cons_of_mem b (evens_subset l hx)

theorem evens_map {α β : Type} (f : α → β) : ∀ l : List α, evens (l.map f) = (evens l).map f
  | [] => by simp [evens]
  | [_] => by simp [evens]
  | a :: b :: l => by simp only [List.map_cons, evens, evens_map f l]

/-- What holds of every entry made of two lists. -/
theorem forall_mem_zipWith {α β γ : Type} {f : α → β → γ} {P : γ → Prop} : ∀ {l : List α} {m : List β},
    (∀ a ∈ l, ∀ b ∈ m, P (f a b)) → ∀ c ∈ List.zipWith f l m, P c
  | [], _, _ => by simp
  | _ :: _, [], _ => by simp
  | a :: l, b :: m, h => by
    rw [List.zipWith_cons_cons, List.forall_mem_cons]
    exact ⟨h a List.mem_cons_self b List.mem_cons_self,
      forall_mem_zipWith fun x hx y hy => h x (List.mem_cons_of_mem _ hx) y (List.mem_cons_of_mem _ hy)⟩

/-- Entries made of two lists, decoded before or after. -/
theorem map_zipWith_of_mem {f : Ends → Ends → Ends} {g : Cval → Cval → Cval} : ∀ {l m : List Ends},
    (∀ a ∈ l, ∀ b ∈ m, (f a b).decode = g a.decode b.decode) →
    (List.zipWith f l m).map Ends.decode = List.zipWith g (l.map Ends.decode) (m.map Ends.decode)
  | [], _, _ => by simp
  | _ :: _, [], _ => by simp
  | a :: l, b :: m, h => by
    rw [List.zipWith_cons_cons, List.map_cons, List.map_cons, List.map_cons, List.zipWith_cons_cons,
      h a List.mem_cons_self b List.mem_cons_self,
      map_zipWith_of_mem fun x hx y hy => h x (List.mem_cons_of_mem _ hx) y (List.mem_cons_of_mem _ hy)]

/-- The sums and their bounds: each halving adds 3 to the exponent. -/
theorem fourierEnds_spec : ∀ (n : Nat) {k : Nat} {roots xs : List Ends}, (∀ r ∈ roots, r.decode.Inside 129) →
    (∀ x ∈ xs, x.decode.Inside k) → k + 3 * n ≤ 192 →
    (fourierEnds n roots xs).map Ends.decode = fourier 128 n (roots.map Ends.decode) (xs.map Ends.decode)
      ∧ ∀ x ∈ fourierEnds n roots xs, x.decode.Inside (k + 3 * n)
  | 0, _, _, _, _, hx, _ => ⟨rfl, hx⟩
  | n + 1, k, roots, xs, hr, hx, hk => by
    have hroots : ∀ r ∈ evens roots, r.decode.Inside 129 := fun r h => hr r (evens_subset roots h)
    obtain ⟨heven, hevenIn⟩ := fourierEnds_spec n (k := k) hroots (fun x h => hx x (evens_subset xs h)) (by omega)
    obtain ⟨hodd, hoddIn⟩ := fourierEnds_spec n (k := k) hroots
      (fun x h => hx x (List.mem_of_mem_tail (evens_subset xs.tail h))) (by omega)
    rw [fourierEnds_succ]
    generalize fourierEnds n (evens roots) (evens xs) = e at *
    generalize fourierEnds n (evens roots) (evens xs.tail) = o at *
    have hmul : ∀ r ∈ roots, ∀ x ∈ o, (r.mul x).decode = r.decode.mul 128 x.decode := fun r h x hx =>
      Ends.decode_mul (hoddIn x hx) (by omega) (hr r h)
    have hturned := map_zipWith_of_mem hmul
    have hturnedIn : ∀ x ∈ List.zipWith Ends.mul roots o, x.decode.Inside (k + 3 * n + 2) :=
      forall_mem_zipWith fun r h x hx => hmul r h x hx ▸ (hr r h).mul (hoddIn x hx)
    generalize List.zipWith Ends.mul roots o = t at *
    have hwide : ∀ x ∈ e, x.decode.Inside (k + 3 * n + 2) := fun x h => (hevenIn x h).mono (by omega)
    have hadd : ∀ x ∈ e, ∀ y ∈ t, (x.add y).decode = x.decode.add y.decode := fun x h y h' =>
      Ends.decode_add (hturnedIn y h') (by omega) (hwide x h)
    have hsub : ∀ x ∈ e, ∀ y ∈ t, (x.sub y).decode = x.decode.sub y.decode := fun x h y h' =>
      Ends.decode_sub (hturnedIn y h') (by omega) (hwide x h)
    refine ⟨?_, fun x h => ?_⟩
    · rw [List.map_append, map_zipWith_of_mem hadd, map_zipWith_of_mem hsub, heven, hturned, hodd, fourier, evens_map, evens_map,
        ← List.map_tail, evens_map]
    · rcases List.mem_append.1 h with h | h
      · exact forall_mem_zipWith (P := fun x => x.decode.Inside (k + 3 * n + 3))
          (fun x hx y hy => hadd x hx y hy ▸ (hwide x hx).add (hturnedIn y hy)) x h
      · exact forall_mem_zipWith (P := fun x => x.decode.Inside (k + 3 * n + 3))
          (fun x hx y hy => hsub x hx y hy ▸ (hwide x hx).sub (hturnedIn y hy)) x h

/-- `fourier` at 128 bits, by way of the natural numbers. -/
theorem fourier_eq_ends {n k : Nat} {roots xs : List Cval} (hr : ∀ r ∈ roots, r.Inside 129) (hx : ∀ x ∈ xs, x.Inside k)
    (hk : k + 3 * n ≤ 192) :
    fourier 128 n roots xs = (fourierEnds n (roots.map Cval.encode) (xs.map Cval.encode)).map Ends.decode := by
  have hdecode {i : Nat} (hi : i ≤ 192) {l : List Cval} (hl : ∀ z ∈ l, z.Inside i) : ∀ z ∈ l, z.encode.decode = z :=
    fun z hz => Cval.decode_encode ((hl z hz).mono hi)
  have hinside {i : Nat} (hi : i ≤ 192) {l : List Cval} (hl : ∀ z ∈ l, z.Inside i) :
      ∀ q ∈ l.map Cval.encode, q.decode.Inside i :=
    List.forall_mem_map.2 fun z hz => (hdecode hi hl z hz).symm ▸ hl z hz
  have hback {i : Nat} (hi : i ≤ 192) {l : List Cval} (hl : ∀ z ∈ l, z.Inside i) :
      (l.map Cval.encode).map Ends.decode = l := by
    rw [List.map_map]
    exact (List.map_congr_left (hdecode hi hl)).trans (List.map_id l)
  have hroots : 129 ≤ 192 := by norm_num
  have hvalues : k ≤ 192 := by omega
  rw [(fourierEnds_spec n (hinside hroots hr) (hinside hvalues hx) hk).1, hback hroots hr, hback hvalues hx]

end Sys2Proof.Machine
end

section
/-! PROOFS. Levels of an analysis that 06 R127 fixes: silence, a full-scale sinusoid centred on bin 256, and power means. The
kernel evaluates the enclosures once, at the first precision. -/

namespace Sys2Proof.Machine

/-! ### Spectra -/

theorem spectrum_silence {xs : List Int} (h : xs.all (· = 0) = true) : spectrum xs = List.replicate 425 (-14400) := if_pos h

/-- A precision at which both ends of every bin round to one level decides the spectrum. -/
theorem spectrumFrom_decided {xs levels : List Int} {n p : Nat}
    (h : (binPowers xs p).map (binEnds p (tenRoot p) (levelThreshold p (tenRoot p) (16384 - 14399))) =
      levels.map fun l => (l, l)) : spectrumFrom xs (n + 1) p = levels := by
  have hall : (levels.map fun l => (l, l)).all (fun e => e.1 = e.2) = true := by
    rw [List.all_map, List.all_eq_true]
    exact fun l _ => decide_eq_true rfl
  rw [spectrumFrom, h, if_pos hall, List.map_map]
  exact List.map_id levels

theorem spectrum_decided {xs levels : List Int} (hne : xs.all (· = 0) = false)
    (h : (binPowers xs 128).map (binEnds 128 (tenRoot 128) (levelThreshold 128 (tenRoot 128) (16384 - 14399))) =
      levels.map fun l => (l, l)) : spectrum xs = levels := by
  rw [spectrum, hne, if_neg Bool.false_ne_true]
  exact spectrumFrom_decided (n := 19) h

/-! ### 10^(1/2000) at 128 bits, root by root -/

/-- The enclosure of 10^(1/2000) at 128 bits. -/
def ten128 : Ival := ⟨340674357078054252394421599806526256925, 340674357078054252394421599806526256926⟩

theorem root_ten_2 : (Ival.ofInt 128 10).root 128 2 =
    ⟨1076067327063303206878105757264492625226, 1076067327063303206878105757264492625227⟩ := by decide +kernel

theorem root_ten_4 : (Ival.mk 1076067327063303206878105757264492625226 1076067327063303206878105757264492625227).root 128 2 =
    ⟨605117126694814710382135881913690764949, 605117126694814710382135881913690764951⟩ := by decide +kernel

theorem root_ten_8 : (Ival.mk 605117126694814710382135881913690764949 605117126694814710382135881913690764951).root 128 2 =
    ⟨453773829276335576613621156642628336771, 453773829276335576613621156642628336773⟩ := by decide +kernel

theorem root_ten_16 : (Ival.mk 453773829276335576613621156642628336771 453773829276335576613621156642628336773).root 128 2 =
    ⟨392951947027787751250059684897011355262, 392951947027787751250059684897011355264⟩ := by decide +kernel

theorem root_ten_80 : (Ival.mk 392951947027787751250059684897011355262 392951947027787751250059684897011355264).root 128 5 =
    ⟨350218791429997711767863729169909045999, 350218791429997711767863729169909046000⟩ := by decide +kernel

theorem root_ten_400 : (Ival.mk 350218791429997711767863729169909045999 350218791429997711767863729169909046000).root 128 5 =
    ⟨342246838463553650584439420869042728814, 342246838463553650584439420869042728815⟩ := by decide +kernel

theorem root_ten_2000 : (Ival.mk 342246838463553650584439420869042728814 342246838463553650584439420869042728815).root 128 5 =
    ten128 := by decide +kernel

theorem tenRoot_128 : tenRoot 128 = ten128 := by
  rw [tenRoot, root_ten_2, root_ten_4, root_ten_8, root_ten_16, root_ten_80, root_ten_400, root_ten_2000]

/-! ### Sums of samples that are 0 at every odd index -/

/-- 0, enclosed by itself. -/
def Cval.zero : Cval := ⟨⟨0, 0⟩, ⟨0, 0⟩⟩

theorem Cval.mul_zero (p : Nat) (a : Cval) : a.mul p .zero = .zero := by
  simp [Cval.mul, Ival.mul, Ival.sub, Ival.add, Ival.neg, ceilDiv, Cval.zero]

theorem Cval.add_zero (a : Cval) : a.add .zero = a := by
  simp [Cval.add, Ival.add, Cval.zero]

theorem Cval.sub_zero (a : Cval) : a.sub .zero = a := by
  simp [Cval.sub, Ival.sub, Ival.add, Ival.neg, Cval.zero]

theorem zipWith_replicate_right {α β γ : Type} (f : α → β → γ) (b : β) (l : List α) :
    List.zipWith f l (List.replicate l.length b) = l.map (f · b) := by
  induction l with
  | nil => rfl
  | cons a l ih => rw [List.length_cons, List.replicate_succ, List.zipWith_cons_cons, ih, List.map_cons]

theorem length_evens {α : Type} : ∀ l : List α, (evens l).length = (l.length + 1) / 2
  | [] => by simp [evens]
  | [_] => by simp [evens]
  | _ :: _ :: l => by
    rw [evens, List.length_cons, length_evens l, List.length_cons, List.length_cons]
    omega

theorem evens_zipWith {α β γ : Type} (f : α → β → γ) : ∀ (l : List α) (m : List β),
    evens (List.zipWith f l m) = List.zipWith f (evens l) (evens m)
  | [], _ => by simp [evens]
  | _ :: _, [] => by simp [evens]
  | [_], [_] => by simp [evens]
  | [_], _ :: _ :: _ => by simp [evens]
  | _ :: _ :: _, [_] => by simp [evens]
  | _ :: _ :: l, _ :: _ :: m => by
    simp only [List.zipWith_cons_cons, evens, evens_zipWith f l m]

theorem evens_replicate {α : Type} (a : α) (n : Nat) : evens (List.replicate n a) = List.replicate ((n + 1) / 2) a :=
  List.eq_replicate_iff.2 ⟨by rw [length_evens, List.length_replicate],
    fun _ hx => List.eq_of_mem_replicate (evens_subset _ hx)⟩

/-- Sums whose half of odd index is 0 are those of even index, twice over. -/
theorem fourier_of_odd_zero {p n : Nat} {roots xs : List Cval} (hr : roots.length = 2 ^ n)
    (he : (fourier p n (evens roots) (evens xs)).length = 2 ^ n)
    (ho : fourier p n (evens roots) (evens xs.tail) = List.replicate (2 ^ n) .zero) :
    fourier p (n + 1) roots xs = fourier p n (evens roots) (evens xs) ++ fourier p n (evens roots) (evens xs) := by
  have hturned : List.zipWith (Cval.mul p) roots (List.replicate (2 ^ n) .zero) = List.replicate (2 ^ n) .zero := by
    rw [← hr, zipWith_replicate_right]
    simp only [Cval.mul_zero, List.map_const']
  rw [fourier, ho, hturned, ← he, zipWith_replicate_right, zipWith_replicate_right]
  simp only [Cval.add_zero, Cval.sub_zero, List.map_id']

/-- The powers of the root that the halves take. -/
theorem length_evens_roots {roots : List Cval} {n : Nat} (h : roots.length = 2 ^ n) : (evens roots).length = 2 ^ (n - 1) := by
  rw [length_evens, h]
  cases n with
  | zero => rfl
  | succ n =>
    show (2 ^ (n + 1) + 1) / 2 = 2 ^ n
    rw [pow_succ]
    omega

/-- The sums of zeros. -/
theorem fourier_zeros (p n : Nat) {roots : List Cval} (hr : roots.length = 2 ^ (n - 1)) :
    fourier p n roots (List.replicate (2 ^ n) .zero) = List.replicate (2 ^ n) .zero := by
  induction n generalizing roots with
  | zero => rfl
  | succ n ih =>
    have hpow : 2 ^ (n + 1) = 2 ^ n * 2 := pow_succ 2 n
    have heven : evens (List.replicate (2 ^ (n + 1)) Cval.zero) = List.replicate (2 ^ n) .zero := by
      have hhalf : (2 ^ (n + 1) + 1) / 2 = 2 ^ n := by omega
      rw [evens_replicate, hhalf]
    have hodd : evens (List.replicate (2 ^ (n + 1)) Cval.zero).tail = List.replicate (2 ^ n) .zero := by
      have hhalf : (2 ^ (n + 1) - 1 + 1) / 2 = 2 ^ n := by omega
      rw [List.tail_replicate, evens_replicate, hhalf]
    have hzeros := ih (length_evens_roots hr)
    rw [fourier_of_odd_zero (n := n) hr (by rw [heven, hzeros, List.length_replicate]) (by rw [hodd, hzeros]), heven, hzeros,
      List.replicate_append_replicate, ← Nat.two_mul, Nat.mul_comm, ← hpow]

theorem length_fourier (p n : Nat) {roots xs : List Cval} (hr : roots.length = 2 ^ (n - 1)) (hx : xs.length = 2 ^ n) :
    (fourier p n roots xs).length = 2 ^ n := by
  induction n generalizing roots xs with
  | zero => exact hx
  | succ n ih =>
    have hpow : 2 ^ (n + 1) = 2 ^ n * 2 := pow_succ 2 n
    have heven := ih (xs := evens xs) (length_evens_roots hr) (by rw [length_evens, hx]; omega)
    have hodd := ih (xs := evens xs.tail) (length_evens_roots hr) (by rw [length_evens, List.length_tail, hx]; omega)
    rw [Nat.add_sub_cancel] at hr
    rw [fourier]
    simp only [List.length_append, List.length_zipWith, heven, hodd, hr, Nat.min_self, hpow]
    omega

theorem length_powers (p : Nat) (z : Cval) : ∀ (n : Nat) (w : Cval), (powers p z n w).length = n
  | 0, _ => rfl
  | n + 1, w => by rw [powers, List.length_cons, length_powers p z n]

theorem length_unitRoots (p : Nat) : (unitRoots p).length = 512 := length_powers p _ 512 _

theorem length_windowed {p : Nat} {roots : List Cval} {xs : List Int} (hr : roots.length = 512) (hx : xs.length = 1024) :
    (windowed p roots xs).length = 2 ^ 10 := by
  rw [windowed, List.length_zipWith, List.length_append, List.length_map, List.length_map, hr, hx]
  rfl

/-- A sample of 0 is 0 in the window. -/
theorem windowed_odd_zero {p : Nat} {roots : List Cval} {xs : List Int} (hr : roots.length = 512)
    (h : evens xs.tail = List.replicate 512 0) : evens (windowed p roots xs).tail = List.replicate (2 ^ 9) .zero := by
  have hcosines : (evens (roots.map (·.re) ++ roots.map (·.re.neg)).tail).length = 512 := by
    rw [length_evens, List.length_tail, List.length_append, List.length_map, List.length_map, hr]
  have hsample (c : Ival) : (⟨(((Ival.ofInt p 1).sub c).scale 0).divNat 2, .ofInt p 0⟩ : Cval) = .zero := by
    simp [Ival.scale, Ival.divNat, ceilDiv, Ival.ofInt, Cval.zero]
  have hpow : 2 ^ 9 = 512 := rfl
  rw [windowed, List.tail_zipWith, evens_zipWith, hpow, h, ← hcosines, zipWith_replicate_right]
  simp only [hsample, List.map_const', hcosines]

/-- The powers of samples that are 0 at every odd index, from the sums of the others. -/
theorem binPowers_of_odd_zero {xs : List Int} (hx : xs.length = 1024) (h : evens xs.tail = List.replicate 512 0) (p : Nat) :
    binPowers xs p = (((fourier p 9 (evens (unitRoots p)) (evens (windowed p (unitRoots p) xs))).drop 2).take 425).map fun z =>
      ((z.re.mul p z.re).add (z.im.mul p z.im)).divNat (2 ^ 62) := by
  have hroots : (evens (unitRoots p)).length = 2 ^ (9 - 1) := length_evens_roots (n := 9) (length_unitRoots p)
  have hlen : (fourier p 9 (evens (unitRoots p)) (evens (windowed p (unitRoots p) xs))).length = 2 ^ 9 := by
    refine length_fourier p 9 hroots ?_
    rw [length_evens, length_windowed (length_unitRoots p) hx]
    rfl
  have htwice := fourier_of_odd_zero (n := 9) (length_unitRoots p) hlen (by
    rw [windowed_odd_zero (length_unitRoots p) h]
    exact fourier_zeros p 9 hroots)
  rw [binPowers, htwice, List.drop_append_of_le_length (by rw [hlen]; decide), List.take_append_of_le_length (by
    rw [List.length_drop, hlen]
    decide)]

/-! ### A full-scale sinusoid centred on bin 256 -/

/-- 1024 samples of the sinusoid. -/
def sinusoid : List Int := (List.range 1024).map fun i => if i % 4 = 0 then 8388608 else if i % 4 = 2 then -8388608 else 0

/-- Its levels: full scale at bin 256, what the window leaves at its neighbours. -/
def sinusoidLevels : List Int := List.replicate 253 (-14400) ++ [-602, 0, -602] ++ List.replicate 169 (-14400)

/-- The samples of even index, in the window. -/
def sinusoidSamples : List Cval := evens (windowed 128 (unitRoots 128) sinusoid)

/-- The powers of its bins at 128 bits. -/
def sinusoidPowers : List Ival :=
  (((fourierEnds 9 ((evens (unitRoots 128)).map Cval.encode) (sinusoidSamples.map Cval.encode)).drop 2).take 425).map fun q =>
    ((q.decode.re.mul 128 q.decode.re).add (q.decode.im.mul 128 q.decode.im)).divNat (2 ^ 62)

def Ival.inside (k : Nat) (x : Ival) : Bool := Nat.ble x.lo.natAbs (Nat.pow 2 k) && Nat.ble x.hi.natAbs (Nat.pow 2 k)
def Cval.inside (k : Nat) (z : Cval) : Bool := z.re.inside k && z.im.inside k

/-- Every root of unity is inside 2. -/
def rootsInside : Bool := (unitRoots 128).all (Cval.inside 129)

/-- Every sample of even index is inside 2^25. -/
def samplesInside : Bool := sinusoidSamples.all (Cval.inside 153)

/-- Every power of the sinusoid is enclosed in order. -/
def powersOrdered : Bool := sinusoidPowers.all fun x => decide (x.lo ≤ x.hi)

/-- The levels of the sinusoid are decided at 128 bits. -/
def levelsDecided : Bool :=
  decide (sinusoidPowers.map (binEnds 128 ten128 (levelThreshold 128 ten128 (16384 - 14399))) =
    sinusoidLevels.map fun l => (l, l))

/-- The bounds and the order go before the levels so that the kernel has roots, samples and powers as numbers when it comes to
them. -/
theorem sinusoid_evaluates : (rootsInside && (samplesInside && (powersOrdered && levelsDecided))) = true := by decide +kernel

theorem Inside.of_natAbs {k : Nat} {x : Int} (h : Nat.ble x.natAbs (Nat.pow 2 k) = true) : Inside k x := by
  have hle : x.natAbs ≤ 2 ^ k := Nat.le_of_ble_eq_true h
  have habs : |x| ≤ 2 ^ k := by
    rw [Int.abs_eq_natAbs]
    exact_mod_cast hle
  exact abs_le.1 habs

theorem Cval.Inside.of_inside {k : Nat} {z : Cval} (h : z.inside k = true) : z.Inside k := by
  obtain ⟨hre, him⟩ := Bool.and_eq_true_iff.1 h
  obtain ⟨h₁, h₂⟩ := Bool.and_eq_true_iff.1 hre
  obtain ⟨h₃, h₄⟩ := Bool.and_eq_true_iff.1 him
  exact ⟨⟨.of_natAbs h₁, .of_natAbs h₂⟩, .of_natAbs h₃, .of_natAbs h₄⟩

theorem sinusoidPowers_eq (hr : rootsInside = true) (hs : samplesInside = true) : binPowers sinusoid 128 = sinusoidPowers := by
  have hodd : evens sinusoid.tail = List.replicate 512 0 := by decide +kernel
  have hroots : ∀ r ∈ evens (unitRoots 128), r.Inside 129 := fun r h =>
    .of_inside (List.all_eq_true.1 hr r (evens_subset _ h))
  have hsamples : ∀ x ∈ sinusoidSamples, x.Inside 153 := fun x h => .of_inside (List.all_eq_true.1 hs x h)
  rw [binPowers_of_odd_zero (by rw [sinusoid, List.length_map, List.length_range]) hodd, ← sinusoidSamples,
    fourier_eq_ends hroots hsamples (by norm_num), ← List.map_drop, ← List.map_take, List.map_map]
  rfl

theorem spectrum_sinusoid : spectrum sinusoid = sinusoidLevels := by
  have hne : sinusoid.all (· = 0) = false := by decide +kernel
  obtain ⟨hroots, hrest⟩ := Bool.and_eq_true_iff.1 sinusoid_evaluates
  obtain ⟨hsamples, hrest⟩ := Bool.and_eq_true_iff.1 hrest
  obtain ⟨-, hlevels⟩ := Bool.and_eq_true_iff.1 hrest
  refine spectrum_decided hne ?_
  rw [tenRoot_128, sinusoidPowers_eq hroots hsamples]
  exact of_decide_eq_true hlevels

/-! ### Power means -/

theorem meanLevel_silence : meanLevel (List.replicate 425 (-14400)) = -14400 := by decide +kernel

theorem meanLevel_even : meanLevel (List.replicate 425 (-100)) = -100 := by decide +kernel

theorem meanLevel_single : meanLevel ([0] ++ List.replicate 424 (-14400)) = -2628 := by decide +kernel

theorem meanLevel_sinusoid : meanLevel sinusoidLevels = -2452 := by decide +kernel

end Sys2Proof.Machine
end

section
/-! PROOFS. O46, from the stages of an analysis and the levels of its spectra. -/

namespace Sys2Proof.Machine

/-- The analysis is over with its last stage. -/
theorem foldl_tailWorks_progress (s : State) :
    (tailWorks.foldl (fun (x : State) w => (x.doing w).perform w) s).guard.progress = none := by
  have hlast : tailWorks = ((List.range Config.poolSize).map .hold ++ (List.range Config.microphones).map .quiet
      ++ [.deviceQuiet]) ++ [Work.betaRequest] := (List.append_assoc _ [Work.deviceQuiet] [Work.betaRequest]).symm
  rw [hlast]
  exact foldl_stages_progress _ s

/-- With the guard disabled the first four stages count the analysis and clear the persistence counts. -/
theorem exec_analysis_disabled {s : State} (h : s.due .analysis) (hm : s.mode.mode = .active)
    (he : s.guard.settings.enable = false) (hl : s.mics.length = 48) : exec (.analysis true) s =
    .next ((((s.doing .analysis).setGuard { s.guard with
        analyses := s.guard.analyses + 1
        progress := some ⟨List.replicate 48 none, [], false, s.guard.beta⟩ }).setMics
          (s.mics.map Mic.unpersist)).setTodo (tailWorks ++ s.todo.erase .analysis)) := by
  have hnone : (s.doing .analysis).candidates = List.replicate 48 none := by
    have hcandidates := candidates_disabled (s := s.doing .analysis) he
    rwa [doing_mics, hl] at hcandidates
  rw [exec_analysis_staged h hm, State.analysed, fourStages_disabled (s := s.doing .analysis) he hl, State.openAnalysis, hnone]
  rfl

section
variable {s : State} {m b : Nat} (hm : m < s.mics.length) (hb : s.candidate m = some b)
include hm hb

/-- A candidate whose count does not come to the setting. -/
theorem persistMic_counts (h : (s.mic m).persisted b ≠ s.guard.settings.persistence) (cs : List (Nat × Nat)) :
    persistMic (s, cs) m = (s.setMics (s.mics.set m
      { s.mic m with persistence := (s.mic m).persisted b, persistenceBin := b }), cs) := by
  rw [persistMic_some hm hb, if_neg h, onMic_eq_set hm, persist_some]

/-- A candidate whose count comes to the setting is confirmed. -/
theorem persistMic_confirms (h : (s.mic m).persisted b = s.guard.settings.persistence) (cs : List (Nat × Nat)) :
    persistMic (s, cs) m = ((s.onMic m (Mic.persist (some b))).confirm m b, cs ++ [(m, b)]) := by
  rw [persistMic_some hm hb, if_pos h]

omit hb in
theorem confirm_persisted_mics : ((s.onMic m (Mic.persist (some b))).confirm m b).mics =
    s.mics.set m { s.mic m with persistence := 0, persistenceBin := b, quiet := 0 } := by
  rw [confirm_mics (by simpa using hm), onMic_mic_same hm, persist_some, onMic_eq_set hm, State.setMics_mics, List.set_set]

end

/-- Settles O46: the work whole and in stages, its four stages one by one, and the levels of 06 R127. -/
theorem analysisRuns : Obligations.AnalysisRuns := by
  refine ⟨fun s staged h hl => ⟨exec_analysis_idle h staged, fun hm he => exec_analysis_disabled h hm he hl, fun hm =>
      ⟨exec_analysis_staged h hm, exec_analysis_whole h hm, foldl_tailWorks_progress (s.doing .analysis).analysed⟩⟩,
    fun s hl => ⟨rfl, rfl, rfl, ⟨s.candidates, rfl⟩, fun m hm => openAnalysis_candidate (by omega)⟩,
    fun threshold floor xs bin level hlevel hb hlow hall => candidateBin_eq threshold floor hlevel hb hlow hall,
    window_eq, spectrum_silence (by decide +kernel), spectrum_sinusoid, meanLevel_silence, meanLevel_even, meanLevel_single,
    meanLevel_sinusoid, fun s cs m hm hl => ?_, fun s cs => ⟨arbiterOrder_perm s cs, arbiterOrder_pairwise s⟩, by decide⟩
  have hin : m < s.mics.length := by omega
  refine ⟨fun h => ?_, fun b hb => ⟨fun hc => persistMic_counts hin hb hc cs, fun hc => ?_⟩⟩
  · rw [persistMic_none h, onMic_eq_set hin]
    rfl
  · rw [persistMic_confirms hin hb hc]
    exact ⟨rfl, confirm_persisted_mics hin, rfl, confirm_guard .., (confirm_todo b).trans rfl, (confirm_ram b).trans rfl⟩

end Sys2Proof.Machine
end

section
/-! PROOFS. The word clock detector (07 R151, R153, R156; log 14). -/

namespace Sys2Proof.Machine

/-! ### Intervals (07 R151) -/

theorem goodInterval_iff {i : Interval} : goodInterval i = true ↔ 9 * i.den ≤ 10 * i.num ∧ 10 * i.num ≤ 11 * i.den := by
  simp [goodInterval]

theorem wildInterval_iff {i : Interval} : wildInterval i = true ↔ 2 * i.num < i.den ∨ 3 * i.den < 2 * i.num := by
  simp [wildInterval]

/-! ### The detector (07 R151, R153, R156) -/

section
variable {c : Clock} {i : Interval}

theorem see_present (hp : c.present = true) : c.see i = if wildInterval i then c.becomeAbsent else c := if_pos hp

theorem see_absent (hp : c.present = false) : c.see i =
    if goodInterval i then if 64 ≤ c.good + 1 then c.becomePresent else { c with good := c.good + 1 }
    else { c with good := 0 } := if_neg (Bool.eq_false_iff.1 hp)

/-- A good interval before the last of the run. -/
theorem see_counts (hp : c.present = false) (hi : goodInterval i = true) (hg : c.good < 63) :
    c.see i = { c with good := c.good + 1 } := by
  rw [see_absent hp, if_pos hi, if_neg (by omega)]

/-- The good interval that ends the run. -/
theorem see_last (hp : c.present = false) (hi : goodInterval i = true) (hg : c.good = 63) : c.see i = c.becomePresent := by
  rw [see_absent hp, if_pos hi, if_pos (by omega)]

theorem foldl_see_counts : ∀ {is : List Interval} {c : Clock}, (∀ i ∈ is, goodInterval i = true) → c.present = false →
    c.good + is.length < 64 → is.foldl Clock.see c = { c with good := c.good + is.length }
  | [], _, _, _, _ => rfl
  | i :: is, c, hi, hp, hl => by
    rw [List.length_cons] at hl
    rw [List.foldl_cons, see_counts hp (hi i (List.mem_cons_self ..)) (by omega),
      foldl_see_counts (c := { c with good := c.good + 1 }) (fun j hj => hi j (List.mem_cons_of_mem _ hj)) hp
        (by show c.good + 1 + is.length < 64; omega),
      List.length_cons, Nat.add_right_comm, Nat.add_assoc]

/-- 64 good intervals in succession: 63 that count, and the one that ends the run. -/
theorem foldl_see_present {is : List Interval} (hi : ∀ i ∈ is, goodInterval i = true) (hp : c.present = false)
    (hg : c.good = 0) (hl : is.length = 64) : is.foldl Clock.see c = c.becomePresent := by
  have hne : is ≠ [] := List.ne_nil_of_length_pos (hl ▸ Nat.zero_lt_succ 63)
  have hlen : is.dropLast.length = 63 := by rw [List.length_dropLast, hl]
  have hcounts : is.dropLast.foldl Clock.see c = { c with good := 63 } := by
    rw [foldl_see_counts (fun i h => hi i (List.mem_of_mem_dropLast h)) hp (by omega), hg, hlen]
  rw [← List.dropLast_append_getLast hne, List.foldl_append, hcounts]
  exact see_last hp (hi _ (List.getLast_mem hne)) rfl

theorem becomeAbsent_absent (hp : c.present = false) : c.becomeAbsent = { c with good := 0 } := by
  rw [Clock.becomeAbsent, if_neg (Bool.eq_false_iff.1 hp), ← hp]

/-- INTERNAL and HOLDOVER stand (07 R151). -/
theorem becomeAbsent_stands (hp : c.present = true) (h : c.state = .internal ∨ c.state = .holdover) :
    c.becomeAbsent = { c with present := false, good := 0 } := by
  rw [Clock.becomeAbsent, if_pos hp]
  rcases h with h | h <;> rw [h]

/-- The word clock was followed, or held to be followed again (07 R153). -/
theorem becomeAbsent_holdover (hp : c.present = true) (h : c.state = .following ∨ c.state = .held) :
    c.becomeAbsent = { c with present := false, good := 0, state := .holdover } := by
  rw [Clock.becomeAbsent, if_pos hp]
  rcases h with h | h <;> rw [h]

/-- A resynchronization is given up, and its ramp turns (07 R156). -/
theorem becomeAbsent_resync (hp : c.present = true) (h : c.state = .resync) : c.becomeAbsent =
    { c with
      present := false, good := 0, destination := none, turnUp := true
      state := if c.destination = some .wordClock then .holdover else .internal } := by
  rw [Clock.becomeAbsent, if_pos hp, h]
  simp only [beq_iff_eq]

end

/-! ### The commands -/

section
variable {s : State} (hr : s.resetHeld = false)
include hr

theorem exec_wordClockAbsent_silence : exec (.wordClockAbsent .silence) s = .next (s.setClock s.clock.becomeAbsent) := by
  rw [exec, execWordClockAbsent, released_of hr]

theorem exec_wordClockAbsent_interval (i : Interval) :
    exec (.wordClockAbsent (.interval i)) s = .next (s.setClock (s.clock.see i)) := by
  rw [exec, execWordClockAbsent, released_of hr]

theorem exec_wordClockPresent (is : List Interval) :
    exec (.wordClockPresent is) s = .next (s.setClock (is.foldl Clock.see s.clock)) := by
  rw [exec, execWordClockPresent, released_of hr]

/-- One interval says the same to the detector by either command. -/
theorem exec_interval {i : Interval} {c : Clock} (h : s.clock.see i = c) :
    exec (.wordClockPresent [i]) s = .next (s.setClock c) ∧ exec (.wordClockAbsent (.interval i)) s = .next (s.setClock c) := by
  rw [exec_wordClockPresent hr, exec_wordClockAbsent_interval hr, List.foldl_cons, List.foldl_nil, h]
  exact ⟨rfl, rfl⟩

/-- An absence by silence, and by an interval outside 0.5 to 1.5 crystal periods. -/
theorem exec_absence (hp : s.clock.present = true) {c : Clock} (h : s.clock.becomeAbsent = c) :
    exec (.wordClockAbsent .silence) s = .next (s.setClock c)
      ∧ ∀ i : Interval, (2 * i.num < i.den ∨ 3 * i.den < 2 * i.num) →
        exec (.wordClockAbsent (.interval i)) s = .next (s.setClock c) := by
  refine ⟨by rw [exec_wordClockAbsent_silence hr, h], fun i hi => ?_⟩
  rw [exec_wordClockAbsent_interval hr, see_present hp, if_pos (wildInterval_iff.2 hi), h]

end

/-- Settles O55: an absence by the clock state, one interval by the detector's state, and the run of good intervals by induction
on its length. -/
theorem theWordClockIsJudged : Obligations.TheWordClockIsJudged := by
  intro s hr
  refine ⟨fun hp => ⟨fun hs => ?stands, fun hs => ?holdover, fun hs hd => ?toWordClock, fun hs hd => ?toCrystal,
      fun i hlow hhigh => ?tame⟩,
    fun hp => ⟨?silence, fun i hi => ?bad, fun i hlow hhigh hg => ?counts⟩,
    fun hp hg is his => ⟨fun hl => ?present, fun hl => ?absent⟩⟩
  case stands => exact exec_absence hr hp (becomeAbsent_stands hp hs)
  case holdover => exact exec_absence hr hp (becomeAbsent_holdover hp hs)
  case toWordClock => exact exec_absence hr hp ((becomeAbsent_resync hp hs).trans (by rw [if_pos hd]))
  case toCrystal => exact exec_absence hr hp ((becomeAbsent_resync hp hs).trans (by rw [hd, if_neg (by decide)]))
  case tame =>
    have htame : ¬ wildInterval i = true := fun hw => by
      rcases wildInterval_iff.1 hw with h | h <;> omega
    exact (exec_interval hr ((see_present hp).trans (if_neg htame))).symm
  case silence => rw [exec_wordClockAbsent_silence hr, becomeAbsent_absent hp]
  case bad => exact exec_interval hr ((see_absent hp).trans (if_neg (mt goodInterval_iff.1 hi)))
  case counts => exact exec_interval hr (see_counts hp (goodInterval_iff.2 ⟨hlow, hhigh⟩) hg)
  all_goals
    have hgood : ∀ i ∈ is, goodInterval i = true := fun i hi => by
      obtain ⟨hlow, hhigh, -⟩ := his i hi
      exact goodInterval_iff.2 ⟨hlow, hhigh⟩
    rw [exec_wordClockPresent hr]
  case present => rw [foldl_see_present hgood hp hg hl, Clock.becomePresent]
  case absent => rw [foldl_see_counts hgood hp (by omega), hg, Nat.zero_add]

end Sys2Proof.Machine
end

section
/-! PROOFS. The sample clock's operations: CLOCK HOLDOVER told, requests that wait, the resync ramp's work (07 R152 to R157; log
20). -/

namespace Sys2Proof.Machine

/-! ### CLOCK HOLDOVER is told (07 R152, R153; log 20) -/

theorem holdsOver_iff {c : Clock} : c.holdsOver = true ↔ c.external = true ∧ (c.state = .holdover ∨ c.state = .held
    ∨ (c.state = .resync ∧ c.destination = some .wordClock)) := by
  rw [Clock.holdsOver, Bool.and_eq_true]
  refine and_congr_right fun _ => ?_
  cases c.state <;> simp

/-- The attention block has been told of CLOCK HOLDOVER as the clock stands. -/
def State.toldHoldover (s : State) : Prop := (s.att.notice 10).pending = s.clock.holdsOver

theorem judged_told {a : Attention} {i : Nat} {holds : Bool} (h : (a.notice i).pending = holds) (d f : Word32) :
    a.judged i holds d f = a := by
  unfold Attention.judged
  rw [h]
  cases holds <;> rfl

theorem judgeClock_eq (s : State) : s.judgeClock = s.setAtt (s.att.judged 10 s.clock.holdsOver 0 s.frame) := judge_eq ..

theorem judgeClock_of_told {s : State} (h : s.toldHoldover) : s.judgeClock = s := by
  rw [judgeClock_eq, judged_told h, setAtt_self]

section
variable (s : State)

@[simp] theorem judgeClock_clock : s.judgeClock.clock = s.clock := by rw [judgeClock_eq]; rfl
@[simp] theorem judgeClock_todo : s.judgeClock.todo = s.todo := judge_todo ..
@[simp] theorem judgeClock_resetHeld : s.judgeClock.resetHeld = s.resetHeld := by rw [judgeClock_eq]; rfl

/-- The clock may be written before or after CLOCK HOLDOVER is told, when it holds of both or of neither. -/
theorem judgeClock_setClock {c : Clock} (h : c.holdsOver = s.clock.holdsOver) :
    (s.setClock c).judgeClock = s.judgeClock.setClock c := by
  rw [judgeClock_eq, judgeClock_eq, State.setClock_clock, h]
  rfl

theorem judgeClock_doing (w : Work) : (s.doing w).judgeClock = s.judgeClock.doing w := by
  rw [judgeClock_eq, judgeClock_eq]
  rfl

theorem judgeClock_notice_ne {i : Nat} (h : i ≠ 10) : s.judgeClock.att.notice i = s.att.notice i := by
  rw [judgeClock_eq]
  exact judged_notice_ne s.att h ..

end

section
variable {s : State}

theorem judgeClock_notice_ends (h : s.clock.holdsOver = false) :
    s.judgeClock.att.notice 10 = { s.att.notice 10 with pending := false } := by
  rw [judgeClock_eq, h]
  exact judged_notice_false s.att 10 0 s.frame

theorem judgeClock_notice_starts (hl : s.att.notices.length = 14) (h : s.clock.holdsOver = true)
    (hp : (s.att.notice 10).pending = false) :
    s.judgeClock.att.notice 10 = ⟨true, min 255 ((s.att.notice 10).count + 1), 0, s.frame⟩ := by
  rw [judgeClock_eq, h, State.setAtt_att, judged_notice_true (by omega), if_neg (Bool.eq_false_iff.1 hp)]
  rfl

theorem judgeClock_told (hl : s.att.notices.length = 14) : s.judgeClock.toldHoldover := by
  rw [State.toldHoldover, judgeClock_clock]
  by_cases ht : s.toldHoldover
  · rw [judgeClock_of_told ht, ht]
  · cases h : s.clock.holdsOver with
    | false => rw [judgeClock_notice_ends h]
    | true => rw [judgeClock_notice_starts hl h (Bool.eq_false_iff.2 fun hp => ht (hp.trans h.symm))]

theorem judgeClock_judgeClock (hl : s.att.notices.length = 14) : s.judgeClock.judgeClock = s.judgeClock :=
  judgeClock_of_told (judgeClock_told hl)

end

/-! ### Steps of the resync ramp (07 R155, R156, R160) -/

theorem rampToward_of_ne {f stop : Nat} (h : f ≠ stop) : rampToward f stop = some ⟨f, stop, 64, 0⟩ := if_neg h

section
variable {c : Clock}

theorem stepRamp_some {g : Glide} (h : c.ramp = some g) : c.stepRamp = { c with factor := g.next.1.toNat, ramp := g.next.2 } := by
  rw [Clock.stepRamp, h]

theorem stepRamp_none (h : c.ramp = none) : c.stepRamp = c := by rw [Clock.stepRamp, h]

theorem stepRamp_apart (c : Clock) : c.stepRamp = { c with factor := c.stepRamp.factor, ramp := c.stepRamp.ramp } := by
  cases h : c.ramp with
  | none => rw [stepRamp_none h]
  | some g => rw [stepRamp_some h]

theorem stepRamp_state (c : Clock) : c.stepRamp.state = c.state := by rw [stepRamp_apart]
theorem stepRamp_holdsOver (c : Clock) : c.stepRamp.holdsOver = c.holdsOver := by rw [stepRamp_apart]; rfl

theorem rampWork_turns (h : c.turnUp = true) : c.rampWork = c.stepRamp.turn := if_pos h

theorem rampWork_steps (h : c.turnUp = false) : c.rampWork =
    if c.state = .resync ∧ c.stepRamp.ramp = none then c.stepRamp.switch else c.stepRamp := by
  rw [Clock.rampWork, if_neg (Bool.eq_false_iff.1 h), stepRamp_state]
  exact if_congr (by simp) rfl rfl

/-- Only RESYNC is left by the ramp's work. -/
theorem rampWork_state (h : c.state ≠ .resync) : c.rampWork.state = c.state := by
  cases ht : c.turnUp with
  | true => rw [rampWork_turns ht]; exact stepRamp_state c
  | false => rw [rampWork_steps ht, if_neg fun hr => h hr.1, stepRamp_state]

theorem switch_atZero (h : c.factor = 0) : c.switch = { c with
    state := if c.destination = some .wordClock then .following else .internal
    destination := none, ramp := some ⟨0, 32768, 64, 0⟩, turnUp := false } := by
  rw [Clock.switch, Clock.turn, h]
  simp only [beq_iff_eq]
  rfl

end

/-! ### Requests that wait (07 R152, R154) -/

/-- The source taken, and what is asked of the clock. -/
def Clock.requests (c : Clock) : Bool × Option Bool × Bool := (c.external, c.newSource, c.newResync)

theorem stepRamp_requests (c : Clock) : c.stepRamp.requests = c.requests := by rw [stepRamp_apart]; rfl

theorem rampWork_requests (c : Clock) : c.rampWork.requests = c.requests := by
  refine Eq.trans ?_ (stepRamp_requests c)
  cases h : c.turnUp with
  | true => rw [rampWork_turns h]; rfl
  | false =>
    rw [rampWork_steps h]
    split
    · rfl
    · rfl

theorem requests_iff {c d : Clock} : c.requests = d.requests ↔
    c.external = d.external ∧ c.newSource = d.newSource ∧ c.newResync = d.newResync := by
  simp [Clock.requests]

/-- The clock with these requests waiting; none are once they are taken. -/
def Clock.asking (source : Option Bool) (resync : Bool) (c : Clock) : Clock := { c with newSource := source, newResync := resync }

/-- The state with these requests of the clock waiting. -/
def State.asking (source : Option Bool) (resync : Bool) (s : State) : State := s.setClock (s.clock.asking source resync)

theorem asking_of_no_resync {c : Clock} (h : c.newResync = false) (source : Option Bool) :
    c.asking source false = { c with newSource := source } := by rw [Clock.asking, ← h]

section
variable (source : Option Bool) (resync : Bool)

theorem stepRamp_asking (c : Clock) : (c.asking source resync).stepRamp = c.stepRamp.asking source resync := by
  cases h : c.ramp with
  | none => rw [stepRamp_none h, stepRamp_none (c := c.asking source resync) h]
  | some g => rw [stepRamp_some h, stepRamp_some (c := c.asking source resync) h]; rfl

theorem rampWork_asking (c : Clock) : (c.asking source resync).rampWork = c.rampWork.asking source resync := by
  cases h : c.turnUp with
  | true => rw [rampWork_turns h, rampWork_turns (c := c.asking source resync) h, stepRamp_asking]; rfl
  | false =>
    rw [rampWork_steps h, rampWork_steps (c := c.asking source resync) h, stepRamp_asking]
    exact (apply_ite (Clock.asking source resync) (c.state = .resync ∧ c.stepRamp.ramp = none) c.stepRamp.switch c.stepRamp).symm

theorem changeSource_asking (x : Bool) (c : Clock) :
    (c.asking source resync).changeSource x = (c.changeSource x).asking source resync := by
  unfold Clock.changeSource Clock.asking
  cases c.state with
  | internal => cases c.present <;> rfl
  | following => rfl
  | holdover => rfl
  | held => rfl
  | resync => rfl

theorem judgeClock_asking (s : State) : (s.asking source resync).judgeClock = s.judgeClock.asking source resync := by
  rw [State.asking, judgeClock_setClock s (c := s.clock.asking source resync) rfl, State.asking, judgeClock_clock]

end

/-! ### The ramp's step before a request (07 R155, R156) -/

theorem doing_comm (s : State) (v w : Work) : (s.doing v).doing w = (s.doing w).doing v := by
  simp only [State.doing, State.setTodo_todo, List.erase_comm v w]
  rfl

theorem resyncStep_doing (s : State) (w : Work) : (s.doing w).resyncStep = s.resyncStep.doing w :=
  judgeClock_doing (s.setClock s.clock.rampWork) w

theorem resyncStep_asking (source : Option Bool) (resync : Bool) (s : State) :
    (s.asking source resync).resyncStep = s.resyncStep.asking source resync := by
  have hclock : (s.asking source resync).setClock (s.asking source resync).clock.rampWork =
      (s.setClock s.clock.rampWork).asking source resync := by
    show s.setClock (s.clock.asking source resync).rampWork = s.setClock (s.clock.rampWork.asking source resync)
    rw [rampWork_asking]
  rw [State.resyncStep, hclock, judgeClock_asking, State.resyncStep]

section
variable {s : State}

theorem settleRamp_of_not_mem (h : .resyncRamp ∉ s.todo) : s.settleRamp = s := by
  rw [State.settleRamp, State.onDue, State.onDue, if_neg h, if_neg h, ite_self]

theorem settleRamp_resync (h : .resyncRamp ∈ s.todo) (hs : s.clock.state = .resync) :
    s.settleRamp = (s.doing .resyncRamp).setClock s.clock.stepRamp := by
  rw [State.settleRamp, if_pos hs, State.onDue, if_pos h]
  rfl

theorem settleRamp_steps (h : .resyncRamp ∈ s.todo) (hs : s.clock.state ≠ .resync) :
    s.settleRamp = (s.doing .resyncRamp).resyncStep := by
  rw [State.settleRamp, if_neg hs, State.onDue, if_pos h]
  rfl

/-- What the step before a request can be. -/
theorem settleRamp_cases (s : State) : (.resyncRamp ∉ s.todo ∧ s.settleRamp = s)
    ∨ (.resyncRamp ∈ s.todo ∧ s.clock.state = .resync ∧ s.settleRamp = (s.doing .resyncRamp).setClock s.clock.stepRamp)
    ∨ (.resyncRamp ∈ s.todo ∧ s.clock.state ≠ .resync ∧ s.settleRamp = (s.doing .resyncRamp).resyncStep) := by
  by_cases h : .resyncRamp ∈ s.todo
  · by_cases hs : s.clock.state = .resync
    · exact .inr (.inl ⟨h, hs, settleRamp_resync h hs⟩)
    · exact .inr (.inr ⟨h, hs, settleRamp_steps h hs⟩)
  · exact .inl ⟨h, settleRamp_of_not_mem h⟩

theorem settleRamp_todo (s : State) : s.settleRamp.todo = s.todo.erase .resyncRamp := by
  rcases settleRamp_cases s with ⟨hm, h⟩ | ⟨-, -, h⟩ | ⟨-, -, h⟩ <;> rw [h]
  · exact (List.erase_of_not_mem hm).symm
  · rfl
  · exact judgeClock_todo _

theorem settleRamp_resetHeld (s : State) : s.settleRamp.resetHeld = s.resetHeld := by
  rcases settleRamp_cases s with ⟨-, h⟩ | ⟨-, -, h⟩ | ⟨-, -, h⟩ <;> rw [h]
  · rfl
  · exact judgeClock_resetHeld _

theorem settleRamp_requests (s : State) : s.settleRamp.clock.requests = s.clock.requests := by
  rcases settleRamp_cases s with ⟨-, h⟩ | ⟨-, -, h⟩ | ⟨-, -, h⟩ <;> rw [h]
  · exact stepRamp_requests s.clock
  · exact (congrArg Clock.requests (judgeClock_clock _)).trans (rampWork_requests s.clock)

theorem settleRamp_state (s : State) : s.settleRamp.clock.state = s.clock.state := by
  rcases settleRamp_cases s with ⟨-, h⟩ | ⟨-, -, h⟩ | ⟨-, hs, h⟩ <;> rw [h]
  · exact stepRamp_state s.clock
  · exact (congrArg Clock.state (judgeClock_clock _)).trans (rampWork_state hs)

/-- The step leaves CLOCK HOLDOVER told. -/
theorem settleRamp_told (hl : s.att.notices.length = 14) (ht : s.toldHoldover) : s.settleRamp.toldHoldover := by
  rcases settleRamp_cases s with ⟨-, h⟩ | ⟨-, -, h⟩ | ⟨-, -, h⟩ <;> rw [h]
  · exact ht
  · exact ht.trans (stepRamp_holdsOver s.clock).symm
  · exact judgeClock_told hl

theorem settleRamp_doing (s : State) {w : Work} (hw : w ≠ .resyncRamp) : (s.doing w).settleRamp = s.settleRamp.doing w := by
  have hm : .resyncRamp ∈ (s.doing w).todo ↔ .resyncRamp ∈ s.todo := List.mem_erase_of_ne hw.symm
  rcases settleRamp_cases s with ⟨hn, h⟩ | ⟨hd, hs, h⟩ | ⟨hd, hs, h⟩ <;> rw [h]
  · exact settleRamp_of_not_mem (mt hm.1 hn)
  · rw [settleRamp_resync (hm.2 hd) hs, doing_comm]
    rfl
  · rw [settleRamp_steps (hm.2 hd) hs, doing_comm, resyncStep_doing]

theorem settleRamp_asking (source : Option Bool) (resync : Bool) (s : State) :
    (s.asking source resync).settleRamp = s.settleRamp.asking source resync := by
  rcases settleRamp_cases s with ⟨hd, h⟩ | ⟨hd, hs, h⟩ | ⟨hd, hs, h⟩ <;> rw [h]
  · exact settleRamp_of_not_mem hd
  · rw [settleRamp_resync (s := s.asking source resync) hd hs]
    exact congrArg (s.doing .resyncRamp).setClock (stepRamp_asking source resync s.clock)
  · rw [settleRamp_steps (s := s.asking source resync) hd hs]
    exact resyncStep_asking source resync (s.doing .resyncRamp)

end

end Sys2Proof.Machine
end

section
/-! PROOFS. The clock's take of its requests (07 R152 to R157; log 20), and what O52, O53 and O54 say of it. -/

namespace Sys2Proof.Machine

/-! ### The clock after a request (07 R155, R157, R160; log 20) -/

section
variable {s : State}

theorem settleClock_runs (h : ¬ (s.clock.state = .resync ∧ s.clock.factor = 0)) : s.settleClock = s.judgeClock := by
  simp only [State.settleClock, judgeClock_clock, if_neg h]

/-- A down ramp that starts at factor 0 has ended. -/
theorem settleClock_atZero (hs : s.clock.state = .resync) (hf : s.clock.factor = 0) :
    s.settleClock = (s.judgeClock.setClock s.clock.switch).judgeClock := by
  simp only [State.settleClock, judgeClock_clock, if_pos (And.intro hs hf)]

theorem settleClock_asking (source : Option Bool) (resync : Bool) (s : State) :
    (s.asking source resync).settleClock = s.settleClock.asking source resync := by
  by_cases h : s.clock.state = .resync ∧ s.clock.factor = 0
  · obtain ⟨hs, hf⟩ := h
    rw [settleClock_atZero (s := s.asking source resync) hs hf, settleClock_atZero hs hf, judgeClock_asking source resync s,
      ← judgeClock_asking source resync (s.judgeClock.setClock s.clock.switch)]
    rfl
  · rw [settleClock_runs (s := s.asking source resync) h, settleClock_runs h, judgeClock_asking]

theorem switch_state_ne_held (c : Clock) : c.switch.state ≠ .held := by
  unfold Clock.switch Clock.turn
  cases c.destination == some Destination.wordClock <;> exact ClockState.noConfusion

theorem settleClock_state_ne_held (h : s.clock.state ≠ .held) : s.settleClock.clock.state ≠ .held := by
  by_cases hz : s.clock.state = .resync ∧ s.clock.factor = 0
  · rw [settleClock_atZero hz.1 hz.2, judgeClock_clock]
    exact switch_state_ne_held s.clock
  · rwa [settleClock_runs hz, judgeClock_clock]

end

/-! ### A source change and a RESYNC (07 R152, R154, R155, R157) -/

/-- The source `x` meets the clock. -/
def State.changeSource (x : Bool) (s : State) : State := (s.setClock (s.clock.changeSource x)).settleClock

/-- The clock goes to the word clock anew. -/
def State.startResync (s : State) : State := (s.setClock (s.clock.resynchronize .wordClock)).settleClock

section
variable {c : Clock} (x : Bool)

theorem resynchronize_eq (d : Destination) (h : c.factor ≠ 0) : c.resynchronize d =
    { c with state := .resync, destination := some d, ramp := some ⟨c.factor, 0, 64, 0⟩, turnUp := false } := by
  rw [Clock.resynchronize, rampToward_of_ne h]
  rfl

theorem changeSource_toWordClock (hs : c.state = .internal) (hp : c.present = true) :
    c.changeSource x = { c with external := x }.resynchronize .wordClock := by
  rw [Clock.changeSource, hs]
  exact if_pos hp

theorem changeSource_toHoldover (hs : c.state = .internal) (hp : c.present = false) :
    c.changeSource x = { c with external := x, state := .holdover } := by
  rw [Clock.changeSource, hs]
  exact if_neg (Bool.eq_false_iff.1 hp)

theorem changeSource_toCrystal (hs : c.state = .following) :
    c.changeSource x = { c with external := x }.resynchronize .crystal := by rw [Clock.changeSource, hs]

theorem changeSource_toInternal (hs : c.state = .holdover ∨ c.state = .held) :
    c.changeSource x = { c with external := x, state := .internal } := by
  rw [Clock.changeSource]
  rcases hs with hs | hs <;> rw [hs]

theorem changeSource_resync (hs : c.state = .resync) (hf : c.factor ≠ 32768) : c.changeSource x =
    { c with
      external := x, state := if x = true then .following else .internal, destination := none, turnUp := false
      ramp := some ⟨c.factor, 32768, 64, 0⟩ } := by
  rw [Clock.changeSource, hs]
  exact congrArg (fun r => { c with
    external := x, state := if x = true then .following else .internal, destination := none, turnUp := false, ramp := r })
    (rampToward_of_ne hf)

/-- No source change leads to HELD (07 R152). -/
theorem changeSource_state_ne_held : (c.changeSource x).state ≠ .held := by
  cases hs : c.state with
  | internal =>
    cases hp : c.present with
    | true => rw [changeSource_toWordClock x hs hp]; exact ClockState.noConfusion
    | false => rw [changeSource_toHoldover x hs hp]; exact ClockState.noConfusion
  | following => rw [changeSource_toCrystal x hs]; exact ClockState.noConfusion
  | holdover => rw [changeSource_toInternal x (.inl hs)]; exact ClockState.noConfusion
  | held => rw [changeSource_toInternal x (.inr hs)]; exact ClockState.noConfusion
  | resync =>
    rw [Clock.changeSource, hs]
    cases x <;> exact ClockState.noConfusion

theorem asking_changeSource (source : Option Bool) (resync : Bool) (s : State) :
    (s.asking source resync).changeSource x = (s.changeSource x).asking source resync := by
  have hclock : (s.asking source resync).setClock ((s.clock.asking source resync).changeSource x) =
      (s.setClock (s.clock.changeSource x)).asking source resync := by
    rw [changeSource_asking]
    rfl
  exact (congrArg State.settleClock hclock).trans (settleClock_asking source resync _)

end

/-! ### The take (07 R152, R153, R154, R157) -/

/-- No other source was written since the last frame boundary. -/
def Clock.sourceStands (c : Clock) : Prop := c.newSource = none ∨ c.newSource = some c.external

section
variable {s : State} {x : Bool}

theorem takeSource_stands (h : s.clock.sourceStands) : s.takeSource = s := by
  rw [State.takeSource]
  rcases h with h | h <;> rw [h]
  exact if_neg (not_not_intro rfl)

theorem takeSource_changes (hx : s.clock.newSource = some x) (hne : s.clock.external ≠ x) :
    s.takeSource = s.settleRamp.changeSource x := by
  rw [State.takeSource, hx]
  exact if_pos hne.symm

theorem takeResync_ignored (h : s.clock.newResync = true → s.clock.state ≠ .held) : s.takeResync = s := by
  refine if_neg fun hr => ?_
  obtain ⟨hn, hs⟩ := Bool.and_eq_true_iff.1 hr
  exact h hn (eq_of_beq hs)

theorem takeResync_starts (hn : s.clock.newResync = true) (hs : s.clock.state = .held) :
    s.takeResync = s.settleRamp.startResync := if_pos (by rw [hn, hs]; rfl)

/-- Without a source change, and with no RESYNC that acts. -/
theorem takeClock_stands (h : s.clock.sourceStands) (hn : s.clock.newResync = true → s.clock.state ≠ .held) :
    s.takeClock = s.judgeClock.asking none false := by
  have hsource : s.judgeClock.takeSource = s.judgeClock := takeSource_stands (by rwa [judgeClock_clock])
  have hresync : s.judgeClock.takeResync = s.judgeClock := takeResync_ignored (by rwa [judgeClock_clock])
  rw [State.takeClock, hsource, hresync]
  rfl

theorem takeClock_resync (h : s.clock.sourceStands) (hn : s.clock.newResync = true) (hs : s.clock.state = .held) :
    s.takeClock = s.judgeClock.settleRamp.startResync.asking none false := by
  have hsource : s.judgeClock.takeSource = s.judgeClock := takeSource_stands (by rwa [judgeClock_clock])
  have hresync : s.judgeClock.takeResync = s.judgeClock.settleRamp.startResync :=
    takeResync_starts (by rwa [judgeClock_clock]) (by rwa [judgeClock_clock])
  rw [State.takeClock, hsource, hresync]
  rfl

/-- A RESYNC that comes with a source change has no effect. -/
theorem takeClock_changes (hx : s.clock.newSource = some x) (hne : s.clock.external ≠ x) :
    s.takeClock = (s.judgeClock.settleRamp.changeSource x).asking none false := by
  have hsource : s.judgeClock.takeSource = s.judgeClock.settleRamp.changeSource x :=
    takeSource_changes (by rwa [judgeClock_clock]) (by rwa [judgeClock_clock])
  have hresync : (s.judgeClock.settleRamp.changeSource x).takeResync = s.judgeClock.settleRamp.changeSource x :=
    takeResync_ignored fun _ => settleClock_state_ne_held (changeSource_state_ne_held x)
  rw [State.takeClock, hsource, hresync]
  rfl

/-- A RESYNC that waits beside a source change makes no difference. -/
theorem takeClock_asking (hx : s.clock.newSource = some x) (hne : s.clock.external ≠ x) (resync : Bool) :
    (s.asking s.clock.newSource resync).takeClock = s.takeClock := by
  rw [takeClock_changes hx hne, takeClock_changes (s := s.asking s.clock.newSource resync) hx hne, judgeClock_asking,
    settleRamp_asking, asking_changeSource]
  rfl

/-- The take is made on a state that has been told. -/
theorem takeClock_judgeClock (hl : s.att.notices.length = 14) : s.judgeClock.takeClock = s.takeClock := by
  rw [State.takeClock, judgeClock_judgeClock hl, State.takeClock]

end

/-! ### The commands -/

section
variable {s t : State} {w : Work}

theorem due_congr (hr : t.resetHeld = s.resetHeld) (ht : t.todo = s.todo) (h : s.due w) : t.due w := by
  rwa [State.due, hr, ht]

theorem due_doing {v : Work} (hv : w ≠ v) (h : s.due w) : (s.doing v).due w := by
  obtain ⟨hr, hm, hs⟩ := h
  refine ⟨hr, (List.mem_erase_of_ne hv).2 hm, List.filter_eq_nil_iff.2 fun x hx => ?_⟩
  exact List.filter_eq_nil_iff.1 hs x (List.mem_of_mem_erase hx)

theorem perform_resyncRamp (s : State) : State.perform .resyncRamp s = (s.setClock s.clock.rampWork).judgeClock := rfl

theorem exec_resyncSwitch {g : Glide} (h : s.due .resyncRamp) (hs : s.clock.state = .resync) (ht : s.clock.turnUp = false)
    (hg : s.clock.ramp = some g) (hl : g.step + 1 = g.length) :
    exec .resyncSwitch s = .next ((s.doing .resyncRamp).perform .resyncRamp) := by
  have hevent : (s.clock.state == .resync && !s.clock.turnUp && lastStep s.clock.ramp) = true := by
    rw [hs, ht, hg, lastStep_some hl]
    rfl
  rw [exec, execResyncSwitch, released_of h.1, eventWork_of_due hevent h (by decide) (by decide) (by decide)]

theorem exec_resyncUpEnd {g : Glide} (h : s.due .resyncRamp) (hs : s.clock.state ≠ .resync) (ht : s.clock.turnUp = false)
    (hg : s.clock.ramp = some g) (hl : g.step + 1 = g.length) :
    exec .resyncUpEnd s = .next ((s.doing .resyncRamp).perform .resyncRamp) := by
  have hevent : (s.clock.state != .resync && !s.clock.turnUp && lastStep s.clock.ramp) = true := by
    rw [bne_iff_ne.2 hs, ht, hg, lastStep_some hl]
    rfl
  rw [exec, execResyncUpEnd, released_of h.1, eventWork_of_due hevent h (by decide) (by decide) (by decide)]

theorem exec_sourceTaken {x : Bool} (h : s.due .clockTake) (hx : s.clock.newSource = some x) (hne : s.clock.external ≠ x) :
    exec (.clockSource .taken) s = .next (s.doing .clockTake).takeClock := by
  have hguard : s.clock.newSource = some (!s.clock.external) := by rw [hx, Bool.eq_not.2 hne.symm]
  rw [exec, execClockSource, released_of h.1]
  exact congrArg _ ((if_pos hguard).trans (doWork_of_due h (by decide) (by decide) (by decide)))

theorem exec_resyncTaken (h : s.due .clockTake) (hn : s.clock.newResync = true) :
    exec (.resync .taken) s = .next (s.doing .clockTake).takeClock := by
  rw [exec, execResync, released_of h.1]
  exact congrArg _ ((if_pos hn).trans (doWork_of_due h (by decide) (by decide) (by decide)))

end

/-! ### The resync ramp and CLOCK HOLDOVER (07 R152, R153, R155, R156) -/

/-- The factor after the ramp's step, as the statement writes it. -/
theorem stepRamp_factor (c : Clock) : c.stepRamp.factor = match c.ramp with
    | some g => (g.start + ((g.stop - g.start) * (g.step + 1 : ℕ)).tdiv g.length).toNat
    | none => c.factor := by
  cases h : c.ramp with
  | none => rw [stepRamp_none h]
  | some g => rw [stepRamp_some h]; rfl

theorem rampToward_fullLevel (f : Nat) : rampToward f 32768 = if f = 32768 then none else some ⟨f, 32768, 64, 0⟩ := rfl

theorem rampWork_turned {c : Clock} (h : c.turnUp = true) {f : Nat} (hf : c.stepRamp.factor = f) : c.rampWork = { c with
    factor := f, turnUp := false, ramp := if f = 32768 then none else some ⟨f, 32768, 64, 0⟩ } := by
  rw [rampWork_turns h, Clock.turn, stepRamp_apart, hf, ← rampToward_fullLevel]
  rfl

theorem rampWork_early {c : Clock} {g : Glide} (ht : c.turnUp = false) (hg : c.ramp = some g) (hl : g.step + 1 < g.length) :
    c.rampWork = { c with
      factor := (g.start + ((g.stop - g.start) * (g.step + 1 : ℕ)).tdiv g.length).toNat
      ramp := some { g with step := g.step + 1 } } := by
  rw [rampWork_steps ht, stepRamp_some hg, Glide.next_early hl]
  exact if_neg fun h => Option.some_ne_none _ h.2

section
variable {c : Clock} {g : Glide} (ht : c.turnUp = false) (hg : c.ramp = some g) (h0 : 0 < g.length) (hl : g.step + 1 = g.length)
include ht hg h0 hl

/-- The down ramp's last step: the switch. -/
theorem rampWork_switches (hs : c.state = .resync) (hz : g.stop = 0) : c.rampWork = { c with
    factor := 0, ramp := some ⟨0, 32768, 64, 0⟩, destination := none
    state := if c.destination = some .wordClock then .following else .internal } := by
  rw [rampWork_steps ht, stepRamp_some hg, Glide.next_last h0 hl, hz, if_pos ⟨hs, rfl⟩, switch_atZero rfl, ← ht]
  rfl

/-- The up ramp's last step. -/
theorem rampWork_ends (hs : c.state ≠ .resync) : c.rampWork = { c with factor := g.stop.toNat, ramp := none } := by
  rw [rampWork_steps ht, if_neg fun h => hs h.1, stepRamp_some hg, Glide.next_last h0 hl]

end

section
variable {s : State}

/-- The clock's work when nothing is asked of it: CLOCK HOLDOVER is told. -/
theorem takeClock_tells (hl : s.att.notices.length = 14) (h : s.clock.sourceStands) (hn : s.clock.newResync = false) :
    let t := s.takeClock
    let n := s.att.notice 10
    (s.clock.holdsOver = true → n.pending = false → t.att.notice 10 = ⟨true, min 255 (n.count + 1), 0, s.frame⟩)
    ∧ (s.clock.holdsOver = n.pending → t.att = s.att)
    ∧ (s.clock.holdsOver = false → t.att.notice 10 = { n with pending := false })
    ∧ ∀ i, i ≠ 10 → t.att.notice i = s.att.notice i := by
  have hatt : s.takeClock.att = s.judgeClock.att := by
    rw [takeClock_stands h fun ht => absurd ht (Bool.eq_false_iff.1 hn)]
    rfl
  dsimp only
  rw [hatt]
  exact ⟨judgeClock_notice_starts hl, fun ht => by rw [judgeClock_of_told ht.symm], judgeClock_notice_ends,
    fun i hi => judgeClock_notice_ne s hi⟩

/-- A request is taken on a state that has been told (log 20). -/
theorem exec_taken_judgeClock (hl : s.att.notices.length = 14) (h : s.due .clockTake) :
    (s.clock.newSource = some (!s.clock.external) → exec (.clockSource .taken) s = exec (.clockSource .taken) s.judgeClock)
    ∧ (s.clock.newResync = true → exec (.resync .taken) s = exec (.resync .taken) s.judgeClock) := by
  have hdue : s.judgeClock.due .clockTake := due_congr (judgeClock_resetHeld s) (judgeClock_todo s) h
  have htake : (s.judgeClock.doing .clockTake).takeClock = (s.doing .clockTake).takeClock := by
    rw [← judgeClock_doing, takeClock_judgeClock (s := s.doing .clockTake) hl]
  refine ⟨fun hx => ?_, fun hn => ?_⟩
  · have hne : s.clock.external ≠ !s.clock.external := (Bool.not_ne_self _).symm
    rw [exec_sourceTaken h hx hne, exec_sourceTaken hdue (by rwa [judgeClock_clock]) (by rwa [judgeClock_clock]), htake]
  · rw [exec_resyncTaken h hn, exec_resyncTaken hdue (by rwa [judgeClock_clock]), htake]

end

/-- Settles O52: the ramp's work by the step it makes, and the clock's work through what CLOCK HOLDOVER is told. -/
theorem theResyncRampTurns : Obligations.TheResyncRampTurns := by
  refine ⟨fun s g h ht hg h0 hl => ⟨fun hs hz => ?switch, fun hs => ?upEnd⟩, fun s g ht hg hl => ?early,
    fun s => ⟨fun ht => ?turn, rfl, holdsOver_iff, fun hsrc hn => ⟨?stands, fun hl => takeClock_tells hl hsrc hn⟩,
      fun hl => ⟨(takeClock_judgeClock hl).symm, ?told, exec_taken_judgeClock hl⟩⟩⟩
  case switch =>
    rw [exec_resyncSwitch h hs ht hg hl, perform_resyncRamp, doing_clock, rampWork_switches ht hg h0 hl hs hz]
  case upEnd => rw [exec_resyncUpEnd h hs ht hg hl, perform_resyncRamp, doing_clock, rampWork_ends ht hg h0 hl hs]
  case early => rw [perform_resyncRamp, rampWork_early ht hg hl]
  case turn => exact congrArg (fun c => (s.setClock c).judgeClock) (rampWork_turned ht (stepRamp_factor s.clock))
  case stands =>
    refine (takeClock_stands hsrc fun ht => absurd ht (Bool.eq_false_iff.1 hn)).trans ?_
    rw [State.asking, judgeClock_clock]
    rfl
  case told => exact (judgeClock_told hl).trans (congrArg Clock.holdsOver (judgeClock_clock s))

end Sys2Proof.Machine
end

section
/-! PROOFS. Source changes and RESYNC at a frame boundary: O53 and O54 (07 R152, R154 to R157; log 20). -/

namespace Sys2Proof.Machine

/-! ### A ramp's step still due is made first (07 R155, R156) -/

section
variable {s : State} {x : Bool} (hl : s.att.notices.length = 14) (ht : s.toldHoldover) (hc : s.todo.count .resyncRamp = 1)

include hc in
theorem settleRamp_not_mem : .resyncRamp ∉ s.settleRamp.todo := by
  rw [settleRamp_todo]
  exact List.count_eq_zero.1 (by rw [List.count_erase_self, hc])

include hl ht hc

/-- Once the step is made, there is nothing left to tell or to make. -/
theorem settleRamp_settled : s.settleRamp.judgeClock.settleRamp = s.judgeClock.settleRamp := by
  rw [judgeClock_of_told (settleRamp_told hl ht), settleRamp_of_not_mem (settleRamp_not_mem hc), judgeClock_of_told ht]

theorem takeClock_settleRamp_changes (hx : s.clock.newSource = some x) (hne : s.clock.external ≠ x) :
    s.settleRamp.takeClock = s.takeClock := by
  obtain ⟨hexternal, hsource, -⟩ := requests_iff.1 (settleRamp_requests s)
  rw [takeClock_changes hx hne, takeClock_changes (hsource.trans hx) (hexternal ▸ hne), settleRamp_settled hl ht hc]

theorem takeClock_settleRamp_resync (h : s.clock.sourceStands) (hn : s.clock.newResync = true) (hs : s.clock.state = .held) :
    s.settleRamp.takeClock = s.takeClock := by
  obtain ⟨hexternal, hsource, hresync⟩ := requests_iff.1 (settleRamp_requests s)
  have hstands : s.settleRamp.clock.sourceStands := by rwa [Clock.sourceStands, hexternal, hsource]
  rw [takeClock_resync h hn hs, takeClock_resync hstands (hresync.trans hn) ((settleRamp_state s).trans hs),
    settleRamp_settled hl ht hc]

end

theorem due_settleRamp {s : State} {w : Work} (hw : w ≠ .resyncRamp) (h : s.due w) : s.settleRamp.due w :=
  due_congr (s := s.doing .resyncRamp) (settleRamp_resetHeld s) (settleRamp_todo s) (due_doing hw h)

section
variable {s : State} {x : Bool} (h : s.due .clockTake) (hl : s.att.notices.length = 14) (ht : s.toldHoldover)
  (hc : s.todo.count .resyncRamp = 1)

include hc in
theorem count_doing_clockTake : (s.doing .clockTake).todo.count .resyncRamp = 1 := by
  rw [doing_todo, List.count_erase_of_ne (by decide), hc]

include h hl ht hc

theorem exec_sourceTaken_settleRamp (hx : s.clock.newSource = some x) (hne : s.clock.external ≠ x) :
    exec (.clockSource .taken) s.settleRamp = exec (.clockSource .taken) s := by
  obtain ⟨hexternal, hsource, -⟩ := requests_iff.1 (settleRamp_requests s)
  rw [exec_sourceTaken h hx hne, exec_sourceTaken (due_settleRamp (by decide) h) (hsource.trans hx) (hexternal ▸ hne),
    ← settleRamp_doing s (by decide),
    takeClock_settleRamp_changes (s := s.doing .clockTake) hl ht (count_doing_clockTake hc) hx hne]

theorem exec_resyncTaken_settleRamp (hstands : s.clock.sourceStands) (hn : s.clock.newResync = true) (hs : s.clock.state = .held) :
    exec (.resync .taken) s.settleRamp = exec (.resync .taken) s := by
  obtain ⟨-, -, hresync⟩ := requests_iff.1 (settleRamp_requests s)
  rw [exec_resyncTaken h hn, exec_resyncTaken (due_settleRamp (by decide) h) (hresync.trans hn),
    ← settleRamp_doing s (by decide),
    takeClock_settleRamp_resync (s := s.doing .clockTake) hl ht (count_doing_clockTake hc) hstands hn hs]

end

/-! ### A down ramp that starts at factor 0 (07 R155, R157, R160; log 20) -/

section
variable {s : State} (hs : s.clock.state = .resync) (hf : s.clock.factor = 0)
include hs hf

/-- CLOCK HOLDOVER was right before the switch. -/
theorem settleClock_atZero_told (ht : s.toldHoldover) : s.settleClock = (s.setClock { s.clock with
    state := if s.clock.destination = some .wordClock then .following else .internal
    destination := none, ramp := some ⟨0, 32768, 64, 0⟩, turnUp := false }).judgeClock := by
  rw [settleClock_atZero hs hf, judgeClock_of_told ht, switch_atZero hf]

/-- The resynchronization toward the word clock starts CLOCK HOLDOVER, and its switch ends it. -/
theorem settleClock_atZero_starts (hl : s.att.notices.length = 14) (he : s.clock.external = true)
    (hd : s.clock.destination = some .wordClock) (hp : (s.att.notice 10).pending = false) :
    s.settleClock.clock = s.clock.switch
    ∧ s.settleClock.att.notice 10 = ⟨false, min 255 ((s.att.notice 10).count + 1), 0, s.frame⟩
    ∧ ∀ i, i ≠ 10 → s.settleClock.att.notice i = s.att.notice i := by
  have hholds : s.clock.holdsOver = true := holdsOver_iff.2 ⟨he, .inr (.inr ⟨hs, hd⟩)⟩
  have hends : s.clock.switch.holdsOver = false := by
    rw [switch_atZero hf, hd]
    exact Bool.and_false _
  rw [settleClock_atZero hs hf]
  refine ⟨judgeClock_clock _, ?_, fun i hi => (judgeClock_notice_ne _ hi).trans (judgeClock_notice_ne s hi)⟩
  rw [judgeClock_notice_ends (s := s.judgeClock.setClock s.clock.switch) hends, State.setClock_att,
    judgeClock_notice_starts hl hholds hp]

end

/-! ### Requests taken with no step of a ramp due -/

section
variable {s : State} (h : s.due .clockTake) (ht : s.toldHoldover)
include h ht

/-- No RESYNC acts: nothing waits any longer. -/
theorem exec_resyncTaken_ignored (hstands : s.clock.sourceStands) (hn : s.clock.newResync = true) (hs : s.clock.state ≠ .held) :
    exec (.resync .taken) s = .next ((s.doing .clockTake).asking none false) := by
  rw [exec_resyncTaken h hn, takeClock_stands (s := s.doing .clockTake) hstands fun _ => hs,
    judgeClock_of_told (s := s.doing .clockTake) ht]

variable (hr : .resyncRamp ∉ s.todo)
include hr

omit h in
theorem settleRamp_doing_clockTake : (s.doing .clockTake).judgeClock.settleRamp = s.doing .clockTake := by
  rw [judgeClock_of_told (s := s.doing .clockTake) ht]
  exact settleRamp_of_not_mem fun hm => hr (List.mem_of_mem_erase hm)

theorem exec_sourceTaken_steady {x : Bool} (hx : s.clock.newSource = some x) (hne : s.clock.external ≠ x) :
    exec (.clockSource .taken) s =
      .next ((s.doing .clockTake).setClock ((s.clock.changeSource x).asking none false)).settleClock := by
  rw [exec_sourceTaken h hx hne, takeClock_changes (s := s.doing .clockTake) hx hne, settleRamp_doing_clockTake ht hr,
    State.changeSource, ← settleClock_asking]
  rfl

theorem exec_resyncTaken_steady (hstands : s.clock.sourceStands) (hn : s.clock.newResync = true) (hs : s.clock.state = .held) :
    exec (.resync .taken) s =
      .next ((s.doing .clockTake).setClock ((s.clock.resynchronize .wordClock).asking none false)).settleClock := by
  rw [exec_resyncTaken h hn, takeClock_resync (s := s.doing .clockTake) hstands hn hs, settleRamp_doing_clockTake ht hr,
    State.startResync, ← settleClock_asking]
  rfl

/-- A source change that meets the clock so that it is `c`. -/
theorem exec_sourceTaken_meets {x : Bool} (hx : s.clock.newSource = some x) (hne : s.clock.external ≠ x) {c : Clock}
    (hc : s.clock.changeSource x = c) (hn : c.newResync = false) :
    exec (.clockSource .taken) s = .next ((s.doing .clockTake).setClock { c with newSource := none }).settleClock := by
  rw [exec_sourceTaken_steady h ht hr hx hne, hc, asking_of_no_resync hn]

end

/-- Settles O54: in HELD through the resynchronization and what follows it, elsewhere as a take of nothing. -/
theorem resyncActsInHeldAlone : Obligations.ResyncActsInHeldAlone := by
  refine ⟨fun s h hr hstands hn ht => ⟨fun hs hf => ?runs, fun hs hf => ?atZero,
      fun hs => exec_resyncTaken_ignored h ht hstands hn hs⟩,
    fun s h hc hstands hn hl ht => ⟨fun hs => ?stepped, fun hs => exec_resyncTaken_ignored h ht hstands hn hs⟩⟩
  case runs =>
    rw [exec_resyncTaken_steady h ht hr hstands hn hs, resynchronize_eq _ hf]
    exact congrArg _ (settleClock_runs fun hz => hf hz.2)
  case atZero =>
    have htold : ((s.doing .clockTake).setClock ((s.clock.resynchronize .wordClock).asking none false)).toldHoldover := by
      refine Eq.trans ht ?_
      rw [Clock.holdsOver, hs]
      rfl
    rw [exec_resyncTaken_steady h ht hr hstands hn hs]
    exact congrArg _ (settleClock_atZero_told rfl hf htold)
  case stepped =>
    have hne : s.clock.state ≠ .resync := by rw [hs]; exact ClockState.noConfusion
    have hmem : .resyncRamp ∈ s.todo := List.count_pos_iff.1 (hc ▸ Nat.one_pos)
    have hfirst : (State.perform .resyncRamp s).doing .resyncRamp = s.settleRamp := by
      rw [settleRamp_steps hmem hne, resyncStep_doing]
      rfl
    rw [hfirst, exec_resyncTaken_settleRamp h hl ht hc hstands hn hs]

/-- Settles O53: the clock by the state the change meets, the step still due made first, and the RESYNC that comes with it. -/
theorem sourceChangesAreTaken : Obligations.SourceChangesAreTaken := by
  refine ⟨fun s x h hr hx hn hne ht => ?_, fun s x h hx hne hl ht => ⟨fun hc => ?stepped, fun hn => ⟨?apart, ?same⟩⟩⟩
  · intro c down become
    have hmeets {d : Clock} (hd : s.clock.changeSource x = d) (hn : d.newResync = false) : exec (.clockSource .taken) s =
        .next ((s.doing .clockTake).setClock { d with newSource := none }).settleClock :=
      exec_sourceTaken_meets h ht hr hx hne hd hn
    have hbecomes {d : Clock} (hd : s.clock.changeSource x = d) (hn : d.newResync = false)
        (hz : ¬ (d.state = .resync ∧ d.factor = 0)) : become { d with newSource := none } :=
      (hmeets hd hn).trans (congrArg _ (settleClock_runs hz))
    refine ⟨fun _ hs hp hf => ?toWordClock, fun _ hs hp => ?toHoldover, fun _ hs hf => ?toCrystal, fun _ hs => ?toInternal,
      fun hs hf => ?inResync, fun hxt hs hp hf hl => ?wordClockAtZero, fun hxf hs hf => ?crystalAtZero⟩
    case toWordClock =>
      exact hbecomes ((changeSource_toWordClock x hs hp).trans (resynchronize_eq _ hf)) hn fun hz => hf hz.2
    case toHoldover => exact hbecomes (changeSource_toHoldover x hs hp) hn fun hz => ClockState.noConfusion hz.1
    case toCrystal => exact hbecomes ((changeSource_toCrystal x hs).trans (resynchronize_eq _ hf)) hn fun hz => hf hz.2
    case toInternal => exact hbecomes (changeSource_toInternal x hs) hn fun hz => ClockState.noConfusion hz.1
    case inResync =>
      refine hbecomes (changeSource_resync x hs hf) hn fun hz => ?_
      cases x <;> exact ClockState.noConfusion hz.1
    case wordClockAtZero =>
      have hquiet : (s.att.notice 10).pending = false := by rw [ht, Clock.holdsOver, hs]; exact Bool.and_false _
      obtain ⟨hclock, hnotice, hothers⟩ := settleClock_atZero_starts (s := (s.doing .clockTake).setClock
        { Clock.resynchronize .wordClock { s.clock with external := x } with newSource := none }) rfl hf hl hxt rfl hquiet
      exact ⟨_, hmeets (changeSource_toWordClock x hs hp) hn, hclock.trans (switch_atZero hf), hnotice, hothers⟩
    case crystalAtZero =>
      have htold : ((s.doing .clockTake).setClock
          { Clock.resynchronize .crystal { s.clock with external := x } with newSource := none }).toldHoldover := by
        refine Eq.trans ht ?_
        rw [Clock.holdsOver, hs, hxf]
        exact Bool.and_false _
      exact (hmeets (changeSource_toCrystal x hs) hn).trans (congrArg _ (settleClock_atZero_told rfl hf htold))
  case stepped =>
    intro c u
    have hmem : .resyncRamp ∈ s.todo := List.count_pos_iff.1 (hc ▸ Nat.one_pos)
    have hc' : c = s.clock.stepRamp := by
      dsimp only [c]
      rw [Clock.stepRamp]
      cases s.clock.ramp <;> rfl
    have hfirst : u.doing .resyncRamp = s.settleRamp := by
      by_cases hs : s.clock.state = .resync
      · rw [settleRamp_resync hmem hs, ← hc']
        exact congrArg (State.doing · .resyncRamp) (if_pos hs)
      · rw [settleRamp_steps hmem hs, resyncStep_doing]
        exact congrArg (State.doing · .resyncRamp) (if_neg hs)
    rw [hfirst, exec_sourceTaken_settleRamp h hl ht hc hx hne]
  case apart =>
    have htake := takeClock_asking (s := s.doing .clockTake) hx hne false
    rw [exec_sourceTaken h hx hne, ← htake]
    exact (exec_sourceTaken (s := s.setClock { s.clock with newResync := false }) h hx hne).symm
  case same => rw [exec_resyncTaken h hn, exec_sourceTaken h hx hne]

end Sys2Proof.Machine
end

section
/-! PROOFS. The show lock: O4, O58 and O59 (08 R164 to R169). -/

namespace Sys2Proof.Machine

/-! ### A refused UNLOCK (08 R168 step 3, R169) -/

/-- The third refusal in succession starts the lockout. -/
theorem ShowLock.fail_third {l : ShowLock} (h : l.failures = 2) : l.fail = { l with failures := 0, lockout := 45000 } :=
  if_pos (by rw [h])

theorem ShowLock.fail_earlier {l : ShowLock} (h : l.failures ≠ 2) : l.fail = { l with failures := l.failures + 1 } :=
  if_neg (by omega)

theorem ShowLock.failDetail_third {l : ShowLock} (h : l.failures = 2) : l.failDetail = 0x100 := if_pos (by rw [h])

theorem ShowLock.failDetail_earlier {l : ShowLock} (h : l.failures ≠ 2) : l.failDetail = l.failures + 1 := if_neg (by omega)

/-! ### The lock stays sound under each of its updates -/

theorem ShowLock.sound_reset : ShowLock.sound .reset := by simp [ShowLock.sound, ShowLock.reset]

section
variable {l : ShowLock} (h : l.sound)
include h

theorem ShowLock.sound_setKey (key : List Byte) : ShowLock.sound { l with key := some key } := by
  obtain ⟨-, hrest⟩ := h
  exact ⟨fun _ => rfl, hrest⟩

/-- LOCK, which a key set lets through, keeps a running timer's count at 0. -/
theorem ShowLock.sound_lock (hkey : l.key.isSome) : ShowLock.sound { l with locked := true } := by
  obtain ⟨-, hcount, -, hrunning, hframes⟩ := h
  exact ⟨fun _ => hkey, hcount, nofun, fun hr => ⟨rfl, (hrunning hr).2⟩, hframes⟩

/-- A refusal counts to at most 2; the one that would reach 3 leaves the count 0 and the timer at its limit. -/
theorem ShowLock.sound_fail (hl : l.locked = true) (hstopped : l.lockout = 0) : l.fail.sound := by
  obtain ⟨hkey, hcount, -, -, hframes⟩ := h
  have hunlocked : l.locked ≠ false := by simp [hl]
  by_cases h2 : l.failures = 2
  · rw [ShowLock.fail_third h2]
    exact ⟨hkey, Nat.zero_le 2, fun hu => absurd hu hunlocked, fun _ => ⟨hl, rfl⟩, Nat.le_refl 45000⟩
  · rw [ShowLock.fail_earlier h2]
    have hnext : l.failures + 1 ≤ 2 := by omega
    exact ⟨hkey, hnext, fun hu => absurd hu hunlocked, fun hr => absurd hstopped (Nat.pos_iff_ne_zero.1 hr), hframes⟩

theorem ShowLock.sound_unlock (hstopped : l.lockout = 0) : ShowLock.sound { l with locked := false, failures := 0 } := by
  obtain ⟨-, -, -, -, hframes⟩ := h
  exact ⟨nofun, Nat.zero_le 2, fun _ => rfl, fun hr => absurd hstopped (Nat.pos_iff_ne_zero.1 hr), hframes⟩

theorem ShowLock.sound_lockoutStep : ShowLock.sound { l with lockout := l.lockout - 1 } := by
  obtain ⟨hkey, hcount, hunlocked, hrunning, hframes⟩ := h
  exact ⟨hkey, hcount, hunlocked, fun hr => hrunning (Nat.lt_of_lt_of_le hr (Nat.sub_le ..)), (Nat.sub_le ..).trans hframes⟩

end

/-- Only SET KEY, LOCK, UNLOCK, the lockout's step and the resets write the show lock. -/
theorem showLock_sound_closed : Closed fun s => ShowLock.sound s.lock := by
  refine' {
    key := fun _ key h => ShowLock.sound_setKey h key
    locked := fun _ h hkey => ShowLock.sound_lock h hkey
    refused := fun _ h hl hstopped => ShowLock.sound_fail h hl hstopped
    unlocked := fun _ h hstopped => ShowLock.sound_unlock h hstopped
    lockout := fun _ h => ShowLock.sound_lockoutStep h
    held := fun _ _ => ShowLock.sound_reset
    release := fun _ _ => ShowLock.sound_reset
    cleared := fun _ _ => ShowLock.sound_reset
    .. } <;> intros <;> assumption

/-- Settles O4, by the updates that a step is made of. -/
theorem showLockStaysSound : Obligations.ShowLockStaysSound :=
  fun _ _ h => showLock_sound_closed.step (fun _ _ h => h) h

/-! ### LOCK and SET KEY (08 R166, R167) -/

/-- The bytes are equal to one another exactly when all are one byte. -/
theorem allEqual_iff (key : List Byte) : allEqual key = true ↔ ∃ x, ∀ y ∈ key, y = x := by
  simp only [allEqual, List.all_eq_true, beq_iff_eq]
  constructor
  · intro h
    cases key with
    | nil => exact ⟨0, nofun⟩
    | cons x rest => exact ⟨x, fun y hy => h y hy x List.mem_cons_self⟩
  · rintro ⟨x, h⟩ y hy z hz
    exact (h y hy).trans (h z hz).symm

/-- SET KEY refuses a key of one repeated byte, and stores any other. -/
theorem cueSetKey_eq (k : Nat) (bs : List Byte) (s : State) :
    ((∃ x, ∀ y ∈ keyBytes bs, y = x) → cueSetKey k bs s = s.answer k bs .range 0)
    ∧ ((¬ ∃ x, ∀ y ∈ keyBytes bs, y = x) →
        cueSetKey k bs s = (s.setLock { s.lock with key := some (keyBytes bs) }).answer k bs .done 0) := by
  rw [← allEqual_iff]
  exact ⟨fun h => if_pos h, fun h => if_neg h⟩

/-- LOCK with the stored key read as a whole: unset, or compared. -/
theorem cueLock_eq (k : Nat) (bs : List Byte) (s : State) : cueLock k bs s =
    if s.lock.key = none then s.answer k bs .key 0
    else if s.lock.locked = true then s.answer k bs .done 0
    else if s.lock.key ≠ some (keyBytes bs) then s.answer k bs .key 0
    else (s.setLock { s.lock with locked := true }).answer k bs .done 0 := by
  unfold cueLock
  cases s.lock.key with
  | none => rfl
  | some key => simp only [reduceCtorEq, if_false, ne_eq, Option.some.injEq, eq_comm (a := key)]

/-- Settles O58: both cues run on the state of their take, whose lock is the one before it. -/
theorem lockAndSetKey : Obligations.LockAndSetKey := by
  refine fun s k => ⟨fun h => ?_, fun h => ?_⟩
  · exact (exec_of_takeable h).trans (congrArg _ (cueLock_eq k _ (s.took k)))
  · obtain ⟨hrange, hdone⟩ := cueSetKey_eq k (cueBytes s.ram k) (s.took k)
    exact ⟨fun hx => (exec_of_takeable h).trans (congrArg _ (hrange hx)),
      fun hx => (exec_of_takeable h).trans (congrArg _ (hdone hx))⟩

/-! ### UNLOCK and the lockout (08 R168, R169) -/

/-- UNLOCK with its refusals told apart: the third starts the lockout, an earlier one counts. -/
theorem cueUnlock_eq (k : Nat) (bs : List Byte) (s : State) : cueUnlock k bs s =
    if s.lock.locked = false then s.answer k bs .done 0
    else if 0 < s.lock.lockout then s.answer k bs .key 0
    else if s.lock.key ≠ some (keyBytes bs) then
      if s.lock.failures = 2 then
        ((s.setLock { s.lock with failures := 0, lockout := 45000 }).answer k bs .key 0).raise .unlockRefused 0x100
      else ((s.setLock { s.lock with failures := s.lock.failures + 1 }).answer k bs .key 0).raise .unlockRefused
        (s.lock.failures + 1)
    else (s.setLock { s.lock with locked := false, failures := 0 }).answer k bs .done 0 := by
  simp only [cueUnlock, Bool.not_eq_true']
  by_cases h2 : s.lock.failures = 2
  · rw [if_pos h2, ShowLock.fail_third h2, ShowLock.failDetail_third h2]
  · rw [if_neg h2, ShowLock.fail_earlier h2, ShowLock.failDetail_earlier h2]

/-- The lockout's last frame stops the timer. -/
theorem exec_lockoutEnd {s : State} (h : s.due .lockout) (hlast : s.lock.lockout = 1) :
    exec .lockoutEnd s = .next ((s.doing .lockout).setLock { s.lock with lockout := 0 }) := by
  have hevent : s.eventWork .lockout (s.lock.lockout == 1) = (s.doing .lockout).lockoutStep :=
    eventWork_of_due (beq_iff_eq.2 hlast) h (by decide) (by decide) (by decide)
  have hstep : (s.doing .lockout).lockoutStep = (s.doing .lockout).setLock { s.lock with lockout := 0 } := by
    rw [State.lockoutStep, doing_lock, hlast]
  exact (released_of h.1 _).trans (congrArg _ (hevent.trans hstep))

/-- Settles O59: the last frame, a frame before it, and UNLOCK on the state of its take. -/
theorem unlockCountsItsRefusals : Obligations.UnlockCountsItsRefusals :=
  ⟨fun _ h hlast => exec_lockoutEnd h hlast, fun _ => rfl,
    fun s k h => (exec_of_takeable h).trans (congrArg _ (cueUnlock_eq k _ (s.took k)))⟩

end Sys2Proof.Machine
end

section
/-! PROOFS. The attention block: O5, O15, O16 and O18 (01 R4, 09 R170 to R175). -/

namespace Sys2Proof.Machine

/-! ### Notice records stay sound (09 R170 to R173) -/

/-- What the invariant says of one record; `event` says that its source is an event source. -/
def Notice.sound (event : Bool) (n : Notice) : Prop :=
  n.count ≤ 255 ∧ (n.pending = true → 0 < n.count) ∧ (event = true → (n.pending = true ↔ 0 < n.count))

theorem noticesSound_iff (ns : List Notice) :
    noticesSound ns ↔ ns.length = 14 ∧ ∀ i n, ns[i]? = some n → Notice.sound (isEventSource i) n := Iff.rfl

section
variable {event : Bool} {n : Notice}

/-- A pending record that has counted is sound for a source of either kind. -/
theorem Notice.sound_counted {c : Nat} (hp : n.pending = true) (hc : n.count = min 255 (c + 1)) : n.sound event := by
  have hpos : 0 < n.count := by omega
  exact ⟨by omega, fun _ => hpos, fun _ => ⟨fun _ => hpos, fun _ => hp⟩⟩

theorem Notice.sound_occur (d f : Word32) : (n.occur d f).sound event := Notice.sound_counted rfl rfl

theorem Notice.sound_occurKeeping (d f : Word32) : (n.occurKeeping d f).sound event :=
  Notice.sound_counted (occurKeeping_pending f d n) (occurKeeping_count f d n)

/-- The end of a condition keeps the count, which only an event source ties to pending. -/
theorem Notice.sound_finish (h : n.sound false) : n.finish.sound false := ⟨h.1, nofun, nofun⟩

theorem Notice.sound_clear : n.clear.sound event :=
  ⟨Nat.zero_le 255, nofun, fun _ => ⟨nofun, fun h => absurd h (Nat.lt_irrefl 0)⟩⟩

end

section
variable {ns : List Notice} (h : noticesSound ns)
include h

/-- A change of one record keeps the records sound when it keeps that record sound. -/
theorem noticesSound_modify {i : Nat} {f : Notice → Notice}
    (hf : ∀ n : Notice, n.sound (isEventSource i) → (f n).sound (isEventSource i)) : noticesSound (ns.modify i f) := by
  obtain ⟨hlen, hsound⟩ := (noticesSound_iff ns).1 h
  refine (noticesSound_iff _).2 ⟨(List.length_modify ..).trans hlen, fun j m hm => ?_⟩
  rw [List.getElem?_modify] at hm
  obtain ⟨n, hn, rfl⟩ := Option.map_eq_some_iff.1 hm
  split
  · next hij => subst hij; exact hf n (hsound _ n hn)
  · exact hsound j n hn

/-- A change of every record keeps the records sound when it keeps each sound. -/
theorem noticesSound_mapIdx {g : Nat → Notice → Notice}
    (hg : ∀ i (n : Notice), n.sound (isEventSource i) → (g i n).sound (isEventSource i)) : noticesSound (ns.mapIdx g) := by
  obtain ⟨hlen, hsound⟩ := (noticesSound_iff ns).1 h
  refine (noticesSound_iff _).2 ⟨List.length_mapIdx.trans hlen, fun i m hm => ?_⟩
  rw [List.getElem?_mapIdx, Option.map_eq_some_iff] at hm
  obtain ⟨n, hn, rfl⟩ := hm
  exact hg i n (hsound i n hn)

end

theorem noticesSound_change {a : Attention} (h : noticesSound a.notices) {i : Nat} {f : Notice → Notice}
    (hf : ∀ n : Notice, n.sound (isEventSource i) → (f n).sound (isEventSource i)) : noticesSound (a.change i f).notices := by
  rw [Attention.change, follow_notices]
  exact noticesSound_modify h hf

theorem noticesSound_hostClear {a : Attention} (h : noticesSound a.notices) (v : Word32) :
    noticesSound (a.hostClear v).notices := by
  rw [Attention.hostClear, follow_notices]
  refine noticesSound_mapIdx h fun i n hn => ?_
  split
  · exact Notice.sound_clear
  · exact hn

theorem noticesSound_reset : noticesSound Attention.reset.notices := by
  obtain ⟨-, -, -, h, -⟩ := resetMeetsTheInvariants
  exact h

/-- Only occurrences, a condition's end, the host's clears and the resets write a notice record. -/
theorem noticesSound_closed : Closed fun s => noticesSound s.att.notices := by
  refine' {
    occur := fun _ _ _ _ h => noticesSound_change h fun _ _ => Notice.sound_occur ..
    finish := fun _ i hi h => noticesSound_change h fun _ hn => hi ▸ Notice.sound_finish (hi ▸ hn)
    clipped := fun _ _ h => noticesSound_change h fun _ _ => Notice.sound_occurKeeping ..
    hostClear := fun _ v h => noticesSound_hostClear h v
    mask := fun _ _ h => (follow_notices ..).symm ▸ h
    held := fun _ _ => noticesSound_reset
    release := fun _ _ => noticesSound_reset
    cleared := fun _ _ => noticesSound_reset
    .. } <;> intros <;> assumption

/-- Settles O5, by the updates that a step is made of. -/
theorem noticesStaySound : Obligations.NoticesStaySound :=
  fun _ _ h => noticesSound_closed.step (fun _ _ h => h) h

/-! ### A write of ATTN (01 R4, 03 R68, 09 R172) -/

/-- The event sources among the fourteen: all but POOL FULL, LANE DOWN, CLOCK HOLDOVER and BACK-OFF ACTIVE. -/
theorem isEventSource_iff : ∀ i < 14, (isEventSource i = true ↔ i ≠ 7 ∧ i ≠ 8 ∧ i ≠ 10 ∧ i ≠ 13) := by decide

theorem hostClear_notice {a : Attention} (v : Word32) {i : Nat} (h : i < a.notices.length) :
    (a.hostClear v).notice i = if v.getLsbD i = true ∧ isEventSource i = true then (a.notice i).clear else a.notice i := by
  rw [Attention.hostClear, follow_notice]
  simp [Attention.notice, List.getD_eq_getElem?_getD, List.getElem?_eq_getElem h]

theorem hostClear_mask (a : Attention) (v : Word32) : (a.hostClear v).mask = a.mask := follow_mask ..

/-- A write of ATTN changes the attention block by the host's clears, and the clip counts with those of OUTPUT CLIP. -/
theorem writeAttn_eq (s : State) (v : Word32) : s.writeAttn v = (s.setAtt (s.att.hostClear v)).setNet
    { s.net with clips := if v.getLsbD 9 = true ∧ (s.att.notice 9).pending = true then List.replicate 128 0 else s.net.clips } := by
  have hcond : (v.getLsbD Source.outputClip.index && (s.att.notice Source.outputClip.index).pending) = true
      ↔ v.getLsbD 9 = true ∧ (s.att.notice 9).pending = true := Bool.and_eq_true_iff
  unfold State.writeAttn
  dsimp only
  by_cases h : v.getLsbD 9 = true ∧ (s.att.notice 9).pending = true
  · rw [if_pos (hcond.2 h), if_pos h]; rfl
  · rw [if_neg (hcond.not.2 h), if_neg h]; rfl

/-- Settles O15. -/
theorem attnWriteClears : Obligations.AttnWriteClears := by
  intro s v hs hlen
  have hnotice (i : Nat) (hi : i < 14) : (s.writeAttn v).att.notice i =
      if v.getLsbD i = true ∧ i ≠ 7 ∧ i ≠ 8 ∧ i ≠ 10 ∧ i ≠ 13 then (s.att.notice i).clear else s.att.notice i := by
    simp only [← isEventSource_iff i hi]
    rw [writeAttn_eq]
    exact hostClear_notice v (hlen.symm ▸ hi)
  refine ⟨s.writeAttn v, released_of hs _, (exec_registerWrite s 4 v (by decide)).trans (released_of hs _), hnotice, ?_⟩
  rw [writeAttn_eq]
  exact ⟨rfl, hostClear_mask .., rfl, rfl⟩

/-! ### The attention word (01 R4, 09 R174) -/

/-- The number whose lowest `n` bits are the flags `f`. -/
def flagBits (n : Nat) (f : Nat → Bool) : Nat := ((List.range n).map fun i => bit (f i) * 2 ^ i).sum

theorem flagBits_succ (n : Nat) (f : Nat → Bool) : flagBits (n + 1) f = 2 ^ n * bit (f n) + flagBits n f := by
  simp [flagBits, List.range_succ, Nat.add_comm, Nat.mul_comm]

theorem bit_lt_two (b : Bool) : bit b < 2 := by cases b <;> decide

theorem testBit_bit_zero (b : Bool) : (bit b).testBit 0 = b := by cases b <;> rfl

theorem flagBits_lt (f : Nat → Bool) (n : Nat) : flagBits n f < 2 ^ n := by
  induction n with
  | zero => exact Nat.one_pos
  | succ n ih =>
    have hb := Nat.mul_le_mul_left (2 ^ n) (Nat.le_of_lt_succ (bit_lt_two (f n)))
    rw [flagBits_succ, pow_succ]
    omega

theorem testBit_flagBits (f : Nat → Bool) {n i : Nat} (h : i < n) : (flagBits n f).testBit i = f i := by
  induction n with
  | zero => omega
  | succ n ih =>
    rw [flagBits_succ, Nat.testBit_two_pow_mul_add _ (flagBits_lt f n)]
    split
    · next hi => exact ih hi
    · obtain rfl : i = n := by omega
      rw [Nat.sub_self, testBit_bit_zero]

section
variable (a : Attention)

/-- The flags of the sources and of the levels below the number of the lowest pending source. -/
def Attention.flags : Nat := 2 ^ 16 * flagBits 4 a.levelPending + flagBits 14 fun i => (a.notice i).pending

theorem lowest_lt : a.lowest < 32 := by
  unfold Attention.lowest
  split
  · next i hi => have := List.mem_range.1 (List.mem_of_find?_eq_some hi); omega
  · decide

theorem flags_lt : a.flags < 2 ^ 24 := by
  have hl := flagBits_lt a.levelPending 4
  have hs := flagBits_lt (fun i => (a.notice i).pending) 14
  unfold Attention.flags
  omega

theorem word_toNat : a.word.toNat = 2 ^ 24 * a.lowest + a.flags := by
  have hlevels : ((List.range 4).map fun l => bit (a.levelPending l) * 2 ^ (16 + l)).sum
      = 2 ^ 16 * flagBits 4 a.levelPending := by
    simp only [flagBits, ← List.sum_map_mul_left, pow_add, Nat.mul_left_comm]
  have hword : a.word = BitVec.ofNat 32 (2 ^ 24 * a.lowest + a.flags) := by
    rw [Attention.word, hlevels, Attention.flags, ← Nat.add_assoc]
    refine congrArg _ ?_
    show flagBits 14 (fun i => (a.notice i).pending) + _ + _ = _
    omega
  have := lowest_lt a
  have := flags_lt a
  rw [hword, BitVec.toNat_ofNat, Nat.mod_eq_of_lt (by omega)]

theorem word_high : a.word.toNat / 2 ^ 24 = a.lowest := by
  have := flags_lt a
  rw [word_toNat]
  omega

/-- Below bit 24 the attention word has the flags. -/
theorem getLsbD_word {i : Nat} (h : i < 24) : a.word.getLsbD i = a.flags.testBit i := by
  rw [BitVec.getLsbD, word_toNat, Nat.testBit_two_pow_mul_add _ (flags_lt a), if_pos h]

theorem word_source {i : Nat} (h : i < 14) : a.word.getLsbD i = (a.notice i).pending := by
  have hs := flagBits_lt (fun i => (a.notice i).pending) 14
  rw [getLsbD_word a (by omega), Attention.flags, Nat.testBit_two_pow_mul_add _ (by omega), if_pos (by omega),
    testBit_flagBits _ h]

theorem word_level {l : Nat} (h : l < 4) : a.word.getLsbD (16 + l) = a.levelPending l := by
  have hs := flagBits_lt (fun i => (a.notice i).pending) 14
  rw [getLsbD_word a (by omega), Attention.flags, Nat.testBit_two_pow_mul_add _ (by omega), if_neg (by omega),
    Nat.add_sub_cancel_left, testBit_flagBits _ h]

/-- A level is pending while one of its sources is, masked or not. -/
theorem levelPending_iff (l : Nat) : a.levelPending l = true ↔
    ∃ i < 14, (sourceTable.getD i (4, false)).1 = l ∧ (a.notice i).pending = true := by
  simp only [Attention.levelPending, List.any_eq_true, List.mem_range, Bool.and_eq_true, beq_iff_eq]

/-- The first pending source is the lowest. -/
theorem lowest_of_first {i : Nat} (hi : i < 14) (hp : (a.notice i).pending = true)
    (hq : ∀ j < i, (a.notice j).pending = false) :
    a.lowest = i := by
  have hfind : (List.range 14).find? (fun i => (a.notice i).pending) = some i :=
    List.find?_range_eq_some.2 ⟨hp, List.mem_range.2 hi, fun j hj => by rw [hq j hj]; rfl⟩
  rw [Attention.lowest, hfind]

theorem lowest_of_quiet (h : ∀ i < 14, (a.notice i).pending = false) : a.lowest = 31 := by
  have hfind : (List.range 14).find? (fun i => (a.notice i).pending) = none :=
    List.find?_eq_none.2 fun i hi => Bool.eq_false_iff.1 (h i (List.mem_range.1 hi))
  rw [Attention.lowest, hfind]

theorem lowest_eq_31_iff : a.lowest = 31 ↔ ∀ i < 14, (a.notice i).pending = false := by
  refine ⟨fun h i hi => ?_, lowest_of_quiet a⟩
  by_contra hp
  have hex : ∃ i, (a.notice i).pending = true := ⟨i, Bool.eq_true_of_not_eq_false hp⟩
  have hle : Nat.find hex ≤ i := Nat.find_min' hex (Bool.eq_true_of_not_eq_false hp)
  have hlow := lowest_of_first a (by omega) (Nat.find_spec hex) fun j hj => Bool.eq_false_iff.2 (Nat.find_min hex hj)
  omega

end

/-- The attention word is a function of the notice records alone. -/
theorem word_congr {a b : Attention} (h : a.notices = b.notices) : a.word = b.word := by
  cases a; cases b; cases h; rfl

/-- What an occurrence makes of the record of an event source; OUTPUT CLIP keeps more of one that is pending (09 R171). -/
def Source.occurred (x : Source) (detail : Nat) (frame : Word32) : Notice → Notice :=
  if x = .outputClip then Notice.occurKeeping (BitVec.ofNat 32 detail) frame else Notice.occur (BitVec.ofNat 32 detail) frame

theorem raise_notices (s : State) (x : Source) (d : Nat) :
    (s.raise x d).att.notices = s.att.notices.modify x.index (x.occurred d s.frame) := follow_notices ..

/-- Settles O16. -/
theorem attnWordShowsTheSources : Obligations.AttnWordShowsTheSources := by
  intro s
  refine ⟨fun i hi => word_source s.att hi, fun l hl => ?_, ?_, fun i hi hp hq => ?_, fun v t hs ht => ?_, fun m x d => ?_⟩
  · rw [← levelPending_iff, ← word_level s.att hl]; rfl
  · rw [← lowest_eq_31_iff, ← word_high]; rfl
  · exact (word_high s.att).trans (lowest_of_first s.att hi hp hq)
  · have hexec : exec (.attnmask v) s = .next (s.writeMask v) := released_of hs _
    rw [hexec] at ht
    cases ht
    exact ⟨word_congr (follow_notices ..), follow_mask ..⟩
  · rw [raise_notices, raise_notices]; rfl

/-! ### Occurrences and conditions (09 R171, R173, R175) -/

theorem occurred_clip {x : Source} {n : Notice} (h : x = .outputClip ∧ n.pending = true) (d : Nat) (f : Word32) :
    x.occurred d f n = { n with count := min 255 (n.count + 1) } := by
  obtain ⟨rfl, hp⟩ := h
  exact if_pos hp

theorem occurred_afresh {x : Source} {n : Notice} (h : ¬ (x = .outputClip ∧ n.pending = true)) (d : Nat) (f : Word32) :
    x.occurred d f n = n.occur (BitVec.ofNat 32 d) f := by
  unfold Source.occurred
  split
  · next hx => exact if_neg fun hp => h ⟨hx, hp⟩
  · rfl

/-- A condition of which its block says what its record says already: nothing changes. -/
theorem judge_same {s : State} {x : Source} {holds : Bool} (h : holds = (s.att.notice x.index).pending) (d : Nat) :
    s.judge x holds d = s := by
  unfold State.judge
  subst h
  cases (s.att.notice x.index).pending <;> rfl

theorem judge_start {s : State} {x : Source} (h : (s.att.notice x.index).pending = false) (d : Nat) :
    s.judge x true d = s.startCondition x d := by simp [State.judge, h]

theorem judge_end {s : State} {x : Source} (h : (s.att.notice x.index).pending = true) (d : Nat) :
    s.judge x false d = s.endCondition x := by simp [State.judge, h]

/-- Settles O18: an occurrence is a change of its record; a condition is told its start or its end, or nothing. -/
theorem occurrenceActsOnItsRecord : Obligations.OccurrenceActsOnItsRecord := by
  refine ⟨fun s x d hlen => ?occurrence, fun s x holds d hlen => ?condition⟩
  case occurrence =>
    obtain ⟨hblock, hown, hothers, hmask, henabled, hmessages⟩ := setAtt_change s x (x.occurred d s.frame) hlen
    refine ⟨hblock, hothers, hmask, hown.trans ?_, henabled, hmessages⟩
    by_cases hx : x = .outputClip
    · subst hx
      by_cases hp : (s.att.notice 9).pending = true
      · exact (occurred_clip ⟨rfl, hp⟩ ..).trans (if_pos ⟨rfl, hp⟩).symm
      · exact (occurred_afresh (fun h => hp h.2) ..).trans (if_neg fun h => hp h.2).symm
    · exact (occurred_afresh (fun h => hx h.1) ..).trans (if_neg fun h => hx h.1).symm
  case condition =>
    intro n t
    by_cases hsame : holds = n.pending
    · have ht : t = s := judge_same hsame d
      have hn : (if holds = true ∧ n.pending = false then ⟨true, min 255 (n.count + 1), BitVec.ofNat 32 d, s.frame⟩
          else { n with pending := holds }) = n := by
        rw [if_neg (by rw [hsame]; simp), hsame]
      have hquiet : (if s.att.asserted = false ∧ s.att.asserted = true ∧ s.att.messagesEnabled = true then 1 else 0) = 0 :=
        if_neg fun h => by simp [h.1] at h
      rw [ht, hn, hquiet]
      exact ⟨(setAtt_self s).symm, fun _ => rfl, rfl, fun _ _ => rfl, rfl, rfl, rfl⟩
    · cases holds with
      | true =>
        have hp : n.pending = false := by simpa using hsame
        obtain ⟨hblock, hown, hrest⟩ := setAtt_change s x (Notice.occur (BitVec.ofNat 32 d) s.frame) hlen
        have ht : t = s.startCondition x d := judge_start hp d
        rw [ht, if_pos ⟨rfl, hp⟩]
        exact ⟨hblock, fun h => absurd h hsame, hown, hrest⟩
      | false =>
        have hp : n.pending = true := by simpa using hsame
        obtain ⟨hblock, hown, hrest⟩ := setAtt_change s x Notice.finish hlen
        have ht : t = s.endCondition x := judge_end hp d
        rw [ht, if_neg (fun h => Bool.false_ne_true h.1)]
        exact ⟨hblock, fun h => absurd h hsame, hown, hrest⟩

end Sys2Proof.Machine
end

section
/-! PROOFS. Steps and common memory: O1 and O2 (01 section 1.2; logs 2, 7). -/

namespace Sys2Proof.Machine

/-! ### The queue (log 2) -/

theorem step_of_front {s : State} {c : Instr} {rest : List Instr} (h : s.pending = c :: rest) :
    step s = exec c (s.setPending rest) := by
  unfold step
  rw [h]

theorem step_of_empty {s : State} (h : s.pending = []) : step s = .next s := by
  unfold step
  rw [h]

/-- Settles O1, by the two forms of the queue. -/
theorem stepRunsTheFrontCommand : Obligations.StepRunsTheFrontCommand :=
  ⟨fun _ _ _ h => step_of_front h, fun _ h => step_of_empty h⟩

/-! ### Common memory (01 section 1.2; log 7) -/

theorem memory_wf_nil : Memory.wf [] = true := rfl

theorem memory_wf_reset : Memory.wf State.reset.ram = true := by
  obtain ⟨h, -⟩ := resetMeetsTheInvariants
  exact h

/-- Only writes of bytes, an engine reset's clearing of ranges and the reset pin change common memory. -/
theorem memory_wf_closed : Closed fun s => Memory.wf s.ram = true := by
  refine' {
    ram := fun _ a bs h => writeBytes_wf h a bs
    ramClear := fun _ lo hi h => sparseClear_memory_wf h lo hi
    held := fun _ _ => memory_wf_nil
    release := fun _ _ => memory_wf_reset
    cleared := fun _ h => h
    .. } <;> intros <;> assumption

/-- Settles O2, by the updates that a step is made of. -/
theorem memoryFormIsKept : Obligations.MemoryFormIsKept :=
  fun _ _ h => memory_wf_closed.step (fun _ _ h => h) h

end Sys2Proof.Machine
end
